-- ==== Sys2Proof/Word.lean ====
section
/-! DEFINITION. The word types of the TL-NZ4 (R5, R154, R158) and their plainest arithmetic. -/

namespace Sys2Proof

/-- A byte; multi-byte values are little-endian (R5). -/
abbrev Byte := BitVec 8
/-- A 64-bit register value (R158). -/
abbrev Word := BitVec 64
/-- A 32-bit grid cell, buffer word or slot word (R12, R154). -/
abbrev Cell := BitVec 32

/-- The bit of a Boolean. -/
def bit1 (b : Bool) : BitVec 1 := BitVec.ofBool b

end Sys2Proof
end

