-- ==== Sys2Proof/Syntax.lean ====
section
/-! DEFINITION. Syntax of the TL-NZ4: one constructor of `Instr` for each row of spec/opcode_table.json. The slot
words (S, A, M, V, C and the null bundle) carry the fields of their encodings (08_opcode_map, R171 to R175); the
events, messages and commands that have no word carry the operands their rules name. -/

namespace Sys2Proof

/-- A global core index (R11). -/
abbrev CoreIx := BitVec 9
/-- A full context tag: generation [15:7], context number [6:0] (R32). -/
abbrev Tag := BitVec 16
/-- A context number as a command names it, 0 to 64 (R32). -/
abbrev CtxNo := BitVec 8
/-- A cluster of the package: die * 16 + cluster (R10). -/
abbrev ClusterIx := BitVec 6

/-- An Ethernet port: A on die 0, B on die 3 (R27). -/
inductive EthPort | a | b
  deriving DecidableEq, Repr

/-- A link of the package (Table 18.1). -/
inductive LinkId
  | die (n : Fin 6)
  | pkg (n : Fin 12)
  | eth (p : EthPort)
  deriving DecidableEq, Repr

/-- An arriving THT datagram (R388, R389): the port, the host's address and UDP port, the device's UDP port, the fields of the header (Table
18.4), the encrypted payload and the tag of 16 bytes. The row that carries it says what its payload holds. -/
structure Hdr where
  port : EthPort
  ip : BitVec 128
  udp : BitVec 16
  dst : BitVec 16
  version : BitVec 8
  type : BitVec 8
  len : BitVec 16
  flow : BitVec 10
  tag : Tag
  seq : BitVec 32
  ack : BitVec 32
  sack : BitVec 64
  operand : Word
  cipher : List Byte
  mac : List Byte
  deriving DecidableEq, Repr

/-- A CMD message: its THT header, the target context and the command id (Table 18.5). -/
structure CmdHdr where
  hdr : Hdr
  target : CtxNo
  id : BitVec 32
  deriving DecidableEq, Repr

/-- The kind of an access, as walks and frame checks see it (R353, Table 17.4). -/
inductive AccKind | read | write | fetch | atomic
  deriving DecidableEq, Repr

/-- Where an uncorrected grid-side error lies (R112, R242): a row, the head entry of an operand queue, or an entry that an M slot
has popped from it. -/
inductive GridErr
  | row (r : BitVec 6)
  | entry (q : BitVec 3)
  | popped (q : BitVec 3)
  deriving DecidableEq, Repr

/-- The unit in which an uncorrectable error was read (R410). -/
inductive UncErr
  | buffer (c : CoreIx)
  | hbm (c : CoreIx)
  | icache (c : CoreIx)
  | core (c : CoreIx)
  deriving DecidableEq, Repr

/-- A unit that counts corrected errors (R409). -/
inductive ErrUnit
  | core (c : CoreIx)
  | memCtl (stack : Fin 12)
  | link (l : LinkId)
  deriving DecidableEq, Repr

/-- A destination to which no route exists (R387). -/
inductive Unreach
  | die (d : BitVec 2)
  | pkg (p : BitVec 6)
  deriving DecidableEq, Repr

/-- A flit as it arrives on a link: the header of Table 18.2, whether its CRC verifies, its link sequence and its
payload. -/
structure Flit where
  tag : Tag
  cls : BitVec 8
  srcDie : BitVec 2
  dstDie : BitVec 2
  srcPkg : BitVec 6
  dstPkg : BitVec 6
  routeSeq : BitVec 32
  linkSeq : BitVec 16
  linkAck : BitVec 16
  crc : BitVec 32
  payload : List Byte
  deriving DecidableEq, Repr

/-- A flit at the end of a link: whether the input buffer has room for it (R382, log 147), and the flit. -/
structure FlitIn where
  room : Bool
  flit : Flit
  deriving DecidableEq, Repr

/-- What the boot sequence finds (Table 20.1, step 2): units that fail their test. -/
structure BootTests where
  failedFelt : List (BitVec 2)
  failedCores : List CoreIx
  failedSpares : List (BitVec 2 × Fin 8)
  failedChannels : List (Fin 12)
  failedLinks : List LinkId
  lanes : List (Fin 12 × Nat)
  seedFails : Bool
  deriving DecidableEq, Repr

/-- A limit of temperature that is reached (R420). -/
inductive Thermal
  | unit105 (kind : BitVec 8) (index : BitVec 8)
  | die115
  deriving DecidableEq, Repr

/-- The action of FAULT_ANSWER (R376). -/
inductive AnswerAct | resume | terminate | complete
  deriving DecidableEq, Repr

/-- The instructions, events, messages and commands of spec/opcode_table.json, in its order. -/
inductive Instr
  /-- NOP, R203. -/
  | nop
  /-- ADD, R182. -/
  | add (d : BitVec 5) (a : BitVec 5) (b : BitVec 5) (l : Bool)
  /-- SUB, R182. -/
  | sub (d : BitVec 5) (a : BitVec 5) (b : BitVec 5) (l : Bool)
  /-- AND, R182. -/
  | and (d : BitVec 5) (a : BitVec 5) (b : BitVec 5) (l : Bool)
  /-- OR, R182. -/
  | or (d : BitVec 5) (a : BitVec 5) (b : BitVec 5) (l : Bool)
  /-- XOR, R182. -/
  | xor (d : BitVec 5) (a : BitVec 5) (b : BitVec 5) (l : Bool)
  /-- ANDN, R182. -/
  | andn (d : BitVec 5) (a : BitVec 5) (b : BitVec 5) (l : Bool)
  /-- SHL, R182. -/
  | shl (d : BitVec 5) (a : BitVec 5) (b : BitVec 5) (l : Bool)
  /-- SHR, R182. -/
  | shr (d : BitVec 5) (a : BitVec 5) (b : BitVec 5) (l : Bool)
  /-- SAR, R182. -/
  | sar (d : BitVec 5) (a : BitVec 5) (b : BitVec 5) (l : Bool)
  /-- ROT, R182. -/
  | rot (d : BitVec 5) (a : BitVec 5) (b : BitVec 5) (l : Bool)
  /-- MIN, R182. -/
  | min (d : BitVec 5) (a : BitVec 5) (b : BitVec 5) (l : Bool)
  /-- MAX, R182. -/
  | max (d : BitVec 5) (a : BitVec 5) (b : BitVec 5) (l : Bool)
  /-- MINU, R182. -/
  | minu (d : BitVec 5) (a : BitVec 5) (b : BitVec 5) (l : Bool)
  /-- MAXU, R182. -/
  | maxu (d : BitVec 5) (a : BitVec 5) (b : BitVec 5) (l : Bool)
  /-- SLT, R182. -/
  | slt (d : BitVec 5) (a : BitVec 5) (b : BitVec 5) (l : Bool)
  /-- SLTU, R182. -/
  | sltu (d : BitVec 5) (a : BitVec 5) (b : BitVec 5) (l : Bool)
  /-- SEQ, R182. -/
  | seq (d : BitVec 5) (a : BitVec 5) (b : BitVec 5) (l : Bool)
  /-- MUL, R184. -/
  | mul (d : BitVec 5) (a : BitVec 5) (b : BitVec 5) (l : Bool)
  /-- MULH, R184. -/
  | mulh (d : BitVec 5) (a : BitVec 5) (b : BitVec 5) (l : Bool)
  /-- MULHU, R184. -/
  | mulhu (d : BitVec 5) (a : BitVec 5) (b : BitVec 5) (l : Bool)
  /-- DIV, R184. -/
  | div (d : BitVec 5) (a : BitVec 5) (b : BitVec 5) (l : Bool)
  /-- DIVU, R184. -/
  | divu (d : BitVec 5) (a : BitVec 5) (b : BitVec 5) (l : Bool)
  /-- REM, R184. -/
  | rem (d : BitVec 5) (a : BitVec 5) (b : BitVec 5) (l : Bool)
  /-- REMU, R184. -/
  | remu (d : BitVec 5) (a : BitVec 5) (b : BitVec 5) (l : Bool)
  /-- SEL, R185. -/
  | sel (d : BitVec 5) (a : BitVec 5) (b : BitVec 5) (l : Bool) (s : BitVec 5)
  /-- CLZ, R186. -/
  | clz (d : BitVec 5) (a : BitVec 5) (w : BitVec 2)
  /-- CTZ, R186. -/
  | ctz (d : BitVec 5) (a : BitVec 5) (w : BitVec 2)
  /-- FFS, R186. -/
  | ffs (d : BitVec 5) (a : BitVec 5) (w : BitVec 2)
  /-- POPC, R186. -/
  | popc (d : BitVec 5) (a : BitVec 5) (w : BitVec 2)
  /-- BREV, R186. -/
  | brev (d : BitVec 5) (a : BitVec 5) (w : BitVec 2)
  /-- BEXT, R186. -/
  | bext (d : BitVec 5) (a : BitVec 5) (b : BitVec 5) (l : Bool) (w : BitVec 2)
  /-- BINS, R186. -/
  | bins (d : BitVec 5) (a : BitVec 5) (b : BitVec 5) (l : Bool) (w : BitVec 2)
  /-- KAND, R187. -/
  | kand (d : BitVec 5) (a : BitVec 5) (b : BitVec 5)
  /-- KOR, R187. -/
  | kor (d : BitVec 5) (a : BitVec 5) (b : BitVec 5)
  /-- KXOR, R187. -/
  | kxor (d : BitVec 5) (a : BitVec 5) (b : BitVec 5)
  /-- KNOT, R187. -/
  | knot (d : BitVec 5) (a : BitVec 5)
  /-- KMOV_K_K, R187. -/
  | kmovKK (d : BitVec 5) (a : BitVec 5)
  /-- KMOV_K_X, R187. -/
  | kmovKX (d : BitVec 5) (a : BitVec 5)
  /-- KMOV_X_K, R187. -/
  | kmovXK (d : BitVec 5) (a : BitVec 5)
  /-- KPOPC, R187. -/
  | kpopc (d : BitVec 5) (a : BitVec 5)
  /-- KFIRST, R187. -/
  | kfirst (d : BitVec 5) (a : BitVec 5)
  /-- ADDI, R183. -/
  | addi (d : BitVec 5) (a : BitVec 5) (i : BitVec 15)
  /-- ANDI, R183. -/
  | andi (d : BitVec 5) (a : BitVec 5) (i : BitVec 15)
  /-- ORI, R183. -/
  | ori (d : BitVec 5) (a : BitVec 5) (i : BitVec 15)
  /-- XORI, R183. -/
  | xori (d : BitVec 5) (a : BitVec 5) (i : BitVec 15)
  /-- SHLI, R183. -/
  | shli (d : BitVec 5) (a : BitVec 5) (i : BitVec 15)
  /-- SHRI, R183. -/
  | shri (d : BitVec 5) (a : BitVec 5) (i : BitVec 15)
  /-- SARI, R183. -/
  | sari (d : BitVec 5) (a : BitVec 5) (i : BitVec 15)
  /-- LI, R183. -/
  | li (d : BitVec 5) (i : BitVec 15)
  /-- B_EQ, R188. -/
  | bEq (a : BitVec 5) (b : BitVec 5) (o : BitVec 12)
  /-- B_NE, R188. -/
  | bNe (a : BitVec 5) (b : BitVec 5) (o : BitVec 12)
  /-- B_LT, R188. -/
  | bLt (a : BitVec 5) (b : BitVec 5) (o : BitVec 12)
  /-- B_GE, R188. -/
  | bGe (a : BitVec 5) (b : BitVec 5) (o : BitVec 12)
  /-- B_LTU, R188. -/
  | bLtu (a : BitVec 5) (b : BitVec 5) (o : BitVec 12)
  /-- B_GEU, R188. -/
  | bGeu (a : BitVec 5) (b : BitVec 5) (o : BitVec 12)
  /-- J, R188. -/
  | j (o : BitVec 25)
  /-- CALL, R189. -/
  | call (o : BitVec 25)
  /-- RET, R189. -/
  | ret (a : BitVec 5)
  /-- LOOP, R190. -/
  | loop (a : BitVec 5) (o : BitVec 12)
  /-- CSRR, R192. -/
  | csrr (d : BitVec 5) (c : BitVec 12)
  /-- CSRW, R191. -/
  | csrw (a : BitVec 5) (c : BitVec 12)
  /-- CSRS, R191. -/
  | csrs (a : BitVec 5) (c : BitVec 12)
  /-- CSRC, R191. -/
  | csrc (a : BitVec 5) (c : BitVec 12)
  /-- SETFMT, R193. -/
  | setfmt (a : BitVec 5)
  /-- SETSHAPE, R194. -/
  | setshape (d : BitVec 5) (a : BitVec 5) (b : BitVec 5)
  /-- SETTILE, R195. -/
  | settile (d : BitVec 5) (a : BitVec 5)
  /-- SEED, R196. -/
  | seed (a : BitVec 5)
  /-- TRAP, R197. -/
  | trap (n : BitVec 15)
  /-- ERET, R198. -/
  | eret
  /-- CSYNC, R199. -/
  | csync
  /-- BARA, R200. -/
  | bara (n : BitVec 4)
  /-- BARW, R200. -/
  | barw (n : BitVec 4)
  /-- FWAIT, R201. -/
  | fwait (a : BitVec 5) (s : BitVec 3) (l : Bool) (n : BitVec 8)
  /-- EXIT, R202. -/
  | exit
  /-- NULL_BUNDLE, R148. -/
  | nullBundle (x : Bool) (r : Bool) (s : Bool)
  /-- LD_B, R207. -/
  | ldB (d : BitVec 5) (b : BitVec 5) (p : BitVec 2) (o : BitVec 13)
  /-- LD_H, R207. -/
  | ldH (d : BitVec 5) (b : BitVec 5) (p : BitVec 2) (o : BitVec 13)
  /-- LD_W, R207. -/
  | ldW (d : BitVec 5) (b : BitVec 5) (p : BitVec 2) (o : BitVec 13)
  /-- LD_D, R207. -/
  | ldD (d : BitVec 5) (b : BitVec 5) (p : BitVec 2) (o : BitVec 13)
  /-- LD_BU, R207. -/
  | ldBu (d : BitVec 5) (b : BitVec 5) (p : BitVec 2) (o : BitVec 13)
  /-- LD_HU, R207. -/
  | ldHu (d : BitVec 5) (b : BitVec 5) (p : BitVec 2) (o : BitVec 13)
  /-- LD_WU, R207. -/
  | ldWu (d : BitVec 5) (b : BitVec 5) (p : BitVec 2) (o : BitVec 13)
  /-- ST_B, R207. -/
  | stB (s : BitVec 5) (b : BitVec 5) (p : BitVec 2) (o : BitVec 13)
  /-- ST_H, R207. -/
  | stH (s : BitVec 5) (b : BitVec 5) (p : BitVec 2) (o : BitVec 13)
  /-- ST_W, R207. -/
  | stW (s : BitVec 5) (b : BitVec 5) (p : BitVec 2) (o : BitVec 13)
  /-- ST_D, R207. -/
  | stD (s : BitVec 5) (b : BitVec 5) (p : BitVec 2) (o : BitVec 13)
  /-- LDG_B, R209. -/
  | ldgB (d : BitVec 5) (b : BitVec 5) (o : BitVec 13)
  /-- LDG_H, R209. -/
  | ldgH (d : BitVec 5) (b : BitVec 5) (o : BitVec 13)
  /-- LDG_W, R209. -/
  | ldgW (d : BitVec 5) (b : BitVec 5) (o : BitVec 13)
  /-- LDG_D, R209. -/
  | ldgD (d : BitVec 5) (b : BitVec 5) (o : BitVec 13)
  /-- LDG_BU, R209. -/
  | ldgBu (d : BitVec 5) (b : BitVec 5) (o : BitVec 13)
  /-- LDG_HU, R209. -/
  | ldgHu (d : BitVec 5) (b : BitVec 5) (o : BitVec 13)
  /-- LDG_WU, R209. -/
  | ldgWu (d : BitVec 5) (b : BitVec 5) (o : BitVec 13)
  /-- STG_B, R209. -/
  | stgB (s : BitVec 5) (b : BitVec 5) (o : BitVec 13)
  /-- STG_H, R209. -/
  | stgH (s : BitVec 5) (b : BitVec 5) (o : BitVec 13)
  /-- STG_W, R209. -/
  | stgW (s : BitVec 5) (b : BitVec 5) (o : BitVec 13)
  /-- STG_D, R209. -/
  | stgD (s : BitVec 5) (b : BitVec 5) (o : BitVec 13)
  /-- QFILL, R212. -/
  | qfill (q : BitVec 3) (b : BitVec 5) (p : BitVec 2) (o : BitVec 13)
  /-- QFILLT, R212. -/
  | qfillt (q : BitVec 3) (b : BitVec 5) (p : BitVec 2) (o : BitVec 13)
  /-- QFILLG, R213. -/
  | qfillg (q : BitVec 3) (b : BitVec 5) (o : BitVec 13)
  /-- QFILLG_FF, R214. -/
  | qfillgFf (q : BitVec 3) (b : BitVec 5) (c : BitVec 5)
  /-- VLD, R215. -/
  | vld (r : BitVec 6) (b : BitVec 5) (o : BitVec 13)
  /-- VST, R215. -/
  | vst (r : BitVec 6) (b : BitVec 5) (p : BitVec 2) (o : BitVec 13)
  /-- SEND, R218. -/
  | send (d : BitVec 5) (b : BitVec 5) (o : BitVec 13)
  /-- RECV, R218. -/
  | recv (d : BitVec 5) (b : BitVec 5) (o : BitVec 13)
  /-- AMO_ADD, R221. -/
  | amoAdd (d : BitVec 5) (b : BitVec 5) (s : BitVec 5) (o : BitVec 3) (c : BitVec 3) (w : Bool)
  /-- AMO_MIN, R221. -/
  | amoMin (d : BitVec 5) (b : BitVec 5) (s : BitVec 5) (o : BitVec 3) (c : BitVec 3) (w : Bool)
  /-- AMO_MAX, R221. -/
  | amoMax (d : BitVec 5) (b : BitVec 5) (s : BitVec 5) (o : BitVec 3) (c : BitVec 3) (w : Bool)
  /-- AMO_XCHG, R221. -/
  | amoXchg (d : BitVec 5) (b : BitVec 5) (s : BitVec 5) (o : BitVec 3) (c : BitVec 3) (w : Bool)
  /-- AMO_AND, R221. -/
  | amoAnd (d : BitVec 5) (b : BitVec 5) (s : BitVec 5) (o : BitVec 3) (c : BitVec 3) (w : Bool)
  /-- AMO_OR, R221. -/
  | amoOr (d : BitVec 5) (b : BitVec 5) (s : BitVec 5) (o : BitVec 3) (c : BitVec 3) (w : Bool)
  /-- AMO_CAS, R222. -/
  | amoCas (d : BitVec 5) (b : BitVec 5) (s : BitVec 5) (f : BitVec 3) (o : BitVec 3) (c : BitVec 3) (w : Bool)
  /-- AMOSC_ADD, R223. -/
  | amoscAdd (d : BitVec 5) (b : BitVec 5) (s : BitVec 5) (w : Bool)
  /-- AMOSC_MIN, R223. -/
  | amoscMin (d : BitVec 5) (b : BitVec 5) (s : BitVec 5) (w : Bool)
  /-- AMOSC_MAX, R223. -/
  | amoscMax (d : BitVec 5) (b : BitVec 5) (s : BitVec 5) (w : Bool)
  /-- AMOSC_XCHG, R223. -/
  | amoscXchg (d : BitVec 5) (b : BitVec 5) (s : BitVec 5) (w : Bool)
  /-- AMOSC_AND, R223. -/
  | amoscAnd (d : BitVec 5) (b : BitVec 5) (s : BitVec 5) (w : Bool)
  /-- AMOSC_OR, R223. -/
  | amoscOr (d : BitVec 5) (b : BitVec 5) (s : BitVec 5) (w : Bool)
  /-- AMOSC_CAS, R223. -/
  | amoscCas (d : BitVec 5) (b : BitVec 5) (s : BitVec 5) (w : Bool)
  /-- FENCE_ACQ, R225. -/
  | fenceAcq (c : BitVec 3)
  /-- FENCE_REL, R225. -/
  | fenceRel (c : BitVec 3)
  /-- FENCE_ACQREL, R225. -/
  | fenceAcqrel (c : BitVec 3)
  /-- FENCE_SC, R225. -/
  | fenceSc
  /-- PREF, R226. -/
  | pref (b : BitVec 5) (o : BitVec 13)
  /-- RK, R234. -/
  | rk (a : BitVec 2) (b : BitVec 2) (t : BitVec 2)
  /-- RKS, R234. -/
  | rks (a : BitVec 2) (b : BitVec 2) (t : BitVec 2) (m : BitVec 3) (n : BitVec 3)
  /-- RKA, R234. -/
  | rka (a : BitVec 2) (b : BitVec 2) (t : BitVec 2) (m : BitVec 3) (n : BitVec 3)
  /-- RKN, R234. -/
  | rkn (a : BitVec 2) (b : BitVec 2) (t : BitVec 2)
  /-- GZERO, R235. -/
  | gzero (t : BitVec 2)
  /-- GCOPY, R236. -/
  | gcopy (t : BitVec 2) (s : BitVec 1)
  /-- GXPOSE, R237. -/
  | gxpose
  /-- GSCALE_QS, R238. -/
  | gscaleQs (t : BitVec 2) (m : BitVec 3)
  /-- GSCALE_LITERAL, R238. -/
  | gscaleLiteral (t : BitVec 2)
  /-- MPOP, R239. -/
  | mpop (a : BitVec 2) (b : BitVec 2) (p : BitVec 2)
  /-- VADD, R252. -/
  | vadd (d : BitVec 8) (a : BitVec 8) (b : BitVec 8) (m : Bool)
  /-- VSUB, R252. -/
  | vsub (d : BitVec 8) (a : BitVec 8) (b : BitVec 8) (m : Bool)
  /-- VMUL, R252. -/
  | vmul (d : BitVec 8) (a : BitVec 8) (b : BitVec 8) (m : Bool)
  /-- VFMA, R252. -/
  | vfma (d : BitVec 8) (a : BitVec 8) (b : BitVec 8) (m : Bool)
  /-- VFMS, R252. -/
  | vfms (d : BitVec 8) (a : BitVec 8) (b : BitVec 8) (m : Bool)
  /-- VFNMA, R252. -/
  | vfnma (d : BitVec 8) (a : BitVec 8) (b : BitVec 8) (m : Bool)
  /-- VMIN, R252. -/
  | vmin (d : BitVec 8) (a : BitVec 8) (b : BitVec 8) (m : Bool)
  /-- VMAX, R252. -/
  | vmax (d : BitVec 8) (a : BitVec 8) (b : BitVec 8) (m : Bool)
  /-- VABS, R252. -/
  | vabs (d : BitVec 8) (a : BitVec 8) (m : Bool)
  /-- VNEG, R252. -/
  | vneg (d : BitVec 8) (a : BitVec 8) (m : Bool)
  /-- VCPYS, R252. -/
  | vcpys (d : BitVec 8) (a : BitVec 8) (b : BitVec 8) (m : Bool)
  /-- VIADD, R253. -/
  | viadd (d : BitVec 8) (a : BitVec 8) (b : BitVec 8) (m : Bool)
  /-- VISUB, R253. -/
  | visub (d : BitVec 8) (a : BitVec 8) (b : BitVec 8) (m : Bool)
  /-- VIMUL, R253. -/
  | vimul (d : BitVec 8) (a : BitVec 8) (b : BitVec 8) (m : Bool)
  /-- VIMULH, R253. -/
  | vimulh (d : BitVec 8) (a : BitVec 8) (b : BitVec 8) (m : Bool)
  /-- VIMIN, R253. -/
  | vimin (d : BitVec 8) (a : BitVec 8) (b : BitVec 8) (m : Bool)
  /-- VIMAX, R253. -/
  | vimax (d : BitVec 8) (a : BitVec 8) (b : BitVec 8) (m : Bool)
  /-- VAND, R253. -/
  | vand (d : BitVec 8) (a : BitVec 8) (b : BitVec 8) (m : Bool)
  /-- VOR, R253. -/
  | vor (d : BitVec 8) (a : BitVec 8) (b : BitVec 8) (m : Bool)
  /-- VXOR, R253. -/
  | vxor (d : BitVec 8) (a : BitVec 8) (b : BitVec 8) (m : Bool)
  /-- VSHL, R253. -/
  | vshl (d : BitVec 8) (a : BitVec 8) (b : BitVec 8) (m : Bool)
  /-- VSHR, R253. -/
  | vshr (d : BitVec 8) (a : BitVec 8) (b : BitVec 8) (m : Bool)
  /-- VSAR, R253. -/
  | vsar (d : BitVec 8) (a : BitVec 8) (b : BitVec 8) (m : Bool)
  /-- VCMP_EQ, R255. -/
  | vcmpEq (k : BitVec 3) (a : BitVec 8) (b : BitVec 8) (m : Bool)
  /-- VCMP_NE, R255. -/
  | vcmpNe (k : BitVec 3) (a : BitVec 8) (b : BitVec 8) (m : Bool)
  /-- VCMP_LT, R255. -/
  | vcmpLt (k : BitVec 3) (a : BitVec 8) (b : BitVec 8) (m : Bool)
  /-- VCMP_LE, R255. -/
  | vcmpLe (k : BitVec 3) (a : BitVec 8) (b : BitVec 8) (m : Bool)
  /-- VCMP_GT, R255. -/
  | vcmpGt (k : BitVec 3) (a : BitVec 8) (b : BitVec 8) (m : Bool)
  /-- VCMP_GE, R255. -/
  | vcmpGe (k : BitVec 3) (a : BitVec 8) (b : BitVec 8) (m : Bool)
  /-- VCMP_UN, R255. -/
  | vcmpUn (k : BitVec 3) (a : BitVec 8) (b : BitVec 8) (m : Bool)
  /-- VSEL, R256. -/
  | vsel (d : BitVec 8) (a : BitVec 8) (b : BitVec 8)
  /-- VCLASS, R257. -/
  | vclass (d : BitVec 8) (a : BitVec 8) (m : Bool)
  /-- VMULW, R254. -/
  | vmulw (d : BitVec 8) (a : BitVec 8) (b : BitVec 8) (m : Bool)
  /-- VEXP2, R258. -/
  | vexp2 (d : BitVec 8) (a : BitVec 8) (m : Bool)
  /-- VLOG2, R258. -/
  | vlog2 (d : BitVec 8) (a : BitVec 8) (m : Bool)
  /-- VRCP, R258. -/
  | vrcp (d : BitVec 8) (a : BitVec 8) (m : Bool)
  /-- VRSQ, R258. -/
  | vrsq (d : BitVec 8) (a : BitVec 8) (m : Bool)
  /-- VSQRT, R258. -/
  | vsqrt (d : BitVec 8) (a : BitVec 8) (m : Bool)
  /-- VSINP, R258. -/
  | vsinp (d : BitVec 8) (a : BitVec 8) (m : Bool)
  /-- VCOSP, R258. -/
  | vcosp (d : BitVec 8) (a : BitVec 8) (m : Bool)
  /-- VTANH, R258. -/
  | vtanh (d : BitVec 8) (a : BitVec 8) (m : Bool)
  /-- VSIGM, R258. -/
  | vsigm (d : BitVec 8) (a : BitVec 8) (m : Bool)
  /-- VCVT, R261. -/
  | vcvt (d : BitVec 8) (a : BitVec 8) (m : Bool)
  /-- VQNT, R262. -/
  | vqnt (d : BitVec 8) (a : BitVec 8) (q : BitVec 3) (m : Bool)
  /-- VQNT_LOAD, R262. -/
  | vqntLoad (a : BitVec 8) (q : BitVec 3)
  /-- VDQNT, R262. -/
  | vdqnt (d : BitVec 8) (a : BitVec 8) (q : BitVec 3) (m : Bool)
  /-- VDQNT_STORE, R262. -/
  | vdqntStore (d : BitVec 8) (q : BitVec 3)
  /-- VBSC_LOAD, R263. -/
  | vbscLoad (a : BitVec 8) (e : BitVec 3)
  /-- VBSC_STORE, R263. -/
  | vbscStore (d : BitVec 8) (e : BitVec 3)
  /-- VBSC_APPLY, R263. -/
  | vbscApply (d : BitVec 8) (a : BitVec 8) (e : BitVec 3) (m : Bool)
  /-- VBQNT, R264. -/
  | vbqnt (d : BitVec 8) (a : BitVec 8) (e : BitVec 3) (m : Bool)
  /-- VPACK, R265. -/
  | vpack (d : BitVec 8) (a : BitVec 8) (b : BitVec 8) (m : Bool)
  /-- VUNPK, R266. -/
  | vunpk (d : BitVec 8) (a : BitVec 8) (m : Bool)
  /-- VRED_SUM, R267. -/
  | vredSum (d : BitVec 8) (a : BitVec 8) (m : Bool)
  /-- VRED_MAX, R267. -/
  | vredMax (d : BitVec 8) (a : BitVec 8) (m : Bool)
  /-- VRED_MIN, R267. -/
  | vredMin (d : BitVec 8) (a : BitVec 8) (m : Bool)
  /-- VRED_AMAX, R267. -/
  | vredAmax (d : BitVec 8) (a : BitVec 8) (m : Bool)
  /-- VSCAN_SUM, R268. -/
  | vscanSum (d : BitVec 8) (a : BitVec 8) (m : Bool)
  /-- VSCAN_MAX, R268. -/
  | vscanMax (d : BitVec 8) (a : BitVec 8) (m : Bool)
  /-- VSCAN_MIN, R268. -/
  | vscanMin (d : BitVec 8) (a : BitVec 8) (m : Bool)
  /-- VMOV, R269. -/
  | vmov (d : BitVec 8) (a : BitVec 8) (m : Bool)
  /-- VPERM, R270. -/
  | vperm (d : BitVec 8) (a : BitVec 8) (b : BitVec 8) (m : Bool)
  /-- VROT, R271. -/
  | vrot (d : BitVec 8) (a : BitVec 8) (c : BitVec 6) (m : Bool)
  /-- VFILL, R272. -/
  | vfill (d : BitVec 8) (a : BitVec 8) (m : Bool)
  /-- VRAND, R273. -/
  | vrand (d : BitVec 8)
  /-- VXFER_ELEMENT, R274. -/
  | vxferElement (d : BitVec 5) (a : BitVec 8) (l : BitVec 6)
  /-- VXFER_KCOUNT, R274. -/
  | vxferKcount (d : BitVec 5) (k : BitVec 3)
  /-- CPY, R281. -/
  | cpy (q : BitVec 2) (a : BitVec 5) (b : BitVec 5) (c : BitVec 5) (l : Bool) (y : BitVec 2) (z : BitVec 2)
  /-- CPY2D, R282. -/
  | cpy2d (q : BitVec 2) (a : BitVec 5) (b : BitVec 5) (c : BitVec 5) (l : Bool) (y : BitVec 2) (z : BitVec 2)
  /-- CPYB, R283. -/
  | cpyb (q : BitVec 2) (a : BitVec 5) (b : BitVec 5) (c : BitVec 5) (l : Bool) (y : BitVec 2) (z : BitVec 2)
  /-- STRM, R284. -/
  | strm (a : BitVec 5)
  /-- SCTR, R286. -/
  | sctr (a : BitVec 5) (b : BitVec 5) (c : BitVec 5) (l : Bool)
  /-- RRED, R287. -/
  | rred (a : BitVec 5) (b : BitVec 5) (c : BitVec 5) (l : Bool)
  /-- QPUSH, R288. -/
  | qpush (a : BitVec 5) (b : BitVec 5)
  /-- FSIG, R289. -/
  | fsig (a : BitVec 5) (c : BitVec 5) (l : Bool) (s : BitVec 3)
  /-- CWAIT, R290. -/
  | cwait (q : BitVec 2) (a : BitVec 5) (c : BitVec 5) (l : Bool) (s : BitVec 3)
  /-- QFENCE, R291. -/
  | qfence (m : BitVec 6)
  /-- TEXEC, R297. -/
  | texec (a : BitVec 5)
  /-- TISSUE, R298. -/
  | tissue (a : BitVec 5) (d : BitVec 2)
  /-- WFENCE, R292. -/
  | wfence
  /-- SR_FLAGS_WRITE, R146. -/
  | srFlagsWrite (c : CoreIx)
  /-- SR_COUCHM_WRITE, R119. -/
  | srCouchmWrite (c : CoreIx)
  /-- PROGRAM_COUCH_SAVE, R120. -/
  | programCouchSave (c : CoreIx)
  /-- PROGRAM_COUCH_RESTORE, R120. -/
  | programCouchRestore (c : CoreIx)
  /-- INSTRUCTION_FETCH, R152. -/
  | instructionFetch (c : CoreIx)
  /-- RESTART_MARK, R102. -/
  | restartMark (c : CoreIx)
  /-- EXPOSED_RESULT_WRITE, R164. -/
  | exposedResultWrite (c : CoreIx)
  /-- LDG_RETURN, R209. -/
  | ldgReturn (c : CoreIx)
  /-- FILL_SETTLE, R213. -/
  | fillSettle (c : CoreIx) (q : BitVec 3)
  /-- FILL_DELIVERY, R212. -/
  | fillDelivery (c : CoreIx) (q : BitVec 3)
  /-- ROLLBACK, R106. -/
  | rollback (c : CoreIx)
  /-- TRAP_ENTRY, R403. -/
  | trapEntry (c : CoreIx)
  /-- GRID_ISSUE, R232. -/
  | gridIssue (c : CoreIx)
  /-- M_WRITE_CYCLE, R233. -/
  | mWriteCycle (c : CoreIx)
  /-- V_WRITE_CYCLE, R249. -/
  | vWriteCycle (c : CoreIx)
  /-- VLD_WRITE, R215. -/
  | vldWrite (c : CoreIx)
  /-- OPERAND_STARVATION, R240. -/
  | operandStarvation (c : CoreIx)
  /-- GRID_ERROR, R112. -/
  | gridError (c : CoreIx) (e : GridErr)
  /-- GROUP_LULL, R113. -/
  | groupLull (g : Nat)
  /-- SAVE_DONE, R116. -/
  | saveDone (g : Nat)
  /-- RESTORE_DONE, R117. -/
  | restoreDone (g : Nat)
  /-- GROUP_PLACEMENT, R99. -/
  | groupPlacement (die : BitVec 2)
  /-- GROUP_END, R99. -/
  | groupEnd (g : Nat)
  /-- SLICE_BOUNDARY, R76. -/
  | sliceBoundary (part : BitVec 6)
  /-- PASS_OVER_TIMEOUT, R77. -/
  | passOverTimeout (g : Nat)
  /-- CORE_SUBSTITUTION, R17. -/
  | coreSubstitution (c : CoreIx)
  /-- CHANNEL_RETIREMENT, R24. -/
  | channelRetirement (stack : Fin 12)
  /-- BUDGET_WINDOW, R48. -/
  | budgetWindow (port : EthPort)
  /-- FREQUENCY_CHANGE, R15. -/
  | frequencyChange (cl : ClusterIx) (mhz : Nat)
  /-- CALENDER_POSITION, R223. -/
  | calenderPosition (c : CoreIx)
  /-- FENCE_DONE, R225. -/
  | fenceDone (c : CoreIx)
  /-- FWAIT_PASS, R201. -/
  | fwaitPass (c : CoreIx)
  /-- CWAIT_PASS, R290. -/
  | cwaitPass (c : CoreIx) (q : BitVec 2)
  /-- BARRIER_RELEASE, R325. -/
  | barrierRelease (g : Nat) (b : BitVec 4)
  /-- CSYNC_COMPLETE, R317. -/
  | csyncComplete (c : CoreIx)
  /-- QFENCE_DONE, R291. -/
  | qfenceDone (c : CoreIx)
  /-- WFENCE_DONE, R292. -/
  | wfenceDone (c : CoreIx)
  /-- REGION_LIMIT, R319. -/
  | regionLimit (c : CoreIx)
  /-- CHUNK_TRANSFER, R219. -/
  | chunkTransfer (c : CoreIx)
  /-- ENGINE_OP_START, R278. -/
  | engineOpStart (c : CoreIx) (q : BitVec 3)
  /-- ENGINE_OP_PERFORMED, R278. -/
  | engineOpPerformed (c : CoreIx) (q : BitVec 3)
  /-- ENGINE_FAULT, R279. -/
  | engineFault (c : CoreIx) (q : BitVec 3)
  /-- FSIG_PERFORM, R289. -/
  | fsigPerform (c : CoreIx)
  /-- QPUSH_APPEND, R288. -/
  | qpushAppend (c : CoreIx)
  /-- SCATTER_TRAIN_APPLY, R286. -/
  | scatterTrainApply (c : CoreIx)
  /-- RRED_APPLY, R287. -/
  | rredApply (c : CoreIx)
  /-- MEMORY_ACCESS, R363. -/
  | memoryAccess (tag : Tag) (pa : BitVec 48) (k : AccKind) (len : Nat) (data : List Byte)
  /-- TABLE_WALK, R353. -/
  | tableWalk (c : CoreIx) (va : Word) (k : AccKind)
  /-- INTEGRITY_MISMATCH, R43. -/
  | integrityMismatch (pa : BitVec 48) (detail : BitVec 4)
  /-- WALK_START, R369. -/
  | walkStart (die : BitVec 2)
  /-- COUNTER_BLOCK_REWRITE, R369. -/
  | counterBlockRewrite (die : BitVec 2) (unit : Nat)
  /-- PAGE_HASH, R85. -/
  | pageHash (ctx : CtxNo) (va : Word)
  /-- TILE_RECORD_ACCEPT, R300. -/
  | tileRecordAccept (id : Nat)
  /-- STAGING_COPY_DONE, R308. -/
  | stagingCopyDone (cl : ClusterIx)
  /-- MACRO_SEQUENCER_RUN, R311. -/
  | macroSequencerRun (c : CoreIx)
  /-- TILE_RECORD_COMPLETE, R300. -/
  | tileRecordComplete (id : Nat)
  /-- TILE_FAULT_RECORD, R315. -/
  | tileFaultRecord (id : Nat)
  /-- FLIT_RECEIVE, R381. -/
  | flitReceive (l : LinkId) (f : FlitIn)
  /-- NEGATIVE_ACKNOWLEDGEMENT, R382. -/
  | negativeAcknowledgement (l : LinkId) (seq : BitVec 16)
  /-- IDLE_FLIT, R382. -/
  | idleFlit (l : LinkId)
  /-- LINK_FAILURE, R382. -/
  | linkFailure (l : LinkId)
  /-- CLASS2_RESUME, R385. -/
  | class2Resume (l : LinkId)
  /-- LANE_FAILURE, R384. -/
  | laneFailure (l : LinkId) (lane : BitVec 3)
  /-- TRAINING_DONE, R383. -/
  | trainingDone (l : LinkId) (goodLanes : Nat)
  /-- UNREACHABLE_TIMEOUT, R387. -/
  | unreachableTimeout (d : Unreach)
  /-- APPEND, R65. -/
  | append (h : Hdr) (queue : BitVec 16) (entries : List (List Byte))
  /-- READ, R395. -/
  | read (h : Hdr) (va : Word) (len : BitVec 32) (id : BitVec 32)
  /-- WRITE, R395. -/
  | write (h : Hdr) (va : Word) (id : BitVec 32) (data : List Byte)
  /-- XLATE, R396. -/
  | xlate (h : Hdr) (va : Word) (pages : BitVec 16) (watch : Bool)
  /-- ACK, R392. -/
  | ack (h : Hdr)
  /-- READ_DATA, R397. -/
  | readData (h : Hdr) (id : BitVec 32) (status : BitVec 8) (off : BitVec 24) (data : List Byte)
  /-- WRITE_DONE, R397. -/
  | writeDone (h : Hdr) (id : BitVec 32) (status : BitVec 8)
  /-- CMD whose code no table defines, R37. -/
  | cmd (h : CmdHdr) (code : BitVec 8)
  /-- ACK_TIMER, R392. -/
  | ackTimer (port : EthPort) (flow : BitVec 10)
  /-- THT_RETRANSMIT, R392. -/
  | thtRetransmit (port : EthPort) (flow : BitVec 10)
  /-- EVENT_RETRY, R59. -/
  | eventRetry (ctx : CtxNo)
  /-- CTX_CREATE, R36. -/
  | ctxCreate (h : CmdHdr)
  /-- CTX_WRITE, R35. -/
  | ctxWrite (h : CmdHdr) (image : List Byte)
  /-- CTX_READ, R34. -/
  | ctxRead (h : CmdHdr)
  /-- CTX_BIND, R36. -/
  | ctxBind (h : CmdHdr)
  /-- CTX_LULL, R52. -/
  | ctxLull (h : CmdHdr)
  /-- CTX_THAW, R53. -/
  | ctxThaw (h : CmdHdr)
  /-- CTX_RESET, R54. -/
  | ctxReset (h : CmdHdr)
  /-- RESET_DRAIN_DONE, R54. -/
  | resetDrainDone (ctx : CtxNo)
  /-- CTX_DESTROY, R36. -/
  | ctxDestroy (h : CmdHdr)
  /-- CTX_MIGRATE, R57. -/
  | ctxMigrate (h : CmdHdr)
  /-- CTX_MIGRATE_ABORT, R36. -/
  | ctxMigrateAbort (h : CmdHdr)
  /-- CTX_DIRTY, R57. -/
  | ctxDirty (h : CmdHdr) (first : BitVec 64) (count : BitVec 32)
  /-- CTX_EXPORT, R58. -/
  | ctxExport (h : CmdHdr) (handle : BitVec 8)
  /-- CTX_IMPORT, R58. -/
  | ctxImport (h : CmdHdr) (handle : BitVec 8)
  /-- CTX_RELEASE, R36. -/
  | ctxRelease (h : CmdHdr)
  /-- MKEY_SET, R453. -/
  | mkeySet (h : CmdHdr) (handle : BitVec 8) (key : BitVec 256) (buf : Word) (len : Word) (part : BitVec 8)
      (sroot : Word)
  /-- WIN_GRANT, R44. -/
  | winGrant (h : CmdHdr) (base : Word) (len : Word) (peer : Tag)
  /-- WIN_ACCEPT, R45. -/
  | winAccept (h : CmdHdr) (handle : BitVec 32) (base : Word)
  /-- WIN_REVOKE, R47. -/
  | winRevoke (h : CmdHdr) (handle : BitVec 32)
  /-- PARTITION_TABLE_WRITE, R39. -/
  | partitionTableWrite (part : BitVec 6) (mask : BitVec 512) (weights : List Nat) (xbar : List (CoreIx × CoreIx))
  /-- QUEUE_OPEN, R63. -/
  | queueOpen (h : CmdHdr) (queue : BitVec 16) (kind : BitVec 8) (ring : Word) (s : BitVec 8) (prio : BitVec 8)
      (home : BitVec 8)
  /-- QUEUE_CLOSE, R69. -/
  | queueClose (h : CmdHdr) (queue : BitVec 16)
  /-- QUEUE_SETPRIO, R64. -/
  | queueSetprio (h : CmdHdr) (queue : BitVec 16) (prio : BitVec 8)
  /-- QUEUE_RESUME, R69. -/
  | queueResume (h : CmdHdr) (queue : BitVec 16) (mode : BitVec 8)
  /-- QUEUE_READ, R63. -/
  | queueRead (h : CmdHdr) (queue : BitVec 16)
  /-- QUEUE_CONSUME, R78. -/
  | queueConsume (h : CmdHdr) (queue : BitVec 16) (count : Word)
  /-- FC_READ, R63. -/
  | fcRead (h : CmdHdr) (first : BitVec 16) (count : BitVec 16)
  /-- KERNEL_LOAD, R82. -/
  | kernelLoad (h : CmdHdr) (image : Word) (len : BitVec 32) (code : Word) (range : Word)
  /-- KERNEL_UNLOAD, R86. -/
  | kernelUnload (h : CmdHdr) (handle : BitVec 32)
  /-- KERNEL_QUERY, R83. -/
  | kernelQuery (h : CmdHdr) (handle : BitVec 32)
  /-- CODEKEY_SET, R81. -/
  | codekeySet (h : CmdHdr) (slot : BitVec 8) (key : BitVec 384) (mask : BitVec 64)
  /-- PAGE_BIND, R362. -/
  | pageBind (h : CmdHdr) (pa : Word) (count : BitVec 32) (tag : Tag)
  /-- PAGE_UNBIND, R362. -/
  | pageUnbind (h : CmdHdr) (pa : Word) (count : BitVec 32)
  /-- PAGE_RETIRE, R362. -/
  | pageRetire (h : CmdHdr) (pa : Word) (count : BitVec 32)
  /-- PAGE_QUERY, R361. -/
  | pageQuery (h : CmdHdr) (pa : Word)
  /-- TLB_INVAL, R359. -/
  | tlbInval (h : CmdHdr) (tag : Tag) (va : Word) (len : Word)
  /-- FAULT_RING, R374. -/
  | faultRing (h : CmdHdr) (pa : Word) (s : BitVec 8)
  /-- FAULT_ANSWER, R376. -/
  | faultAnswer (h : CmdHdr) (seq : Word) (act : AnswerAct)
  /-- PAGE_EXPORT, R455. -/
  | pageExport (h : CmdHdr) (handle : BitVec 8) (tag : Tag) (pa : Word) (count : BitVec 32) (out : Word)
  /-- PAGE_IMPORT, R457. -/
  | pageImport (h : CmdHdr) (handle : BitVec 8) (pa : Word) (blob : Word)
  /-- FLOW_OPEN, R398. -/
  | flowOpen (h : CmdHdr) (port : EthPort) (flow : BitVec 16) (tag : Tag) (ip : BitVec 128) (udp : BitVec 16)
      (key : BitVec 256)
  /-- FLOW_CLOSE, R393. -/
  | flowClose (h : CmdHdr) (port : EthPort) (flow : BitVec 16)
  /-- HWIN_SET, R397. -/
  | hwinSet (h : CmdHdr) (win : BitVec 8) (base : Word) (len : Word) (port : EthPort) (flow : BitVec 16)
      (hbase : Word)
  /-- SPAN_SET, R399. -/
  | spanSet (h : CmdHdr) (mask : BitVec 64) (tags : List Tag)
  /-- LINK_QUERY, R398. -/
  | linkQuery (h : CmdHdr) (l : LinkId)
  /-- LINK_RETIRE, R383. -/
  | linkRetire (h : CmdHdr) (l : LinkId)
  /-- SPAN_GEN, R399. -/
  | spanGen (h : CmdHdr) (member : BitVec 8) (tag : Tag)
  /-- FW_LOAD, R416. -/
  | fwLoad (h : CmdHdr) (image : Word) (len : BitVec 32)
  /-- FW_COMMIT, R415. -/
  | fwCommit (h : CmdHdr) (component : BitVec 8) (value : BitVec 8)
  /-- CAP_READ, R417. -/
  | capRead (h : CmdHdr)
  /-- POWER_SET, R420. -/
  | powerSet (h : CmdHdr) (kind : BitVec 8) (index : BitVec 8) (mw : BitVec 32)
  /-- POWER_ON, R412. -/
  | powerOn (t : BootTests)
  /-- PACKAGE_RESET, R383. -/
  | packageReset
  /-- POWER_WINDOW, R419. -/
  | powerWindow (kind : BitVec 8) (index : BitVec 8) (mhz : Nat)
  /-- THERMAL_LIMIT, R420. -/
  | thermalLimit (t : Thermal)
  /-- CORRECTED_ERROR, R409. -/
  | correctedError (u : ErrUnit) (detail : BitVec 4)
  /-- UNCORRECTABLE_ERROR, R410. -/
  | uncorrectableError (e : UncErr)
  /-- POWER_LOSS, R415. -/
  | powerLoss
  /-- MALFORMED_MESSAGE, R391. -/
  | malformedMessage (h : Hdr)
  /-- ETHERNET_PORT_FAILURE, R383. -/
  | ethernetPortFailure (port : EthPort)
  /-- KERNEL_LOAD_CHECKS_DONE, R86. -/
  | kernelLoadChecksDone (ctx : CtxNo) (slot : BitVec 6)
  deriving DecidableEq, Repr

end Sys2Proof
end

