-- ==== Sys2Proof/Config.lean ====
section
/-! DEFINITION. What an implementation fixes and what the spec leaves open: uninterpreted constants. Nothing can be
proved of a value of them, so every claim holds for all values. The cryptographic functions are those of the standards
that the spec names (FIPS 180, 197, 205, SP 800-90A), whose text the spec does not give (log 6). -/

namespace Sys2Proof.Config

/-- The value that a place the spec leaves open takes, by a counter of the state (log 3). -/
opaque freeValue : Nat → BitVec 64

/-- Whether a core keeps the buffers that a group of the same context left, where R97 leaves it open, by a counter of the
state (log 12). -/
opaque keepsBuffers : Nat → Bool

/-- The E8 code that a value takes whose rounding R133 and R132 leave open, a zero, a negative value or one outside the
range of E8 (VPACK into E8, R265), by the source code, the mode and SAT (log 10). -/
opaque packE8 : BitVec 32 → BitVec 3 → Bool → BitVec 8

/-- SHA-256 (R79, R84, R413). -/
opaque sha256 : List Byte → BitVec 256
/-- SHA-512 (R413). -/
opaque sha512 : List Byte → BitVec 512
/-- SLH-DSA-SHA2-192s verification: key, message, signature (R82). -/
opaque slhVerify192 : BitVec 384 → List Byte → List Byte → Bool
/-- SLH-DSA-SHA2-256s verification: key, message, signature (R413). -/
opaque slhVerify256 : List Byte → List Byte → List Byte → Bool
/-- AES-256 of one block (R366, R389, R454). -/
opaque aes256 : BitVec 256 → BitVec 128 → BitVec 128
/-- The address of a counter block or node of a tree unit, by its place among the unit's children, outside every region (R349, R366). -/
opaque treeAddress : Nat → Nat → Nat
/-- The n-th key that the key units generate (R41). -/
opaque generatedKey : Nat → BitVec 256
/-- The digest of the public firmware key fused for an index (R413). -/
opaque fusedKeyDigest : BitVec 2 → BitVec 256
/-- The next entry of the package routing table for a failed package link port and destination (R385). -/
opaque packageRoute : Nat → Nat → Option Nat
/-- What the 128-byte header of a firmware image names: component, security version, key index; none where its format is wrong. The spec fixes
no places in it (R413, log 20). -/
opaque fwFields : List Byte → Option (Nat × Nat × Nat)
/-- The 64-byte public key that an image carries in its header and code (R413, log 20). -/
opaque fwPublicKey : List Byte → List Byte

end Sys2Proof.Config
end

