-- ==== Sys2Proof/WellFormed.lean ====
section
/-! DEFINITION. The static rules of encodings: what a field may hold whatever the registers hold (08_opcode_map,
R169 to R175, R245), the details of the illegal-instruction class (Table 8.8), and the well-formed instructions. -/

namespace Sys2Proof

/-- The details of the illegal-instruction class (Table 8.8, R176). -/
inductive Detail
  | unassignedOpcode | unassignedFunction | reservedField | reservedSpace | spaceNotAccepted
  | readOnlyRegister | reservedRegister | literalMissing | featureMasked
  deriving DecidableEq, Repr

/-- The code of a detail (Table 8.8). -/
def Detail.code : Detail → Nat
  | .unassignedOpcode => 1 | .unassignedFunction => 2 | .reservedField => 3 | .reservedSpace => 4
  | .spaceNotAccepted => 5 | .readOnlyRegister => 6 | .reservedRegister => 7 | .literalMissing => 8
  | .featureMasked => 9

/-- A k register field holds 0 to 7 (R171). -/
def kOk (f : BitVec 5) : Bool := decide (f.toNat < 8)
/-- Under L the register field that the literal replaces is zero (R171, R277). -/
def litFieldOk (l : Bool) (f : BitVec 5) : Bool := !l || decide (f = 0)
/-- Scope codes 5 to 7 are reserved (R169). -/
def scopeOk (s : BitVec 3) : Bool := decide (s.toNat ≤ 4)
/-- imm15 holds the literal marker (Table 7.4). -/
def immIsLit (i : BitVec 15) : Bool := decide (i = 0x4000)
/-- The A-form offset holds the literal marker (Table 7.4). -/
def offIsLit (o : BitVec 13) : Bool := decide (o = 0x1000)
/-- A shift amount lies in 0 to 63 (R183). -/
def shiftOk (lit : Option Cell) (i : BitVec 15) : Bool :=
  if immIsLit i then
    match lit with
    | some v => decide (v.toNat ≤ 63)
    | none => true
  else decide (i.toNat ≤ 63)
/-- A literal offset is a multiple of the access size (R172). -/
def offOk (lit : Option Cell) (o : BitVec 13) (size : Nat) : Bool :=
  if offIsLit o then
    match lit with
    | some v => decide (v.toNat % size = 0)
    | none => true
  else true
/-- A grid specifier of the special view (Table 7.5). -/
def isSpecial (x : BitVec 8) : Bool := decide (x.extractLsb' 6 2 = 3)
/-- A destination specifier names a group (R157). -/
def dstSpec (x : BitVec 8) : Bool := !isSpecial x
/-- A source specifier names a group, or is special with index 0 (R157). -/
def srcSpec (x : BitVec 8) : Bool := !isSpecial x || decide (x.extractLsb' 0 6 = 0)
/-- The views of two operands agree, or the second is special (R245). -/
def sameView (d x : BitVec 8) : Bool := isSpecial x || decide (x.extractLsb' 6 2 = d.extractLsb' 6 2)

/-- The fields of an instruction hold values its rules admit, judged without its literal. Events have no fields
that an encoding bounds. -/
def Instr.wellFormed : Instr → Bool
  | .nop => true
  | .add _ _ b l => litFieldOk l b
  | .sub _ _ b l => litFieldOk l b
  | .and _ _ b l => litFieldOk l b
  | .or _ _ b l => litFieldOk l b
  | .xor _ _ b l => litFieldOk l b
  | .andn _ _ b l => litFieldOk l b
  | .shl _ _ b l => litFieldOk l b
  | .shr _ _ b l => litFieldOk l b
  | .sar _ _ b l => litFieldOk l b
  | .rot _ _ b l => litFieldOk l b
  | .min _ _ b l => litFieldOk l b
  | .max _ _ b l => litFieldOk l b
  | .minu _ _ b l => litFieldOk l b
  | .maxu _ _ b l => litFieldOk l b
  | .slt _ _ b l => litFieldOk l b
  | .sltu _ _ b l => litFieldOk l b
  | .seq _ _ b l => litFieldOk l b
  | .mul _ _ b l => litFieldOk l b
  | .mulh _ _ b l => litFieldOk l b
  | .mulhu _ _ b l => litFieldOk l b
  | .div _ _ b l => litFieldOk l b
  | .divu _ _ b l => litFieldOk l b
  | .rem _ _ b l => litFieldOk l b
  | .remu _ _ b l => litFieldOk l b
  | .sel _ _ b l _ => litFieldOk l b
  | .clz _ _ _ => true
  | .ctz _ _ _ => true
  | .ffs _ _ _ => true
  | .popc _ _ _ => true
  | .brev _ _ _ => true
  | .bext _ _ b l _ => litFieldOk l b
  | .bins _ _ b l _ => litFieldOk l b
  | .kand d a b => kOk d && kOk a && kOk b
  | .kor d a b => kOk d && kOk a && kOk b
  | .kxor d a b => kOk d && kOk a && kOk b
  | .knot d a => kOk d && kOk a
  | .kmovKK d a => kOk d && kOk a
  | .kmovKX d _ => kOk d
  | .kmovXK _ a => kOk a
  | .kpopc _ a => kOk a
  | .kfirst _ a => kOk a
  | .addi _ _ _ => true
  | .andi _ _ _ => true
  | .ori _ _ _ => true
  | .xori _ _ _ => true
  | .shli _ _ i => (immIsLit i || decide (i.toNat ≤ 63))
  | .shri _ _ i => (immIsLit i || decide (i.toNat ≤ 63))
  | .sari _ _ i => (immIsLit i || decide (i.toNat ≤ 63))
  | .li _ _ => true
  | .bEq _ _ _ => true
  | .bNe _ _ _ => true
  | .bLt _ _ _ => true
  | .bGe _ _ _ => true
  | .bLtu _ _ _ => true
  | .bGeu _ _ _ => true
  | .j _ => true
  | .call _ => true
  | .ret _ => true
  | .loop _ _ => true
  | .csrr _ _ => true
  | .csrw _ _ => true
  | .csrs _ _ => true
  | .csrc _ _ => true
  | .setfmt _ => true
  | .setshape d _ _ => decide (d.toNat ≤ 30)
  | .settile d a => decide (a.toNat ≤ 29) && decide (d.toNat ≤ 29)
  | .seed _ => true
  | .trap n => decide (n.toNat ≤ 1023)
  | .eret => true
  | .csync => true
  | .bara _ => true
  | .barw _ => true
  | .fwait a s l _ => litFieldOk l a && scopeOk s
  | .exit => true
  | .nullBundle _ _ _ => true
  | .ldB _ _ p _ => decide (p ≠ 3)
  | .ldH _ _ p _ => decide (p ≠ 3)
  | .ldW _ _ p _ => decide (p ≠ 3)
  | .ldD _ _ p _ => decide (p ≠ 3)
  | .ldBu _ _ p _ => decide (p ≠ 3)
  | .ldHu _ _ p _ => decide (p ≠ 3)
  | .ldWu _ _ p _ => decide (p ≠ 3)
  | .stB _ _ p _ => decide (p ≠ 3)
  | .stH _ _ p _ => decide (p ≠ 3)
  | .stW _ _ p _ => decide (p ≠ 3)
  | .stD _ _ p _ => decide (p ≠ 3)
  | .ldgB _ _ _ => true
  | .ldgH _ _ _ => true
  | .ldgW _ _ _ => true
  | .ldgD _ _ _ => true
  | .ldgBu _ _ _ => true
  | .ldgHu _ _ _ => true
  | .ldgWu _ _ _ => true
  | .stgB _ _ _ => true
  | .stgH _ _ _ => true
  | .stgW _ _ _ => true
  | .stgD _ _ _ => true
  | .qfill q _ p _ => decide (p ≠ 3) && decide (p.toNat = q.toNat / 4)
  | .qfillt q _ p _ => decide (p ≠ 3) && decide (p.toNat = q.toNat / 4)
  | .qfillg _ _ _ => true
  | .qfillgFf _ _ _ => true
  | .vld _ _ _ => true
  | .vst _ _ p _ => decide (p ≠ 3) && decide (p ≠ 1)
  | .send _ _ _ => true
  | .recv _ _ _ => true
  | .amoAdd _ _ _ o c _ => decide (o.toNat ≤ 3) && scopeOk c
  | .amoMin _ _ _ o c _ => decide (o.toNat ≤ 3) && scopeOk c
  | .amoMax _ _ _ o c _ => decide (o.toNat ≤ 3) && scopeOk c
  | .amoXchg _ _ _ o c _ => decide (o.toNat ≤ 3) && scopeOk c
  | .amoAnd _ _ _ o c _ => decide (o.toNat ≤ 3) && scopeOk c
  | .amoOr _ _ _ o c _ => decide (o.toNat ≤ 3) && scopeOk c
  | .amoCas _ _ _ f o c _ => decide (f.toNat ≤ 1) && decide (o.toNat ≤ 3) && scopeOk c
  | .amoscAdd _ _ _ _ => true
  | .amoscMin _ _ _ _ => true
  | .amoscMax _ _ _ _ => true
  | .amoscXchg _ _ _ _ => true
  | .amoscAnd _ _ _ _ => true
  | .amoscOr _ _ _ _ => true
  | .amoscCas _ _ _ _ => true
  | .fenceAcq c => scopeOk c
  | .fenceRel c => scopeOk c
  | .fenceAcqrel c => scopeOk c
  | .fenceSc => true
  | .pref _ _ => true
  | .rk _ _ _ => true
  | .rks _ _ _ _ _ => true
  | .rka _ _ _ _ _ => true
  | .rkn _ _ _ => true
  | .gzero _ => true
  | .gcopy t s => decide (t.toNat ≤ 1) && decide (t.toNat ≠ s.toNat)
  | .gxpose => true
  | .gscaleQs _ _ => true
  | .gscaleLiteral _ => true
  | .mpop a b p => decide (p ≠ 0) && (p.getLsbD 0 || decide (a = 0)) && (p.getLsbD 1 || decide (b = 0))
  | .vadd d a b _ => dstSpec d && srcSpec a && srcSpec b && sameView d a && sameView d b
  | .vsub d a b _ => dstSpec d && srcSpec a && srcSpec b && sameView d a && sameView d b
  | .vmul d a b _ => dstSpec d && srcSpec a && srcSpec b && sameView d a && sameView d b
  | .vfma d a b _ => dstSpec d && srcSpec a && srcSpec b && sameView d a && sameView d b
  | .vfms d a b _ => dstSpec d && srcSpec a && srcSpec b && sameView d a && sameView d b
  | .vfnma d a b _ => dstSpec d && srcSpec a && srcSpec b && sameView d a && sameView d b
  | .vmin d a b _ => dstSpec d && srcSpec a && srcSpec b && sameView d a && sameView d b
  | .vmax d a b _ => dstSpec d && srcSpec a && srcSpec b && sameView d a && sameView d b
  | .vabs d a _ => dstSpec d && srcSpec a && sameView d a
  | .vneg d a _ => dstSpec d && srcSpec a && sameView d a
  | .vcpys d a b _ => dstSpec d && srcSpec a && srcSpec b && sameView d a && sameView d b
  | .viadd d a b _ => dstSpec d && srcSpec a && srcSpec b && sameView d a && sameView d b
  | .visub d a b _ => dstSpec d && srcSpec a && srcSpec b && sameView d a && sameView d b
  | .vimul d a b _ => dstSpec d && srcSpec a && srcSpec b && sameView d a && sameView d b
  | .vimulh d a b _ => dstSpec d && srcSpec a && srcSpec b && sameView d a && sameView d b
  | .vimin d a b _ => dstSpec d && srcSpec a && srcSpec b && sameView d a && sameView d b
  | .vimax d a b _ => dstSpec d && srcSpec a && srcSpec b && sameView d a && sameView d b
  | .vand d a b _ => dstSpec d && srcSpec a && srcSpec b && sameView d a && sameView d b
  | .vor d a b _ => dstSpec d && srcSpec a && srcSpec b && sameView d a && sameView d b
  | .vxor d a b _ => dstSpec d && srcSpec a && srcSpec b && sameView d a && sameView d b
  | .vshl d a b _ => dstSpec d && srcSpec a && srcSpec b && sameView d a && sameView d b
  | .vshr d a b _ => dstSpec d && srcSpec a && srcSpec b && sameView d a && sameView d b
  | .vsar d a b _ => dstSpec d && srcSpec a && srcSpec b && sameView d a && sameView d b
  | .vcmpEq _ a b _ => srcSpec a && srcSpec b
  | .vcmpNe _ a b _ => srcSpec a && srcSpec b
  | .vcmpLt _ a b _ => srcSpec a && srcSpec b
  | .vcmpLe _ a b _ => srcSpec a && srcSpec b
  | .vcmpGt _ a b _ => srcSpec a && srcSpec b
  | .vcmpGe _ a b _ => srcSpec a && srcSpec b
  | .vcmpUn _ a b _ => srcSpec a && srcSpec b
  | .vsel d a b => dstSpec d && srcSpec a && srcSpec b && sameView d a && sameView d b
  | .vclass d a _ => dstSpec d && srcSpec a && sameView d a
  | .vmulw d a b _ => dstSpec d && srcSpec a && srcSpec b && sameView d a && sameView d b
  | .vexp2 d a _ => dstSpec d && srcSpec a && sameView d a
  | .vlog2 d a _ => dstSpec d && srcSpec a && sameView d a
  | .vrcp d a _ => dstSpec d && srcSpec a && sameView d a
  | .vrsq d a _ => dstSpec d && srcSpec a && sameView d a
  | .vsqrt d a _ => dstSpec d && srcSpec a && sameView d a
  | .vsinp d a _ => dstSpec d && srcSpec a && sameView d a
  | .vcosp d a _ => dstSpec d && srcSpec a && sameView d a
  | .vtanh d a _ => dstSpec d && srcSpec a && sameView d a
  | .vsigm d a _ => dstSpec d && srcSpec a && sameView d a
  | .vcvt d a _ => dstSpec d && srcSpec a && sameView d a
  | .vqnt d a _ _ => dstSpec d && srcSpec a && sameView d a
  | .vqntLoad a _ => srcSpec a
  | .vdqnt d a _ _ => dstSpec d && srcSpec a && sameView d a && !(isSpecial a)
  | .vdqntStore d _ => dstSpec d
  | .vbscLoad a _ => srcSpec a
  | .vbscStore d _ => dstSpec d
  | .vbscApply d a _ _ => dstSpec d && srcSpec a && sameView d a && !(isSpecial a)
  | .vbqnt d a _ _ => dstSpec d && srcSpec a && sameView d a
  | .vpack d a b _ => dstSpec d && srcSpec a && srcSpec b && sameView d a && sameView d b && !(isSpecial b)
  | .vunpk d a _ => dstSpec d && srcSpec a && sameView d a
  | .vredSum d a _ => dstSpec d && srcSpec a
  | .vredMax d a _ => dstSpec d && srcSpec a
  | .vredMin d a _ => dstSpec d && srcSpec a
  | .vredAmax d a _ => dstSpec d && srcSpec a
  | .vscanSum d a _ => dstSpec d && srcSpec a && sameView d a
  | .vscanMax d a _ => dstSpec d && srcSpec a && sameView d a
  | .vscanMin d a _ => dstSpec d && srcSpec a && sameView d a
  | .vmov d a _ => dstSpec d && srcSpec a
  | .vperm d a b _ => dstSpec d && srcSpec a && srcSpec b && sameView d a && sameView d b
  | .vrot d a _ _ => dstSpec d && srcSpec a && sameView d a
  | .vfill d a _ => dstSpec d && srcSpec a
  | .vrand d => dstSpec d
  | .vxferElement _ a _ => dstSpec a
  | .vxferKcount _ _ => true
  | .cpy _ _ _ c l y z => litFieldOk l c && decide (y ≠ 2) && decide (z ≠ 2)
  | .cpy2d _ _ _ c l y z => litFieldOk l c && decide (y ≠ 2) && decide (z ≠ 2)
  | .cpyb _ _ _ c l y z => litFieldOk l c && decide (y.toNat ≤ 1) && decide (z.toNat ≤ 1)
  | .strm _ => true
  | .sctr _ _ c l => litFieldOk l c
  | .rred _ _ c l => litFieldOk l c
  | .qpush _ _ => true
  | .fsig _ c l s => litFieldOk l c && scopeOk s
  | .cwait _ _ c l s => litFieldOk l c && scopeOk s
  | .qfence m => decide (m ≠ 0)
  | .texec _ => true
  | .tissue _ d => decide (d ≠ 0)
  | .wfence => true
  | .srFlagsWrite _ => true
  | .srCouchmWrite _ => true
  | .programCouchSave _ => true
  | .programCouchRestore _ => true
  | .instructionFetch _ => true
  | .restartMark _ => true
  | .exposedResultWrite _ => true
  | .ldgReturn _ => true
  | .fillSettle _ _ => true
  | .fillDelivery _ _ => true
  | .rollback _ => true
  | .trapEntry _ => true
  | .gridIssue _ => true
  | .mWriteCycle _ => true
  | .vWriteCycle _ => true
  | .vldWrite _ => true
  | .operandStarvation _ => true
  | .gridError _ _ => true
  | .groupLull _ => true
  | .saveDone _ => true
  | .restoreDone _ => true
  | .groupPlacement _ => true
  | .groupEnd _ => true
  | .sliceBoundary _ => true
  | .passOverTimeout _ => true
  | .coreSubstitution _ => true
  | .channelRetirement _ => true
  | .budgetWindow _ => true
  | .frequencyChange _ _ => true
  | .calenderPosition _ => true
  | .fenceDone _ => true
  | .fwaitPass _ => true
  | .cwaitPass _ _ => true
  | .barrierRelease _ _ => true
  | .csyncComplete _ => true
  | .qfenceDone _ => true
  | .wfenceDone _ => true
  | .regionLimit _ => true
  | .chunkTransfer _ => true
  | .engineOpStart _ _ => true
  | .engineOpPerformed _ _ => true
  | .engineFault _ _ => true
  | .fsigPerform _ => true
  | .qpushAppend _ => true
  | .scatterTrainApply _ => true
  | .rredApply _ => true
  | .memoryAccess _ _ _ _ _ => true
  | .tableWalk _ _ _ => true
  | .integrityMismatch _ _ => true
  | .walkStart _ => true
  | .counterBlockRewrite _ _ => true
  | .pageHash _ _ => true
  | .tileRecordAccept _ => true
  | .stagingCopyDone _ => true
  | .macroSequencerRun _ => true
  | .tileRecordComplete _ => true
  | .tileFaultRecord _ => true
  | .flitReceive _ _ => true
  | .negativeAcknowledgement _ _ => true
  | .idleFlit _ => true
  | .linkFailure _ => true
  | .class2Resume _ => true
  | .laneFailure _ _ => true
  | .trainingDone _ _ => true
  | .unreachableTimeout _ => true
  | .append _ _ _ => true
  | .read _ _ _ _ => true
  | .write _ _ _ _ => true
  | .xlate _ _ _ _ => true
  | .ack _ => true
  | .readData _ _ _ _ _ => true
  | .writeDone _ _ _ => true
  | .cmd _ _ => true
  | .ackTimer _ _ => true
  | .thtRetransmit _ _ => true
  | .eventRetry _ => true
  | .ctxCreate _ => true
  | .ctxWrite _ _ => true
  | .ctxRead _ => true
  | .ctxBind _ => true
  | .ctxLull _ => true
  | .ctxThaw _ => true
  | .ctxReset _ => true
  | .resetDrainDone _ => true
  | .ctxDestroy _ => true
  | .ctxMigrate _ => true
  | .ctxMigrateAbort _ => true
  | .ctxDirty _ _ _ => true
  | .ctxExport _ _ => true
  | .ctxImport _ _ => true
  | .ctxRelease _ => true
  | .mkeySet _ _ _ _ _ _ _ => true
  | .winGrant _ _ _ _ => true
  | .winAccept _ _ _ => true
  | .winRevoke _ _ => true
  | .partitionTableWrite _ _ _ _ => true
  | .queueOpen _ _ _ _ _ _ _ => true
  | .queueClose _ _ => true
  | .queueSetprio _ _ _ => true
  | .queueResume _ _ _ => true
  | .queueRead _ _ => true
  | .queueConsume _ _ _ => true
  | .fcRead _ _ _ => true
  | .kernelLoad _ _ _ _ _ => true
  | .kernelUnload _ _ => true
  | .kernelQuery _ _ => true
  | .codekeySet _ _ _ _ => true
  | .pageBind _ _ _ _ => true
  | .pageUnbind _ _ _ => true
  | .pageRetire _ _ _ => true
  | .pageQuery _ _ => true
  | .tlbInval _ _ _ _ => true
  | .faultRing _ _ _ => true
  | .faultAnswer _ _ _ => true
  | .pageExport _ _ _ _ _ _ => true
  | .pageImport _ _ _ _ => true
  | .flowOpen _ _ _ _ _ _ _ => true
  | .flowClose _ _ _ => true
  | .hwinSet _ _ _ _ _ _ _ => true
  | .spanSet _ _ _ => true
  | .linkQuery _ _ => true
  | .linkRetire _ _ => true
  | .spanGen _ _ _ => true
  | .fwLoad _ _ _ => true
  | .fwCommit _ _ _ => true
  | .capRead _ => true
  | .powerSet _ _ _ _ => true
  | .powerOn _ => true
  | .packageReset => true
  | .powerWindow _ _ _ => true
  | .thermalLimit _ => true
  | .correctedError _ _ => true
  | .uncorrectableError _ => true
  | .powerLoss => true
  | .malformedMessage _ => true
  | .ethernetPortFailure _ => true
  | .kernelLoadChecksDone _ _ => true

/-- The literal that an instruction selects stands in its bundle and holds a value its rules admit (R156, R172,
R183). -/
def Instr.litOk (lit : Option Cell) : Instr → Bool
  | .add _ _ _ l => (!(l) || lit.isSome)
  | .sub _ _ _ l => (!(l) || lit.isSome)
  | .and _ _ _ l => (!(l) || lit.isSome)
  | .or _ _ _ l => (!(l) || lit.isSome)
  | .xor _ _ _ l => (!(l) || lit.isSome)
  | .andn _ _ _ l => (!(l) || lit.isSome)
  | .shl _ _ _ l => (!(l) || lit.isSome)
  | .shr _ _ _ l => (!(l) || lit.isSome)
  | .sar _ _ _ l => (!(l) || lit.isSome)
  | .rot _ _ _ l => (!(l) || lit.isSome)
  | .min _ _ _ l => (!(l) || lit.isSome)
  | .max _ _ _ l => (!(l) || lit.isSome)
  | .minu _ _ _ l => (!(l) || lit.isSome)
  | .maxu _ _ _ l => (!(l) || lit.isSome)
  | .slt _ _ _ l => (!(l) || lit.isSome)
  | .sltu _ _ _ l => (!(l) || lit.isSome)
  | .seq _ _ _ l => (!(l) || lit.isSome)
  | .mul _ _ _ l => (!(l) || lit.isSome)
  | .mulh _ _ _ l => (!(l) || lit.isSome)
  | .mulhu _ _ _ l => (!(l) || lit.isSome)
  | .div _ _ _ l => (!(l) || lit.isSome)
  | .divu _ _ _ l => (!(l) || lit.isSome)
  | .rem _ _ _ l => (!(l) || lit.isSome)
  | .remu _ _ _ l => (!(l) || lit.isSome)
  | .sel _ _ _ l _ => (!(l) || lit.isSome)
  | .bext _ _ _ l _ => (!(l) || lit.isSome)
  | .bins _ _ _ l _ => (!(l) || lit.isSome)
  | .addi _ _ i => (!(immIsLit i) || lit.isSome)
  | .andi _ _ i => (!(immIsLit i) || lit.isSome)
  | .ori _ _ i => (!(immIsLit i) || lit.isSome)
  | .xori _ _ i => (!(immIsLit i) || lit.isSome)
  | .shli _ _ i => shiftOk lit i && (!(immIsLit i) || lit.isSome)
  | .shri _ _ i => shiftOk lit i && (!(immIsLit i) || lit.isSome)
  | .sari _ _ i => shiftOk lit i && (!(immIsLit i) || lit.isSome)
  | .li _ i => (!(immIsLit i) || lit.isSome)
  | .fwait _ _ l _ => (!(l) || lit.isSome)
  | .ldB _ _ _ o => offOk lit o 1 && (!(offIsLit o) || lit.isSome)
  | .ldH _ _ _ o => offOk lit o 2 && (!(offIsLit o) || lit.isSome)
  | .ldW _ _ _ o => offOk lit o 4 && (!(offIsLit o) || lit.isSome)
  | .ldD _ _ _ o => offOk lit o 8 && (!(offIsLit o) || lit.isSome)
  | .ldBu _ _ _ o => offOk lit o 1 && (!(offIsLit o) || lit.isSome)
  | .ldHu _ _ _ o => offOk lit o 2 && (!(offIsLit o) || lit.isSome)
  | .ldWu _ _ _ o => offOk lit o 4 && (!(offIsLit o) || lit.isSome)
  | .stB _ _ _ o => offOk lit o 1 && (!(offIsLit o) || lit.isSome)
  | .stH _ _ _ o => offOk lit o 2 && (!(offIsLit o) || lit.isSome)
  | .stW _ _ _ o => offOk lit o 4 && (!(offIsLit o) || lit.isSome)
  | .stD _ _ _ o => offOk lit o 8 && (!(offIsLit o) || lit.isSome)
  | .ldgB _ _ o => offOk lit o 1 && (!(offIsLit o) || lit.isSome)
  | .ldgH _ _ o => offOk lit o 2 && (!(offIsLit o) || lit.isSome)
  | .ldgW _ _ o => offOk lit o 4 && (!(offIsLit o) || lit.isSome)
  | .ldgD _ _ o => offOk lit o 8 && (!(offIsLit o) || lit.isSome)
  | .ldgBu _ _ o => offOk lit o 1 && (!(offIsLit o) || lit.isSome)
  | .ldgHu _ _ o => offOk lit o 2 && (!(offIsLit o) || lit.isSome)
  | .ldgWu _ _ o => offOk lit o 4 && (!(offIsLit o) || lit.isSome)
  | .stgB _ _ o => offOk lit o 1 && (!(offIsLit o) || lit.isSome)
  | .stgH _ _ o => offOk lit o 2 && (!(offIsLit o) || lit.isSome)
  | .stgW _ _ o => offOk lit o 4 && (!(offIsLit o) || lit.isSome)
  | .stgD _ _ o => offOk lit o 8 && (!(offIsLit o) || lit.isSome)
  | .qfill _ _ _ o => offOk lit o 256 && (!(offIsLit o) || lit.isSome)
  | .qfillt _ _ _ o => offOk lit o 256 && (!(offIsLit o) || lit.isSome)
  | .qfillg _ _ o => offOk lit o 256 && (!(offIsLit o) || lit.isSome)
  | .vld _ _ o => offOk lit o 256 && (!(offIsLit o) || lit.isSome)
  | .vst _ _ _ o => offOk lit o 256 && (!(offIsLit o) || lit.isSome)
  | .send _ _ o => offOk lit o 64 && (!(offIsLit o) || lit.isSome)
  | .recv _ _ o => offOk lit o 64 && (!(offIsLit o) || lit.isSome)
  | .pref _ o => offOk lit o 64 && (!(offIsLit o) || lit.isSome)
  | .gscaleLiteral _ => lit.isSome
  | .cpy _ _ _ _ l _ _ => (!(l) || lit.isSome)
  | .cpy2d _ _ _ _ l _ _ => (!(l) || lit.isSome)
  | .cpyb _ _ _ _ l _ _ => (!(l) || lit.isSome)
  | .sctr _ _ _ l => (!(l) || lit.isSome)
  | .rred _ _ _ l => (!(l) || lit.isSome)
  | .fsig _ _ l _ => (!(l) || lit.isSome)
  | .cwait _ _ _ l _ => (!(l) || lit.isSome)
  | _ => true

end Sys2Proof
end

