-- ==== Sys2Proof/Decode.lean ====
section
/-! DEFINITION. The decoder of slot words, bundle headers and bundles (R147 to R149, R154 to R157, R171 to R176),
total on any bits and refusing by the details of Table 8.8, and after it the encoder, written from the same
tables. -/

namespace Sys2Proof

/-- The five slot kinds (R147). -/
inductive SlotKind | s | a | m | v | c
  deriving DecidableEq, Repr

/-- Space 11 is reserved and a legal space may not be accepted (R154, R172). -/
def spaceCheck (p : BitVec 2) (ok : Bool) : Option Detail :=
  if p = 3 then some .reservedSpace else if ok then none else some .spaceNotAccepted

/-- A copy endpoint that is not accepted (R281, R283). -/
def endpointCheck (ok : Bool) : Option Detail := if ok then none else some .spaceNotAccepted

/-- The static checks of one slot word in the order of R179: reserved field, spaces, literal missing. -/
def slotRow (fieldsOk : Bool) (space : Option Detail) (needsLit : Bool) (lit : Option Cell) (i : Instr) :
    Except Detail Instr :=
  if fieldsOk then
    match space with
    | some d => .error d
    | none => if needsLit && lit.isNone then .error .literalMissing else .ok i
  else .error .reservedField

/-- The S slot: opcodes and function codes of Table 8.2 and Table 8.3. -/
def decodeS (lit : Option Cell) (w : Cell) : Except Detail Instr :=
  match (w.extractLsb' 25 7).toNat with
  | 0 => slotRow (decide (w.extractLsb' 0 25 = 0)) (none) (false) lit (.nop)
  | 1 =>
    match (w.extractLsb' 0 9).toNat with
    | 0 => slotRow (litFieldOk (w.getLsbD 9) (w.extractLsb' 10 5)) (none) ((w.getLsbD 9)) lit (.add (w.extractLsb' 20 5) (w.extractLsb' 15 5) (w.extractLsb' 10 5) (w.getLsbD 9))
    | 1 => slotRow (litFieldOk (w.getLsbD 9) (w.extractLsb' 10 5)) (none) ((w.getLsbD 9)) lit (.sub (w.extractLsb' 20 5) (w.extractLsb' 15 5) (w.extractLsb' 10 5) (w.getLsbD 9))
    | 2 => slotRow (litFieldOk (w.getLsbD 9) (w.extractLsb' 10 5)) (none) ((w.getLsbD 9)) lit (.and (w.extractLsb' 20 5) (w.extractLsb' 15 5) (w.extractLsb' 10 5) (w.getLsbD 9))
    | 3 => slotRow (litFieldOk (w.getLsbD 9) (w.extractLsb' 10 5)) (none) ((w.getLsbD 9)) lit (.or (w.extractLsb' 20 5) (w.extractLsb' 15 5) (w.extractLsb' 10 5) (w.getLsbD 9))
    | 4 => slotRow (litFieldOk (w.getLsbD 9) (w.extractLsb' 10 5)) (none) ((w.getLsbD 9)) lit (.xor (w.extractLsb' 20 5) (w.extractLsb' 15 5) (w.extractLsb' 10 5) (w.getLsbD 9))
    | 5 => slotRow (litFieldOk (w.getLsbD 9) (w.extractLsb' 10 5)) (none) ((w.getLsbD 9)) lit (.andn (w.extractLsb' 20 5) (w.extractLsb' 15 5) (w.extractLsb' 10 5) (w.getLsbD 9))
    | 6 => slotRow (litFieldOk (w.getLsbD 9) (w.extractLsb' 10 5)) (none) ((w.getLsbD 9)) lit (.shl (w.extractLsb' 20 5) (w.extractLsb' 15 5) (w.extractLsb' 10 5) (w.getLsbD 9))
    | 7 => slotRow (litFieldOk (w.getLsbD 9) (w.extractLsb' 10 5)) (none) ((w.getLsbD 9)) lit (.shr (w.extractLsb' 20 5) (w.extractLsb' 15 5) (w.extractLsb' 10 5) (w.getLsbD 9))
    | 8 => slotRow (litFieldOk (w.getLsbD 9) (w.extractLsb' 10 5)) (none) ((w.getLsbD 9)) lit (.sar (w.extractLsb' 20 5) (w.extractLsb' 15 5) (w.extractLsb' 10 5) (w.getLsbD 9))
    | 9 => slotRow (litFieldOk (w.getLsbD 9) (w.extractLsb' 10 5)) (none) ((w.getLsbD 9)) lit (.rot (w.extractLsb' 20 5) (w.extractLsb' 15 5) (w.extractLsb' 10 5) (w.getLsbD 9))
    | 10 => slotRow (litFieldOk (w.getLsbD 9) (w.extractLsb' 10 5)) (none) ((w.getLsbD 9)) lit (.min (w.extractLsb' 20 5) (w.extractLsb' 15 5) (w.extractLsb' 10 5) (w.getLsbD 9))
    | 11 => slotRow (litFieldOk (w.getLsbD 9) (w.extractLsb' 10 5)) (none) ((w.getLsbD 9)) lit (.max (w.extractLsb' 20 5) (w.extractLsb' 15 5) (w.extractLsb' 10 5) (w.getLsbD 9))
    | 12 => slotRow (litFieldOk (w.getLsbD 9) (w.extractLsb' 10 5)) (none) ((w.getLsbD 9)) lit (.minu (w.extractLsb' 20 5) (w.extractLsb' 15 5) (w.extractLsb' 10 5) (w.getLsbD 9))
    | 13 => slotRow (litFieldOk (w.getLsbD 9) (w.extractLsb' 10 5)) (none) ((w.getLsbD 9)) lit (.maxu (w.extractLsb' 20 5) (w.extractLsb' 15 5) (w.extractLsb' 10 5) (w.getLsbD 9))
    | 14 => slotRow (litFieldOk (w.getLsbD 9) (w.extractLsb' 10 5)) (none) ((w.getLsbD 9)) lit (.slt (w.extractLsb' 20 5) (w.extractLsb' 15 5) (w.extractLsb' 10 5) (w.getLsbD 9))
    | 15 => slotRow (litFieldOk (w.getLsbD 9) (w.extractLsb' 10 5)) (none) ((w.getLsbD 9)) lit (.sltu (w.extractLsb' 20 5) (w.extractLsb' 15 5) (w.extractLsb' 10 5) (w.getLsbD 9))
    | 16 => slotRow (litFieldOk (w.getLsbD 9) (w.extractLsb' 10 5)) (none) ((w.getLsbD 9)) lit (.seq (w.extractLsb' 20 5) (w.extractLsb' 15 5) (w.extractLsb' 10 5) (w.getLsbD 9))
    | _ => .error .unassignedFunction
  | 2 =>
    match (w.extractLsb' 0 9).toNat with
    | 0 => slotRow (litFieldOk (w.getLsbD 9) (w.extractLsb' 10 5)) (none) ((w.getLsbD 9)) lit (.mul (w.extractLsb' 20 5) (w.extractLsb' 15 5) (w.extractLsb' 10 5) (w.getLsbD 9))
    | 1 => slotRow (litFieldOk (w.getLsbD 9) (w.extractLsb' 10 5)) (none) ((w.getLsbD 9)) lit (.mulh (w.extractLsb' 20 5) (w.extractLsb' 15 5) (w.extractLsb' 10 5) (w.getLsbD 9))
    | 2 => slotRow (litFieldOk (w.getLsbD 9) (w.extractLsb' 10 5)) (none) ((w.getLsbD 9)) lit (.mulhu (w.extractLsb' 20 5) (w.extractLsb' 15 5) (w.extractLsb' 10 5) (w.getLsbD 9))
    | 3 => slotRow (litFieldOk (w.getLsbD 9) (w.extractLsb' 10 5)) (none) ((w.getLsbD 9)) lit (.div (w.extractLsb' 20 5) (w.extractLsb' 15 5) (w.extractLsb' 10 5) (w.getLsbD 9))
    | 4 => slotRow (litFieldOk (w.getLsbD 9) (w.extractLsb' 10 5)) (none) ((w.getLsbD 9)) lit (.divu (w.extractLsb' 20 5) (w.extractLsb' 15 5) (w.extractLsb' 10 5) (w.getLsbD 9))
    | 5 => slotRow (litFieldOk (w.getLsbD 9) (w.extractLsb' 10 5)) (none) ((w.getLsbD 9)) lit (.rem (w.extractLsb' 20 5) (w.extractLsb' 15 5) (w.extractLsb' 10 5) (w.getLsbD 9))
    | 6 => slotRow (litFieldOk (w.getLsbD 9) (w.extractLsb' 10 5)) (none) ((w.getLsbD 9)) lit (.remu (w.extractLsb' 20 5) (w.extractLsb' 15 5) (w.extractLsb' 10 5) (w.getLsbD 9))
    | _ => .error .unassignedFunction
  | 3 => slotRow (decide (w.extractLsb' 5 4 = 0) && litFieldOk (w.getLsbD 9) (w.extractLsb' 10 5)) (none) ((w.getLsbD 9)) lit (.sel (w.extractLsb' 20 5) (w.extractLsb' 15 5) (w.extractLsb' 10 5) (w.getLsbD 9) (w.extractLsb' 0 5))
  | 4 =>
    match (w.extractLsb' 2 3).toNat with
    | 0 => slotRow (decide (w.extractLsb' 5 10 = 0)) (none) (false) lit (.clz (w.extractLsb' 20 5) (w.extractLsb' 15 5) (w.extractLsb' 0 2))
    | 1 => slotRow (decide (w.extractLsb' 5 10 = 0)) (none) (false) lit (.ctz (w.extractLsb' 20 5) (w.extractLsb' 15 5) (w.extractLsb' 0 2))
    | 2 => slotRow (decide (w.extractLsb' 5 10 = 0)) (none) (false) lit (.ffs (w.extractLsb' 20 5) (w.extractLsb' 15 5) (w.extractLsb' 0 2))
    | 3 => slotRow (decide (w.extractLsb' 5 10 = 0)) (none) (false) lit (.popc (w.extractLsb' 20 5) (w.extractLsb' 15 5) (w.extractLsb' 0 2))
    | 4 => slotRow (decide (w.extractLsb' 5 10 = 0)) (none) (false) lit (.brev (w.extractLsb' 20 5) (w.extractLsb' 15 5) (w.extractLsb' 0 2))
    | 5 => slotRow (decide (w.extractLsb' 5 4 = 0) && litFieldOk (w.getLsbD 9) (w.extractLsb' 10 5)) (none) ((w.getLsbD 9)) lit (.bext (w.extractLsb' 20 5) (w.extractLsb' 15 5) (w.extractLsb' 10 5) (w.getLsbD 9) (w.extractLsb' 0 2))
    | 6 => slotRow (decide (w.extractLsb' 5 4 = 0) && litFieldOk (w.getLsbD 9) (w.extractLsb' 10 5)) (none) ((w.getLsbD 9)) lit (.bins (w.extractLsb' 20 5) (w.extractLsb' 15 5) (w.extractLsb' 10 5) (w.getLsbD 9) (w.extractLsb' 0 2))
    | _ => .error .unassignedFunction
  | 5 =>
    match (w.extractLsb' 0 9).toNat with
    | 0 => slotRow (decide (w.extractLsb' 9 1 = 0) && kOk (w.extractLsb' 20 5) && kOk (w.extractLsb' 15 5) && kOk (w.extractLsb' 10 5)) (none) (false) lit (.kand (w.extractLsb' 20 5) (w.extractLsb' 15 5) (w.extractLsb' 10 5))
    | 1 => slotRow (decide (w.extractLsb' 9 1 = 0) && kOk (w.extractLsb' 20 5) && kOk (w.extractLsb' 15 5) && kOk (w.extractLsb' 10 5)) (none) (false) lit (.kor (w.extractLsb' 20 5) (w.extractLsb' 15 5) (w.extractLsb' 10 5))
    | 2 => slotRow (decide (w.extractLsb' 9 1 = 0) && kOk (w.extractLsb' 20 5) && kOk (w.extractLsb' 15 5) && kOk (w.extractLsb' 10 5)) (none) (false) lit (.kxor (w.extractLsb' 20 5) (w.extractLsb' 15 5) (w.extractLsb' 10 5))
    | 3 => slotRow (decide (w.extractLsb' 9 6 = 0) && kOk (w.extractLsb' 20 5) && kOk (w.extractLsb' 15 5)) (none) (false) lit (.knot (w.extractLsb' 20 5) (w.extractLsb' 15 5))
    | 4 => slotRow (decide (w.extractLsb' 9 6 = 0) && kOk (w.extractLsb' 20 5) && kOk (w.extractLsb' 15 5)) (none) (false) lit (.kmovKK (w.extractLsb' 20 5) (w.extractLsb' 15 5))
    | 5 => slotRow (decide (w.extractLsb' 9 6 = 0) && kOk (w.extractLsb' 20 5)) (none) (false) lit (.kmovKX (w.extractLsb' 20 5) (w.extractLsb' 15 5))
    | 6 => slotRow (decide (w.extractLsb' 9 6 = 0) && kOk (w.extractLsb' 15 5)) (none) (false) lit (.kmovXK (w.extractLsb' 20 5) (w.extractLsb' 15 5))
    | 7 => slotRow (decide (w.extractLsb' 9 6 = 0) && kOk (w.extractLsb' 15 5)) (none) (false) lit (.kpopc (w.extractLsb' 20 5) (w.extractLsb' 15 5))
    | 8 => slotRow (decide (w.extractLsb' 9 6 = 0) && kOk (w.extractLsb' 15 5)) (none) (false) lit (.kfirst (w.extractLsb' 20 5) (w.extractLsb' 15 5))
    | _ => .error .unassignedFunction
  | 16 => slotRow (true) (none) (immIsLit (w.extractLsb' 0 15)) lit (.addi (w.extractLsb' 20 5) (w.extractLsb' 15 5) (w.extractLsb' 0 15))
  | 17 => slotRow (true) (none) (immIsLit (w.extractLsb' 0 15)) lit (.andi (w.extractLsb' 20 5) (w.extractLsb' 15 5) (w.extractLsb' 0 15))
  | 18 => slotRow (true) (none) (immIsLit (w.extractLsb' 0 15)) lit (.ori (w.extractLsb' 20 5) (w.extractLsb' 15 5) (w.extractLsb' 0 15))
  | 19 => slotRow (true) (none) (immIsLit (w.extractLsb' 0 15)) lit (.xori (w.extractLsb' 20 5) (w.extractLsb' 15 5) (w.extractLsb' 0 15))
  | 20 => slotRow (shiftOk lit (w.extractLsb' 0 15)) (none) (immIsLit (w.extractLsb' 0 15)) lit (.shli (w.extractLsb' 20 5) (w.extractLsb' 15 5) (w.extractLsb' 0 15))
  | 21 => slotRow (shiftOk lit (w.extractLsb' 0 15)) (none) (immIsLit (w.extractLsb' 0 15)) lit (.shri (w.extractLsb' 20 5) (w.extractLsb' 15 5) (w.extractLsb' 0 15))
  | 22 => slotRow (shiftOk lit (w.extractLsb' 0 15)) (none) (immIsLit (w.extractLsb' 0 15)) lit (.sari (w.extractLsb' 20 5) (w.extractLsb' 15 5) (w.extractLsb' 0 15))
  | 23 => slotRow (decide (w.extractLsb' 15 5 = 0)) (none) (immIsLit (w.extractLsb' 0 15)) lit (.li (w.extractLsb' 20 5) (w.extractLsb' 0 15))
  | 32 =>
    match (w.extractLsb' 12 3).toNat with
    | 0 => slotRow (true) (none) (false) lit (.bEq (w.extractLsb' 20 5) (w.extractLsb' 15 5) (w.extractLsb' 0 12))
    | 1 => slotRow (true) (none) (false) lit (.bNe (w.extractLsb' 20 5) (w.extractLsb' 15 5) (w.extractLsb' 0 12))
    | 2 => slotRow (true) (none) (false) lit (.bLt (w.extractLsb' 20 5) (w.extractLsb' 15 5) (w.extractLsb' 0 12))
    | 3 => slotRow (true) (none) (false) lit (.bGe (w.extractLsb' 20 5) (w.extractLsb' 15 5) (w.extractLsb' 0 12))
    | 4 => slotRow (true) (none) (false) lit (.bLtu (w.extractLsb' 20 5) (w.extractLsb' 15 5) (w.extractLsb' 0 12))
    | 5 => slotRow (true) (none) (false) lit (.bGeu (w.extractLsb' 20 5) (w.extractLsb' 15 5) (w.extractLsb' 0 12))
    | _ => .error .unassignedFunction
  | 33 => slotRow (true) (none) (false) lit (.j (w.extractLsb' 0 25))
  | 34 => slotRow (true) (none) (false) lit (.call (w.extractLsb' 0 25))
  | 35 => slotRow (decide (w.extractLsb' 20 5 = 0) && decide (w.extractLsb' 0 15 = 0)) (none) (false) lit (.ret (w.extractLsb' 15 5))
  | 36 => slotRow (decide (w.extractLsb' 12 8 = 0)) (none) (false) lit (.loop (w.extractLsb' 20 5) (w.extractLsb' 0 12))
  | 48 => slotRow (decide (w.extractLsb' 12 8 = 0)) (none) (false) lit (.csrr (w.extractLsb' 20 5) (w.extractLsb' 0 12))
  | 49 => slotRow (decide (w.extractLsb' 20 5 = 0) && decide (w.extractLsb' 12 3 = 0)) (none) (false) lit (.csrw (w.extractLsb' 15 5) (w.extractLsb' 0 12))
  | 50 => slotRow (decide (w.extractLsb' 20 5 = 0) && decide (w.extractLsb' 12 3 = 0)) (none) (false) lit (.csrs (w.extractLsb' 15 5) (w.extractLsb' 0 12))
  | 51 => slotRow (decide (w.extractLsb' 20 5 = 0) && decide (w.extractLsb' 12 3 = 0)) (none) (false) lit (.csrc (w.extractLsb' 15 5) (w.extractLsb' 0 12))
  | 52 => slotRow (decide (w.extractLsb' 20 5 = 0) && decide (w.extractLsb' 0 15 = 0)) (none) (false) lit (.setfmt (w.extractLsb' 15 5))
  | 53 => slotRow (decide (w.extractLsb' 0 10 = 0) && decide ((w.extractLsb' 20 5).toNat ≤ 30)) (none) (false) lit (.setshape (w.extractLsb' 20 5) (w.extractLsb' 15 5) (w.extractLsb' 10 5))
  | 54 => slotRow (decide (w.extractLsb' 0 15 = 0) && decide ((w.extractLsb' 15 5).toNat ≤ 29) && decide ((w.extractLsb' 20 5).toNat ≤ 29)) (none) (false) lit (.settile (w.extractLsb' 20 5) (w.extractLsb' 15 5))
  | 55 => slotRow (decide (w.extractLsb' 20 5 = 0) && decide (w.extractLsb' 0 15 = 0)) (none) (false) lit (.seed (w.extractLsb' 15 5))
  | 56 => slotRow (decide (w.extractLsb' 15 10 = 0) && decide ((w.extractLsb' 0 15).toNat ≤ 1023)) (none) (false) lit (.trap (w.extractLsb' 0 15))
  | 57 => slotRow (decide (w.extractLsb' 0 25 = 0)) (none) (false) lit (.eret)
  | 58 => slotRow (decide (w.extractLsb' 0 25 = 0)) (none) (false) lit (.csync)
  | 59 => slotRow (decide (w.extractLsb' 4 21 = 0)) (none) (false) lit (.bara (w.extractLsb' 0 4))
  | 60 => slotRow (decide (w.extractLsb' 4 21 = 0)) (none) (false) lit (.barw (w.extractLsb' 0 4))
  | 61 => slotRow (decide (w.extractLsb' 20 5 = 0) && decide (w.extractLsb' 13 2 = 0) && decide (w.extractLsb' 8 1 = 0) && litFieldOk (w.getLsbD 9) (w.extractLsb' 15 5) && scopeOk (w.extractLsb' 10 3)) (none) ((w.getLsbD 9)) lit (.fwait (w.extractLsb' 15 5) (w.extractLsb' 10 3) (w.getLsbD 9) (w.extractLsb' 0 8))
  | 62 => slotRow (decide (w.extractLsb' 0 25 = 0)) (none) (false) lit (.exit)
  | _ => .error .unassignedOpcode

/-- The A slot: opcodes and function codes of Table 8.4. -/
def decodeA (lit : Option Cell) (w : Cell) : Except Detail Instr :=
  match (w.extractLsb' 25 7).toNat with
  | 0 => slotRow (offOk lit (w.extractLsb' 0 13) 1) (spaceCheck ((w.extractLsb' 13 2)) (true)) (offIsLit (w.extractLsb' 0 13)) lit (.ldB (w.extractLsb' 20 5) (w.extractLsb' 15 5) (w.extractLsb' 13 2) (w.extractLsb' 0 13))
  | 1 => slotRow (offOk lit (w.extractLsb' 0 13) 2) (spaceCheck ((w.extractLsb' 13 2)) (true)) (offIsLit (w.extractLsb' 0 13)) lit (.ldH (w.extractLsb' 20 5) (w.extractLsb' 15 5) (w.extractLsb' 13 2) (w.extractLsb' 0 13))
  | 2 => slotRow (offOk lit (w.extractLsb' 0 13) 4) (spaceCheck ((w.extractLsb' 13 2)) (true)) (offIsLit (w.extractLsb' 0 13)) lit (.ldW (w.extractLsb' 20 5) (w.extractLsb' 15 5) (w.extractLsb' 13 2) (w.extractLsb' 0 13))
  | 3 => slotRow (offOk lit (w.extractLsb' 0 13) 8) (spaceCheck ((w.extractLsb' 13 2)) (true)) (offIsLit (w.extractLsb' 0 13)) lit (.ldD (w.extractLsb' 20 5) (w.extractLsb' 15 5) (w.extractLsb' 13 2) (w.extractLsb' 0 13))
  | 4 => slotRow (offOk lit (w.extractLsb' 0 13) 1) (spaceCheck ((w.extractLsb' 13 2)) (true)) (offIsLit (w.extractLsb' 0 13)) lit (.ldBu (w.extractLsb' 20 5) (w.extractLsb' 15 5) (w.extractLsb' 13 2) (w.extractLsb' 0 13))
  | 5 => slotRow (offOk lit (w.extractLsb' 0 13) 2) (spaceCheck ((w.extractLsb' 13 2)) (true)) (offIsLit (w.extractLsb' 0 13)) lit (.ldHu (w.extractLsb' 20 5) (w.extractLsb' 15 5) (w.extractLsb' 13 2) (w.extractLsb' 0 13))
  | 6 => slotRow (offOk lit (w.extractLsb' 0 13) 4) (spaceCheck ((w.extractLsb' 13 2)) (true)) (offIsLit (w.extractLsb' 0 13)) lit (.ldWu (w.extractLsb' 20 5) (w.extractLsb' 15 5) (w.extractLsb' 13 2) (w.extractLsb' 0 13))
  | 8 => slotRow (offOk lit (w.extractLsb' 0 13) 1) (spaceCheck ((w.extractLsb' 13 2)) (true)) (offIsLit (w.extractLsb' 0 13)) lit (.stB (w.extractLsb' 20 5) (w.extractLsb' 15 5) (w.extractLsb' 13 2) (w.extractLsb' 0 13))
  | 9 => slotRow (offOk lit (w.extractLsb' 0 13) 2) (spaceCheck ((w.extractLsb' 13 2)) (true)) (offIsLit (w.extractLsb' 0 13)) lit (.stH (w.extractLsb' 20 5) (w.extractLsb' 15 5) (w.extractLsb' 13 2) (w.extractLsb' 0 13))
  | 10 => slotRow (offOk lit (w.extractLsb' 0 13) 4) (spaceCheck ((w.extractLsb' 13 2)) (true)) (offIsLit (w.extractLsb' 0 13)) lit (.stW (w.extractLsb' 20 5) (w.extractLsb' 15 5) (w.extractLsb' 13 2) (w.extractLsb' 0 13))
  | 11 => slotRow (offOk lit (w.extractLsb' 0 13) 8) (spaceCheck ((w.extractLsb' 13 2)) (true)) (offIsLit (w.extractLsb' 0 13)) lit (.stD (w.extractLsb' 20 5) (w.extractLsb' 15 5) (w.extractLsb' 13 2) (w.extractLsb' 0 13))
  | 16 => slotRow (decide (w.extractLsb' 13 2 = 0) && offOk lit (w.extractLsb' 0 13) 1) (none) (offIsLit (w.extractLsb' 0 13)) lit (.ldgB (w.extractLsb' 20 5) (w.extractLsb' 15 5) (w.extractLsb' 0 13))
  | 17 => slotRow (decide (w.extractLsb' 13 2 = 0) && offOk lit (w.extractLsb' 0 13) 2) (none) (offIsLit (w.extractLsb' 0 13)) lit (.ldgH (w.extractLsb' 20 5) (w.extractLsb' 15 5) (w.extractLsb' 0 13))
  | 18 => slotRow (decide (w.extractLsb' 13 2 = 0) && offOk lit (w.extractLsb' 0 13) 4) (none) (offIsLit (w.extractLsb' 0 13)) lit (.ldgW (w.extractLsb' 20 5) (w.extractLsb' 15 5) (w.extractLsb' 0 13))
  | 19 => slotRow (decide (w.extractLsb' 13 2 = 0) && offOk lit (w.extractLsb' 0 13) 8) (none) (offIsLit (w.extractLsb' 0 13)) lit (.ldgD (w.extractLsb' 20 5) (w.extractLsb' 15 5) (w.extractLsb' 0 13))
  | 20 => slotRow (decide (w.extractLsb' 13 2 = 0) && offOk lit (w.extractLsb' 0 13) 1) (none) (offIsLit (w.extractLsb' 0 13)) lit (.ldgBu (w.extractLsb' 20 5) (w.extractLsb' 15 5) (w.extractLsb' 0 13))
  | 21 => slotRow (decide (w.extractLsb' 13 2 = 0) && offOk lit (w.extractLsb' 0 13) 2) (none) (offIsLit (w.extractLsb' 0 13)) lit (.ldgHu (w.extractLsb' 20 5) (w.extractLsb' 15 5) (w.extractLsb' 0 13))
  | 22 => slotRow (decide (w.extractLsb' 13 2 = 0) && offOk lit (w.extractLsb' 0 13) 4) (none) (offIsLit (w.extractLsb' 0 13)) lit (.ldgWu (w.extractLsb' 20 5) (w.extractLsb' 15 5) (w.extractLsb' 0 13))
  | 24 => slotRow (decide (w.extractLsb' 13 2 = 0) && offOk lit (w.extractLsb' 0 13) 1) (none) (offIsLit (w.extractLsb' 0 13)) lit (.stgB (w.extractLsb' 20 5) (w.extractLsb' 15 5) (w.extractLsb' 0 13))
  | 25 => slotRow (decide (w.extractLsb' 13 2 = 0) && offOk lit (w.extractLsb' 0 13) 2) (none) (offIsLit (w.extractLsb' 0 13)) lit (.stgH (w.extractLsb' 20 5) (w.extractLsb' 15 5) (w.extractLsb' 0 13))
  | 26 => slotRow (decide (w.extractLsb' 13 2 = 0) && offOk lit (w.extractLsb' 0 13) 4) (none) (offIsLit (w.extractLsb' 0 13)) lit (.stgW (w.extractLsb' 20 5) (w.extractLsb' 15 5) (w.extractLsb' 0 13))
  | 27 => slotRow (decide (w.extractLsb' 13 2 = 0) && offOk lit (w.extractLsb' 0 13) 8) (none) (offIsLit (w.extractLsb' 0 13)) lit (.stgD (w.extractLsb' 20 5) (w.extractLsb' 15 5) (w.extractLsb' 0 13))
  | 32 => slotRow (decide (w.extractLsb' 23 2 = 0) && offOk lit (w.extractLsb' 0 13) 256) (spaceCheck ((w.extractLsb' 13 2)) (decide ((w.extractLsb' 13 2).toNat = (w.extractLsb' 20 3).toNat / 4))) (offIsLit (w.extractLsb' 0 13)) lit (.qfill (w.extractLsb' 20 3) (w.extractLsb' 15 5) (w.extractLsb' 13 2) (w.extractLsb' 0 13))
  | 33 => slotRow (decide (w.extractLsb' 23 2 = 0) && offOk lit (w.extractLsb' 0 13) 256) (spaceCheck ((w.extractLsb' 13 2)) (decide ((w.extractLsb' 13 2).toNat = (w.extractLsb' 20 3).toNat / 4))) (offIsLit (w.extractLsb' 0 13)) lit (.qfillt (w.extractLsb' 20 3) (w.extractLsb' 15 5) (w.extractLsb' 13 2) (w.extractLsb' 0 13))
  | 34 => slotRow (decide (w.extractLsb' 23 2 = 0) && decide (w.extractLsb' 13 2 = 0) && offOk lit (w.extractLsb' 0 13) 256) (none) (offIsLit (w.extractLsb' 0 13)) lit (.qfillg (w.extractLsb' 20 3) (w.extractLsb' 15 5) (w.extractLsb' 0 13))
  | 35 => slotRow (decide (w.extractLsb' 23 2 = 0) && decide (w.extractLsb' 13 2 = 0) && decide (w.extractLsb' 0 8 = 0)) (none) (false) lit (.qfillgFf (w.extractLsb' 20 3) (w.extractLsb' 15 5) (w.extractLsb' 8 5))
  | 36 => slotRow (offOk lit (w.extractLsb' 0 13) 256) (spaceCheck (w.extractLsb' 13 2) (decide (w.extractLsb' 13 2 = 2))) (offIsLit (w.extractLsb' 0 13)) lit (.vld (w.extractLsb' 20 6) (w.extractLsb' 15 5) (w.extractLsb' 0 13))
  | 37 => slotRow (offOk lit (w.extractLsb' 0 13) 256) (spaceCheck (w.extractLsb' 13 2) (decide (w.extractLsb' 13 2 = 2))) (offIsLit (w.extractLsb' 0 13)) lit (.vld (w.extractLsb' 20 6) (w.extractLsb' 15 5) (w.extractLsb' 0 13))
  | 38 => slotRow (offOk lit (w.extractLsb' 0 13) 256) (spaceCheck ((w.extractLsb' 13 2)) (decide ((w.extractLsb' 13 2) ≠ 1))) (offIsLit (w.extractLsb' 0 13)) lit (.vst (w.extractLsb' 20 6) (w.extractLsb' 15 5) (w.extractLsb' 13 2) (w.extractLsb' 0 13))
  | 39 => slotRow (offOk lit (w.extractLsb' 0 13) 256) (spaceCheck ((w.extractLsb' 13 2)) (decide ((w.extractLsb' 13 2) ≠ 1))) (offIsLit (w.extractLsb' 0 13)) lit (.vst (w.extractLsb' 20 6) (w.extractLsb' 15 5) (w.extractLsb' 13 2) (w.extractLsb' 0 13))
  | 40 => slotRow (offOk lit (w.extractLsb' 0 13) 64) (spaceCheck (w.extractLsb' 13 2) (decide (w.extractLsb' 13 2 = 0))) (offIsLit (w.extractLsb' 0 13)) lit (.send (w.extractLsb' 20 5) (w.extractLsb' 15 5) (w.extractLsb' 0 13))
  | 41 => slotRow (offOk lit (w.extractLsb' 0 13) 64) (spaceCheck (w.extractLsb' 13 2) (decide (w.extractLsb' 13 2 = 0))) (offIsLit (w.extractLsb' 0 13)) lit (.recv (w.extractLsb' 20 5) (w.extractLsb' 15 5) (w.extractLsb' 0 13))
  | 48 =>
    match (w.extractLsb' 7 3).toNat with
    | 0 => slotRow (decide ((w.extractLsb' 4 3).toNat ≤ 3) && scopeOk (w.extractLsb' 1 3)) (none) (false) lit (.amoAdd (w.extractLsb' 20 5) (w.extractLsb' 15 5) (w.extractLsb' 10 5) (w.extractLsb' 4 3) (w.extractLsb' 1 3) (w.getLsbD 0))
    | 1 => slotRow (decide ((w.extractLsb' 4 3).toNat ≤ 3) && scopeOk (w.extractLsb' 1 3)) (none) (false) lit (.amoMin (w.extractLsb' 20 5) (w.extractLsb' 15 5) (w.extractLsb' 10 5) (w.extractLsb' 4 3) (w.extractLsb' 1 3) (w.getLsbD 0))
    | 2 => slotRow (decide ((w.extractLsb' 4 3).toNat ≤ 3) && scopeOk (w.extractLsb' 1 3)) (none) (false) lit (.amoMax (w.extractLsb' 20 5) (w.extractLsb' 15 5) (w.extractLsb' 10 5) (w.extractLsb' 4 3) (w.extractLsb' 1 3) (w.getLsbD 0))
    | 3 => slotRow (decide ((w.extractLsb' 4 3).toNat ≤ 3) && scopeOk (w.extractLsb' 1 3)) (none) (false) lit (.amoXchg (w.extractLsb' 20 5) (w.extractLsb' 15 5) (w.extractLsb' 10 5) (w.extractLsb' 4 3) (w.extractLsb' 1 3) (w.getLsbD 0))
    | 4 => slotRow (decide ((w.extractLsb' 4 3).toNat ≤ 3) && scopeOk (w.extractLsb' 1 3)) (none) (false) lit (.amoAnd (w.extractLsb' 20 5) (w.extractLsb' 15 5) (w.extractLsb' 10 5) (w.extractLsb' 4 3) (w.extractLsb' 1 3) (w.getLsbD 0))
    | 5 => slotRow (decide ((w.extractLsb' 4 3).toNat ≤ 3) && scopeOk (w.extractLsb' 1 3)) (none) (false) lit (.amoOr (w.extractLsb' 20 5) (w.extractLsb' 15 5) (w.extractLsb' 10 5) (w.extractLsb' 4 3) (w.extractLsb' 1 3) (w.getLsbD 0))
    | _ => .error .unassignedFunction
  | 49 => slotRow (decide ((w.extractLsb' 7 3).toNat ≤ 1) && decide ((w.extractLsb' 4 3).toNat ≤ 3) && scopeOk (w.extractLsb' 1 3)) (none) (false) lit (.amoCas (w.extractLsb' 20 5) (w.extractLsb' 15 5) (w.extractLsb' 10 5) (w.extractLsb' 7 3) (w.extractLsb' 4 3) (w.extractLsb' 1 3) (w.getLsbD 0))
  | 50 =>
    match (w.extractLsb' 7 3).toNat with
    | 0 => slotRow (decide (w.extractLsb' 1 6 = 0)) (none) (false) lit (.amoscAdd (w.extractLsb' 20 5) (w.extractLsb' 15 5) (w.extractLsb' 10 5) (w.getLsbD 0))
    | 1 => slotRow (decide (w.extractLsb' 1 6 = 0)) (none) (false) lit (.amoscMin (w.extractLsb' 20 5) (w.extractLsb' 15 5) (w.extractLsb' 10 5) (w.getLsbD 0))
    | 2 => slotRow (decide (w.extractLsb' 1 6 = 0)) (none) (false) lit (.amoscMax (w.extractLsb' 20 5) (w.extractLsb' 15 5) (w.extractLsb' 10 5) (w.getLsbD 0))
    | 3 => slotRow (decide (w.extractLsb' 1 6 = 0)) (none) (false) lit (.amoscXchg (w.extractLsb' 20 5) (w.extractLsb' 15 5) (w.extractLsb' 10 5) (w.getLsbD 0))
    | 4 => slotRow (decide (w.extractLsb' 1 6 = 0)) (none) (false) lit (.amoscAnd (w.extractLsb' 20 5) (w.extractLsb' 15 5) (w.extractLsb' 10 5) (w.getLsbD 0))
    | 5 => slotRow (decide (w.extractLsb' 1 6 = 0)) (none) (false) lit (.amoscOr (w.extractLsb' 20 5) (w.extractLsb' 15 5) (w.extractLsb' 10 5) (w.getLsbD 0))
    | 6 => slotRow (decide (w.extractLsb' 1 6 = 0)) (none) (false) lit (.amoscCas (w.extractLsb' 20 5) (w.extractLsb' 15 5) (w.extractLsb' 10 5) (w.getLsbD 0))
    | _ => .error .unassignedFunction
  | 56 =>
    match (w.extractLsb' 12 3).toNat with
    | 1 => slotRow (decide (w.extractLsb' 15 10 = 0) && decide (w.extractLsb' 0 9 = 0) && scopeOk (w.extractLsb' 9 3)) (none) (false) lit (.fenceAcq (w.extractLsb' 9 3))
    | 2 => slotRow (decide (w.extractLsb' 15 10 = 0) && decide (w.extractLsb' 0 9 = 0) && scopeOk (w.extractLsb' 9 3)) (none) (false) lit (.fenceRel (w.extractLsb' 9 3))
    | 3 => slotRow (decide (w.extractLsb' 15 10 = 0) && decide (w.extractLsb' 0 9 = 0) && scopeOk (w.extractLsb' 9 3)) (none) (false) lit (.fenceAcqrel (w.extractLsb' 9 3))
    | 4 => slotRow (decide (w.extractLsb' 0 12 = 1536) && decide (w.extractLsb' 15 10 = 0)) (none) (false) lit (.fenceSc)
    | _ => .error .reservedField
  | 57 => slotRow (decide (w.extractLsb' 20 5 = 0) && decide (w.extractLsb' 13 2 = 0) && offOk lit (w.extractLsb' 0 13) 64) (none) (offIsLit (w.extractLsb' 0 13)) lit (.pref (w.extractLsb' 15 5) (w.extractLsb' 0 13))
  | _ => .error .unassignedOpcode

/-- The M slot: opcodes and function codes of Table 8.5. -/
def decodeM (lit : Option Cell) (w : Cell) : Except Detail Instr :=
  match (w.extractLsb' 25 7).toNat with
  | 0 => slotRow (decide (w.extractLsb' 0 19 = 0)) (none) (false) lit (.rk (w.extractLsb' 23 2) (w.extractLsb' 21 2) (w.extractLsb' 19 2))
  | 1 => slotRow (decide (w.extractLsb' 18 1 = 0) && decide (w.extractLsb' 0 12 = 0)) (none) (false) lit (.rks (w.extractLsb' 23 2) (w.extractLsb' 21 2) (w.extractLsb' 19 2) (w.extractLsb' 15 3) (w.extractLsb' 12 3))
  | 2 => slotRow (decide (w.extractLsb' 18 1 = 0) && decide (w.extractLsb' 0 12 = 0)) (none) (false) lit (.rka (w.extractLsb' 23 2) (w.extractLsb' 21 2) (w.extractLsb' 19 2) (w.extractLsb' 15 3) (w.extractLsb' 12 3))
  | 3 => slotRow (decide (w.extractLsb' 0 19 = 0)) (none) (false) lit (.rkn (w.extractLsb' 23 2) (w.extractLsb' 21 2) (w.extractLsb' 19 2))
  | 8 => slotRow (decide (w.extractLsb' 21 4 = 0) && decide (w.extractLsb' 0 19 = 0)) (none) (false) lit (.gzero (w.extractLsb' 19 2))
  | 9 => slotRow (decide (w.extractLsb' 21 4 = 0) && decide (w.extractLsb' 1 18 = 0) && decide ((w.extractLsb' 19 2).toNat ≤ 1) && decide ((w.extractLsb' 19 2).toNat ≠ (w.extractLsb' 0 1).toNat)) (none) (false) lit (.gcopy (w.extractLsb' 19 2) (w.extractLsb' 0 1))
  | 10 => slotRow (decide (w.extractLsb' 0 25 = 1572864)) (none) (false) lit (.gxpose)
  | 11 =>
    match w.getLsbD 18 with
    | false => slotRow (decide (w.extractLsb' 21 4 = 0) && decide (w.extractLsb' 0 15 = 0)) (none) (false) lit (.gscaleQs (w.extractLsb' 19 2) (w.extractLsb' 15 3))
    | true => slotRow (decide (w.extractLsb' 21 4 = 0) && decide (w.extractLsb' 0 18 = 0)) (none) (true) lit (.gscaleLiteral (w.extractLsb' 19 2))
  | 12 => slotRow (decide (w.extractLsb' 2 19 = 0) && decide ((w.extractLsb' 0 2) ≠ 0) && ((w.extractLsb' 0 2).getLsbD 0 || decide ((w.extractLsb' 23 2) = 0)) && ((w.extractLsb' 0 2).getLsbD 1 || decide ((w.extractLsb' 21 2) = 0))) (none) (false) lit (.mpop (w.extractLsb' 23 2) (w.extractLsb' 21 2) (w.extractLsb' 0 2))
  | _ => .error .unassignedOpcode

/-- The V slot: opcodes and function codes of Table 8.6. Modes 2 to 7 of VXFER raise the reserved-field detail of R274 (log 114);
VBSC with gd and ga both special is the load (log 152). -/
def decodeV (lit : Option Cell) (w : Cell) : Except Detail Instr :=
  match (w.extractLsb' 25 7).toNat with
  | 0 => slotRow (dstSpec (w.extractLsb' 17 8) && srcSpec (w.extractLsb' 9 8) && srcSpec (w.extractLsb' 1 8) && sameView (w.extractLsb' 17 8) (w.extractLsb' 9 8) && sameView (w.extractLsb' 17 8) (w.extractLsb' 1 8)) (none) (false) lit (.vadd (w.extractLsb' 17 8) (w.extractLsb' 9 8) (w.extractLsb' 1 8) (w.getLsbD 0))
  | 1 => slotRow (dstSpec (w.extractLsb' 17 8) && srcSpec (w.extractLsb' 9 8) && srcSpec (w.extractLsb' 1 8) && sameView (w.extractLsb' 17 8) (w.extractLsb' 9 8) && sameView (w.extractLsb' 17 8) (w.extractLsb' 1 8)) (none) (false) lit (.vsub (w.extractLsb' 17 8) (w.extractLsb' 9 8) (w.extractLsb' 1 8) (w.getLsbD 0))
  | 2 => slotRow (dstSpec (w.extractLsb' 17 8) && srcSpec (w.extractLsb' 9 8) && srcSpec (w.extractLsb' 1 8) && sameView (w.extractLsb' 17 8) (w.extractLsb' 9 8) && sameView (w.extractLsb' 17 8) (w.extractLsb' 1 8)) (none) (false) lit (.vmul (w.extractLsb' 17 8) (w.extractLsb' 9 8) (w.extractLsb' 1 8) (w.getLsbD 0))
  | 3 => slotRow (dstSpec (w.extractLsb' 17 8) && srcSpec (w.extractLsb' 9 8) && srcSpec (w.extractLsb' 1 8) && sameView (w.extractLsb' 17 8) (w.extractLsb' 9 8) && sameView (w.extractLsb' 17 8) (w.extractLsb' 1 8)) (none) (false) lit (.vfma (w.extractLsb' 17 8) (w.extractLsb' 9 8) (w.extractLsb' 1 8) (w.getLsbD 0))
  | 4 => slotRow (dstSpec (w.extractLsb' 17 8) && srcSpec (w.extractLsb' 9 8) && srcSpec (w.extractLsb' 1 8) && sameView (w.extractLsb' 17 8) (w.extractLsb' 9 8) && sameView (w.extractLsb' 17 8) (w.extractLsb' 1 8)) (none) (false) lit (.vfms (w.extractLsb' 17 8) (w.extractLsb' 9 8) (w.extractLsb' 1 8) (w.getLsbD 0))
  | 5 => slotRow (dstSpec (w.extractLsb' 17 8) && srcSpec (w.extractLsb' 9 8) && srcSpec (w.extractLsb' 1 8) && sameView (w.extractLsb' 17 8) (w.extractLsb' 9 8) && sameView (w.extractLsb' 17 8) (w.extractLsb' 1 8)) (none) (false) lit (.vfnma (w.extractLsb' 17 8) (w.extractLsb' 9 8) (w.extractLsb' 1 8) (w.getLsbD 0))
  | 6 => slotRow (dstSpec (w.extractLsb' 17 8) && srcSpec (w.extractLsb' 9 8) && srcSpec (w.extractLsb' 1 8) && sameView (w.extractLsb' 17 8) (w.extractLsb' 9 8) && sameView (w.extractLsb' 17 8) (w.extractLsb' 1 8)) (none) (false) lit (.vmin (w.extractLsb' 17 8) (w.extractLsb' 9 8) (w.extractLsb' 1 8) (w.getLsbD 0))
  | 7 => slotRow (dstSpec (w.extractLsb' 17 8) && srcSpec (w.extractLsb' 9 8) && srcSpec (w.extractLsb' 1 8) && sameView (w.extractLsb' 17 8) (w.extractLsb' 9 8) && sameView (w.extractLsb' 17 8) (w.extractLsb' 1 8)) (none) (false) lit (.vmax (w.extractLsb' 17 8) (w.extractLsb' 9 8) (w.extractLsb' 1 8) (w.getLsbD 0))
  | 8 => slotRow (decide (w.extractLsb' 1 8 = 0) && dstSpec (w.extractLsb' 17 8) && srcSpec (w.extractLsb' 9 8) && sameView (w.extractLsb' 17 8) (w.extractLsb' 9 8)) (none) (false) lit (.vabs (w.extractLsb' 17 8) (w.extractLsb' 9 8) (w.getLsbD 0))
  | 9 => slotRow (decide (w.extractLsb' 1 8 = 0) && dstSpec (w.extractLsb' 17 8) && srcSpec (w.extractLsb' 9 8) && sameView (w.extractLsb' 17 8) (w.extractLsb' 9 8)) (none) (false) lit (.vneg (w.extractLsb' 17 8) (w.extractLsb' 9 8) (w.getLsbD 0))
  | 10 => slotRow (dstSpec (w.extractLsb' 17 8) && srcSpec (w.extractLsb' 9 8) && srcSpec (w.extractLsb' 1 8) && sameView (w.extractLsb' 17 8) (w.extractLsb' 9 8) && sameView (w.extractLsb' 17 8) (w.extractLsb' 1 8)) (none) (false) lit (.vcpys (w.extractLsb' 17 8) (w.extractLsb' 9 8) (w.extractLsb' 1 8) (w.getLsbD 0))
  | 16 => slotRow (dstSpec (w.extractLsb' 17 8) && srcSpec (w.extractLsb' 9 8) && srcSpec (w.extractLsb' 1 8) && sameView (w.extractLsb' 17 8) (w.extractLsb' 9 8) && sameView (w.extractLsb' 17 8) (w.extractLsb' 1 8)) (none) (false) lit (.viadd (w.extractLsb' 17 8) (w.extractLsb' 9 8) (w.extractLsb' 1 8) (w.getLsbD 0))
  | 17 => slotRow (dstSpec (w.extractLsb' 17 8) && srcSpec (w.extractLsb' 9 8) && srcSpec (w.extractLsb' 1 8) && sameView (w.extractLsb' 17 8) (w.extractLsb' 9 8) && sameView (w.extractLsb' 17 8) (w.extractLsb' 1 8)) (none) (false) lit (.visub (w.extractLsb' 17 8) (w.extractLsb' 9 8) (w.extractLsb' 1 8) (w.getLsbD 0))
  | 18 => slotRow (dstSpec (w.extractLsb' 17 8) && srcSpec (w.extractLsb' 9 8) && srcSpec (w.extractLsb' 1 8) && sameView (w.extractLsb' 17 8) (w.extractLsb' 9 8) && sameView (w.extractLsb' 17 8) (w.extractLsb' 1 8)) (none) (false) lit (.vimul (w.extractLsb' 17 8) (w.extractLsb' 9 8) (w.extractLsb' 1 8) (w.getLsbD 0))
  | 19 => slotRow (dstSpec (w.extractLsb' 17 8) && srcSpec (w.extractLsb' 9 8) && srcSpec (w.extractLsb' 1 8) && sameView (w.extractLsb' 17 8) (w.extractLsb' 9 8) && sameView (w.extractLsb' 17 8) (w.extractLsb' 1 8)) (none) (false) lit (.vimulh (w.extractLsb' 17 8) (w.extractLsb' 9 8) (w.extractLsb' 1 8) (w.getLsbD 0))
  | 20 => slotRow (dstSpec (w.extractLsb' 17 8) && srcSpec (w.extractLsb' 9 8) && srcSpec (w.extractLsb' 1 8) && sameView (w.extractLsb' 17 8) (w.extractLsb' 9 8) && sameView (w.extractLsb' 17 8) (w.extractLsb' 1 8)) (none) (false) lit (.vimin (w.extractLsb' 17 8) (w.extractLsb' 9 8) (w.extractLsb' 1 8) (w.getLsbD 0))
  | 21 => slotRow (dstSpec (w.extractLsb' 17 8) && srcSpec (w.extractLsb' 9 8) && srcSpec (w.extractLsb' 1 8) && sameView (w.extractLsb' 17 8) (w.extractLsb' 9 8) && sameView (w.extractLsb' 17 8) (w.extractLsb' 1 8)) (none) (false) lit (.vimax (w.extractLsb' 17 8) (w.extractLsb' 9 8) (w.extractLsb' 1 8) (w.getLsbD 0))
  | 22 => slotRow (dstSpec (w.extractLsb' 17 8) && srcSpec (w.extractLsb' 9 8) && srcSpec (w.extractLsb' 1 8) && sameView (w.extractLsb' 17 8) (w.extractLsb' 9 8) && sameView (w.extractLsb' 17 8) (w.extractLsb' 1 8)) (none) (false) lit (.vand (w.extractLsb' 17 8) (w.extractLsb' 9 8) (w.extractLsb' 1 8) (w.getLsbD 0))
  | 23 => slotRow (dstSpec (w.extractLsb' 17 8) && srcSpec (w.extractLsb' 9 8) && srcSpec (w.extractLsb' 1 8) && sameView (w.extractLsb' 17 8) (w.extractLsb' 9 8) && sameView (w.extractLsb' 17 8) (w.extractLsb' 1 8)) (none) (false) lit (.vor (w.extractLsb' 17 8) (w.extractLsb' 9 8) (w.extractLsb' 1 8) (w.getLsbD 0))
  | 24 => slotRow (dstSpec (w.extractLsb' 17 8) && srcSpec (w.extractLsb' 9 8) && srcSpec (w.extractLsb' 1 8) && sameView (w.extractLsb' 17 8) (w.extractLsb' 9 8) && sameView (w.extractLsb' 17 8) (w.extractLsb' 1 8)) (none) (false) lit (.vxor (w.extractLsb' 17 8) (w.extractLsb' 9 8) (w.extractLsb' 1 8) (w.getLsbD 0))
  | 25 => slotRow (dstSpec (w.extractLsb' 17 8) && srcSpec (w.extractLsb' 9 8) && srcSpec (w.extractLsb' 1 8) && sameView (w.extractLsb' 17 8) (w.extractLsb' 9 8) && sameView (w.extractLsb' 17 8) (w.extractLsb' 1 8)) (none) (false) lit (.vshl (w.extractLsb' 17 8) (w.extractLsb' 9 8) (w.extractLsb' 1 8) (w.getLsbD 0))
  | 26 => slotRow (dstSpec (w.extractLsb' 17 8) && srcSpec (w.extractLsb' 9 8) && srcSpec (w.extractLsb' 1 8) && sameView (w.extractLsb' 17 8) (w.extractLsb' 9 8) && sameView (w.extractLsb' 17 8) (w.extractLsb' 1 8)) (none) (false) lit (.vshr (w.extractLsb' 17 8) (w.extractLsb' 9 8) (w.extractLsb' 1 8) (w.getLsbD 0))
  | 27 => slotRow (dstSpec (w.extractLsb' 17 8) && srcSpec (w.extractLsb' 9 8) && srcSpec (w.extractLsb' 1 8) && sameView (w.extractLsb' 17 8) (w.extractLsb' 9 8) && sameView (w.extractLsb' 17 8) (w.extractLsb' 1 8)) (none) (false) lit (.vsar (w.extractLsb' 17 8) (w.extractLsb' 9 8) (w.extractLsb' 1 8) (w.getLsbD 0))
  | 32 => slotRow (decide (w.extractLsb' 20 5 = 0) && srcSpec (w.extractLsb' 9 8) && srcSpec (w.extractLsb' 1 8)) (none) (false) lit (.vcmpEq (w.extractLsb' 17 3) (w.extractLsb' 9 8) (w.extractLsb' 1 8) (w.getLsbD 0))
  | 33 => slotRow (decide (w.extractLsb' 20 5 = 0) && srcSpec (w.extractLsb' 9 8) && srcSpec (w.extractLsb' 1 8)) (none) (false) lit (.vcmpNe (w.extractLsb' 17 3) (w.extractLsb' 9 8) (w.extractLsb' 1 8) (w.getLsbD 0))
  | 34 => slotRow (decide (w.extractLsb' 20 5 = 0) && srcSpec (w.extractLsb' 9 8) && srcSpec (w.extractLsb' 1 8)) (none) (false) lit (.vcmpLt (w.extractLsb' 17 3) (w.extractLsb' 9 8) (w.extractLsb' 1 8) (w.getLsbD 0))
  | 35 => slotRow (decide (w.extractLsb' 20 5 = 0) && srcSpec (w.extractLsb' 9 8) && srcSpec (w.extractLsb' 1 8)) (none) (false) lit (.vcmpLe (w.extractLsb' 17 3) (w.extractLsb' 9 8) (w.extractLsb' 1 8) (w.getLsbD 0))
  | 36 => slotRow (decide (w.extractLsb' 20 5 = 0) && srcSpec (w.extractLsb' 9 8) && srcSpec (w.extractLsb' 1 8)) (none) (false) lit (.vcmpGt (w.extractLsb' 17 3) (w.extractLsb' 9 8) (w.extractLsb' 1 8) (w.getLsbD 0))
  | 37 => slotRow (decide (w.extractLsb' 20 5 = 0) && srcSpec (w.extractLsb' 9 8) && srcSpec (w.extractLsb' 1 8)) (none) (false) lit (.vcmpGe (w.extractLsb' 17 3) (w.extractLsb' 9 8) (w.extractLsb' 1 8) (w.getLsbD 0))
  | 38 => slotRow (decide (w.extractLsb' 20 5 = 0) && srcSpec (w.extractLsb' 9 8) && srcSpec (w.extractLsb' 1 8)) (none) (false) lit (.vcmpUn (w.extractLsb' 17 3) (w.extractLsb' 9 8) (w.extractLsb' 1 8) (w.getLsbD 0))
  | 40 => slotRow (decide (w.extractLsb' 0 1 = 0) && dstSpec (w.extractLsb' 17 8) && srcSpec (w.extractLsb' 9 8) && srcSpec (w.extractLsb' 1 8) && sameView (w.extractLsb' 17 8) (w.extractLsb' 9 8) && sameView (w.extractLsb' 17 8) (w.extractLsb' 1 8)) (none) (false) lit (.vsel (w.extractLsb' 17 8) (w.extractLsb' 9 8) (w.extractLsb' 1 8))
  | 41 => slotRow (decide (w.extractLsb' 1 8 = 0) && dstSpec (w.extractLsb' 17 8) && srcSpec (w.extractLsb' 9 8) && sameView (w.extractLsb' 17 8) (w.extractLsb' 9 8)) (none) (false) lit (.vclass (w.extractLsb' 17 8) (w.extractLsb' 9 8) (w.getLsbD 0))
  | 44 => slotRow (dstSpec (w.extractLsb' 17 8) && srcSpec (w.extractLsb' 9 8) && srcSpec (w.extractLsb' 1 8) && sameView (w.extractLsb' 17 8) (w.extractLsb' 9 8) && sameView (w.extractLsb' 17 8) (w.extractLsb' 1 8)) (none) (false) lit (.vmulw (w.extractLsb' 17 8) (w.extractLsb' 9 8) (w.extractLsb' 1 8) (w.getLsbD 0))
  | 48 => slotRow (decide (w.extractLsb' 1 8 = 0) && dstSpec (w.extractLsb' 17 8) && srcSpec (w.extractLsb' 9 8) && sameView (w.extractLsb' 17 8) (w.extractLsb' 9 8)) (none) (false) lit (.vexp2 (w.extractLsb' 17 8) (w.extractLsb' 9 8) (w.getLsbD 0))
  | 49 => slotRow (decide (w.extractLsb' 1 8 = 0) && dstSpec (w.extractLsb' 17 8) && srcSpec (w.extractLsb' 9 8) && sameView (w.extractLsb' 17 8) (w.extractLsb' 9 8)) (none) (false) lit (.vlog2 (w.extractLsb' 17 8) (w.extractLsb' 9 8) (w.getLsbD 0))
  | 50 => slotRow (decide (w.extractLsb' 1 8 = 0) && dstSpec (w.extractLsb' 17 8) && srcSpec (w.extractLsb' 9 8) && sameView (w.extractLsb' 17 8) (w.extractLsb' 9 8)) (none) (false) lit (.vrcp (w.extractLsb' 17 8) (w.extractLsb' 9 8) (w.getLsbD 0))
  | 51 => slotRow (decide (w.extractLsb' 1 8 = 0) && dstSpec (w.extractLsb' 17 8) && srcSpec (w.extractLsb' 9 8) && sameView (w.extractLsb' 17 8) (w.extractLsb' 9 8)) (none) (false) lit (.vrsq (w.extractLsb' 17 8) (w.extractLsb' 9 8) (w.getLsbD 0))
  | 52 => slotRow (decide (w.extractLsb' 1 8 = 0) && dstSpec (w.extractLsb' 17 8) && srcSpec (w.extractLsb' 9 8) && sameView (w.extractLsb' 17 8) (w.extractLsb' 9 8)) (none) (false) lit (.vsqrt (w.extractLsb' 17 8) (w.extractLsb' 9 8) (w.getLsbD 0))
  | 53 => slotRow (decide (w.extractLsb' 1 8 = 0) && dstSpec (w.extractLsb' 17 8) && srcSpec (w.extractLsb' 9 8) && sameView (w.extractLsb' 17 8) (w.extractLsb' 9 8)) (none) (false) lit (.vsinp (w.extractLsb' 17 8) (w.extractLsb' 9 8) (w.getLsbD 0))
  | 54 => slotRow (decide (w.extractLsb' 1 8 = 0) && dstSpec (w.extractLsb' 17 8) && srcSpec (w.extractLsb' 9 8) && sameView (w.extractLsb' 17 8) (w.extractLsb' 9 8)) (none) (false) lit (.vcosp (w.extractLsb' 17 8) (w.extractLsb' 9 8) (w.getLsbD 0))
  | 55 => slotRow (decide (w.extractLsb' 1 8 = 0) && dstSpec (w.extractLsb' 17 8) && srcSpec (w.extractLsb' 9 8) && sameView (w.extractLsb' 17 8) (w.extractLsb' 9 8)) (none) (false) lit (.vtanh (w.extractLsb' 17 8) (w.extractLsb' 9 8) (w.getLsbD 0))
  | 56 => slotRow (decide (w.extractLsb' 1 8 = 0) && dstSpec (w.extractLsb' 17 8) && srcSpec (w.extractLsb' 9 8) && sameView (w.extractLsb' 17 8) (w.extractLsb' 9 8)) (none) (false) lit (.vsigm (w.extractLsb' 17 8) (w.extractLsb' 9 8) (w.getLsbD 0))
  | 64 => slotRow (decide (w.extractLsb' 1 8 = 0) && dstSpec (w.extractLsb' 17 8) && srcSpec (w.extractLsb' 9 8) && sameView (w.extractLsb' 17 8) (w.extractLsb' 9 8)) (none) (false) lit (.vcvt (w.extractLsb' 17 8) (w.extractLsb' 9 8) (w.getLsbD 0))
  | 65 =>
    match isSpecial (w.extractLsb' 17 8) with
    | true => slotRow (decide (w.extractLsb' 17 8 = 192) && decide (w.extractLsb' 4 5 = 0) && decide (w.extractLsb' 0 1 = 0) && srcSpec (w.extractLsb' 9 8)) (none) (false) lit (.vqntLoad (w.extractLsb' 9 8) (w.extractLsb' 1 3))
    | false => slotRow (decide (w.extractLsb' 4 5 = 0) && dstSpec (w.extractLsb' 17 8) && srcSpec (w.extractLsb' 9 8) && sameView (w.extractLsb' 17 8) (w.extractLsb' 9 8)) (none) (false) lit (.vqnt (w.extractLsb' 17 8) (w.extractLsb' 9 8) (w.extractLsb' 1 3) (w.getLsbD 0))
  | 66 =>
    match isSpecial (w.extractLsb' 9 8) with
    | true => slotRow (decide (w.extractLsb' 4 13 = 6144) && decide (w.extractLsb' 0 1 = 0) && dstSpec (w.extractLsb' 17 8)) (none) (false) lit (.vdqntStore (w.extractLsb' 17 8) (w.extractLsb' 1 3))
    | false => slotRow (decide (w.extractLsb' 4 5 = 0) && dstSpec (w.extractLsb' 17 8) && srcSpec (w.extractLsb' 9 8) && sameView (w.extractLsb' 17 8) (w.extractLsb' 9 8) && !(isSpecial (w.extractLsb' 9 8))) (none) (false) lit (.vdqnt (w.extractLsb' 17 8) (w.extractLsb' 9 8) (w.extractLsb' 1 3) (w.getLsbD 0))
  | 67 =>
    match isSpecial (w.extractLsb' 17 8), isSpecial (w.extractLsb' 9 8) with
    | true, _ => slotRow (decide (w.extractLsb' 17 8 = 192) && decide (w.extractLsb' 4 5 = 0) && decide (w.extractLsb' 0 1 = 0) && srcSpec (w.extractLsb' 9 8)) (none) (false) lit (.vbscLoad (w.extractLsb' 9 8) (w.extractLsb' 1 3))
    | false, true => slotRow (decide (w.extractLsb' 4 13 = 6144) && decide (w.extractLsb' 0 1 = 0) && dstSpec (w.extractLsb' 17 8)) (none) (false) lit (.vbscStore (w.extractLsb' 17 8) (w.extractLsb' 1 3))
    | false, false => slotRow (decide (w.extractLsb' 4 5 = 0) && dstSpec (w.extractLsb' 17 8) && srcSpec (w.extractLsb' 9 8) && sameView (w.extractLsb' 17 8) (w.extractLsb' 9 8) && !(isSpecial (w.extractLsb' 9 8))) (none) (false) lit (.vbscApply (w.extractLsb' 17 8) (w.extractLsb' 9 8) (w.extractLsb' 1 3) (w.getLsbD 0))
  | 68 => slotRow (decide (w.extractLsb' 4 5 = 0) && dstSpec (w.extractLsb' 17 8) && srcSpec (w.extractLsb' 9 8) && sameView (w.extractLsb' 17 8) (w.extractLsb' 9 8)) (none) (false) lit (.vbqnt (w.extractLsb' 17 8) (w.extractLsb' 9 8) (w.extractLsb' 1 3) (w.getLsbD 0))
  | 69 => slotRow (dstSpec (w.extractLsb' 17 8) && srcSpec (w.extractLsb' 9 8) && srcSpec (w.extractLsb' 1 8) && sameView (w.extractLsb' 17 8) (w.extractLsb' 9 8) && sameView (w.extractLsb' 17 8) (w.extractLsb' 1 8) && !(isSpecial (w.extractLsb' 1 8))) (none) (false) lit (.vpack (w.extractLsb' 17 8) (w.extractLsb' 9 8) (w.extractLsb' 1 8) (w.getLsbD 0))
  | 70 => slotRow (decide (w.extractLsb' 1 8 = 0) && dstSpec (w.extractLsb' 17 8) && srcSpec (w.extractLsb' 9 8) && sameView (w.extractLsb' 17 8) (w.extractLsb' 9 8)) (none) (false) lit (.vunpk (w.extractLsb' 17 8) (w.extractLsb' 9 8) (w.getLsbD 0))
  | 80 => slotRow (decide (w.extractLsb' 1 8 = 0) && dstSpec (w.extractLsb' 17 8) && srcSpec (w.extractLsb' 9 8)) (none) (false) lit (.vredSum (w.extractLsb' 17 8) (w.extractLsb' 9 8) (w.getLsbD 0))
  | 81 => slotRow (decide (w.extractLsb' 1 8 = 0) && dstSpec (w.extractLsb' 17 8) && srcSpec (w.extractLsb' 9 8)) (none) (false) lit (.vredMax (w.extractLsb' 17 8) (w.extractLsb' 9 8) (w.getLsbD 0))
  | 82 => slotRow (decide (w.extractLsb' 1 8 = 0) && dstSpec (w.extractLsb' 17 8) && srcSpec (w.extractLsb' 9 8)) (none) (false) lit (.vredMin (w.extractLsb' 17 8) (w.extractLsb' 9 8) (w.getLsbD 0))
  | 83 => slotRow (decide (w.extractLsb' 1 8 = 0) && dstSpec (w.extractLsb' 17 8) && srcSpec (w.extractLsb' 9 8)) (none) (false) lit (.vredAmax (w.extractLsb' 17 8) (w.extractLsb' 9 8) (w.getLsbD 0))
  | 84 => slotRow (decide (w.extractLsb' 1 8 = 0) && dstSpec (w.extractLsb' 17 8) && srcSpec (w.extractLsb' 9 8) && sameView (w.extractLsb' 17 8) (w.extractLsb' 9 8)) (none) (false) lit (.vscanSum (w.extractLsb' 17 8) (w.extractLsb' 9 8) (w.getLsbD 0))
  | 85 => slotRow (decide (w.extractLsb' 1 8 = 0) && dstSpec (w.extractLsb' 17 8) && srcSpec (w.extractLsb' 9 8) && sameView (w.extractLsb' 17 8) (w.extractLsb' 9 8)) (none) (false) lit (.vscanMax (w.extractLsb' 17 8) (w.extractLsb' 9 8) (w.getLsbD 0))
  | 86 => slotRow (decide (w.extractLsb' 1 8 = 0) && dstSpec (w.extractLsb' 17 8) && srcSpec (w.extractLsb' 9 8) && sameView (w.extractLsb' 17 8) (w.extractLsb' 9 8)) (none) (false) lit (.vscanMin (w.extractLsb' 17 8) (w.extractLsb' 9 8) (w.getLsbD 0))
  | 96 => slotRow (decide (w.extractLsb' 1 8 = 0) && dstSpec (w.extractLsb' 17 8) && srcSpec (w.extractLsb' 9 8)) (none) (false) lit (.vmov (w.extractLsb' 17 8) (w.extractLsb' 9 8) (w.getLsbD 0))
  | 97 => slotRow (dstSpec (w.extractLsb' 17 8) && srcSpec (w.extractLsb' 9 8) && srcSpec (w.extractLsb' 1 8) && sameView (w.extractLsb' 17 8) (w.extractLsb' 9 8) && sameView (w.extractLsb' 17 8) (w.extractLsb' 1 8)) (none) (false) lit (.vperm (w.extractLsb' 17 8) (w.extractLsb' 9 8) (w.extractLsb' 1 8) (w.getLsbD 0))
  | 98 => slotRow (decide (w.extractLsb' 7 2 = 0) && dstSpec (w.extractLsb' 17 8) && srcSpec (w.extractLsb' 9 8) && sameView (w.extractLsb' 17 8) (w.extractLsb' 9 8)) (none) (false) lit (.vrot (w.extractLsb' 17 8) (w.extractLsb' 9 8) (w.extractLsb' 1 6) (w.getLsbD 0))
  | 99 => slotRow (decide (w.extractLsb' 1 8 = 0) && dstSpec (w.extractLsb' 17 8) && srcSpec (w.extractLsb' 9 8)) (none) (false) lit (.vfill (w.extractLsb' 17 8) (w.extractLsb' 9 8) (w.getLsbD 0))
  | 104 => slotRow (decide (w.extractLsb' 0 17 = 0) && dstSpec (w.extractLsb' 17 8)) (none) (false) lit (.vrand (w.extractLsb' 17 8))
  | 112 =>
    match (w.extractLsb' 22 3).toNat with
    | 0 => slotRow (decide (w.extractLsb' 7 2 = 0) && decide (w.extractLsb' 0 1 = 0) && dstSpec (w.extractLsb' 9 8)) (none) (false) lit (.vxferElement (w.extractLsb' 17 5) (w.extractLsb' 9 8) (w.extractLsb' 1 6))
    | 1 => slotRow (decide (w.extractLsb' 4 13 = 0) && decide (w.extractLsb' 0 1 = 0)) (none) (false) lit (.vxferKcount (w.extractLsb' 17 5) (w.extractLsb' 1 3))
    | _ => .error .reservedField
  | _ => .error .unassignedOpcode

/-- The C slot: opcodes and function codes of Table 8.7. -/
def decodeC (lit : Option Cell) (w : Cell) : Except Detail Instr :=
  match (w.extractLsb' 25 7).toNat with
  | 0 => slotRow (decide (w.extractLsb' 4 3 = 0) && litFieldOk (w.getLsbD 7) (w.extractLsb' 8 5)) (endpointCheck (decide ((w.extractLsb' 2 2) ≠ 2) && decide ((w.extractLsb' 0 2) ≠ 2))) ((w.getLsbD 7)) lit (.cpy (w.extractLsb' 23 2) (w.extractLsb' 18 5) (w.extractLsb' 13 5) (w.extractLsb' 8 5) (w.getLsbD 7) (w.extractLsb' 2 2) (w.extractLsb' 0 2))
  | 1 => slotRow (decide (w.extractLsb' 4 3 = 0) && litFieldOk (w.getLsbD 7) (w.extractLsb' 8 5)) (endpointCheck (decide ((w.extractLsb' 2 2) ≠ 2) && decide ((w.extractLsb' 0 2) ≠ 2))) ((w.getLsbD 7)) lit (.cpy2d (w.extractLsb' 23 2) (w.extractLsb' 18 5) (w.extractLsb' 13 5) (w.extractLsb' 8 5) (w.getLsbD 7) (w.extractLsb' 2 2) (w.extractLsb' 0 2))
  | 2 => slotRow (decide (w.extractLsb' 4 3 = 0) && litFieldOk (w.getLsbD 7) (w.extractLsb' 8 5)) (endpointCheck (decide ((w.extractLsb' 2 2).toNat ≤ 1) && decide ((w.extractLsb' 0 2).toNat ≤ 1))) ((w.getLsbD 7)) lit (.cpyb (w.extractLsb' 23 2) (w.extractLsb' 18 5) (w.extractLsb' 13 5) (w.extractLsb' 8 5) (w.getLsbD 7) (w.extractLsb' 2 2) (w.extractLsb' 0 2))
  | 8 => slotRow (decide (w.extractLsb' 23 2 = 0) && decide (w.extractLsb' 0 18 = 0)) (none) (false) lit (.strm (w.extractLsb' 18 5))
  | 9 => slotRow (decide (w.extractLsb' 23 2 = 0) && decide (w.extractLsb' 0 7 = 0) && litFieldOk (w.getLsbD 7) (w.extractLsb' 8 5)) (none) ((w.getLsbD 7)) lit (.sctr (w.extractLsb' 18 5) (w.extractLsb' 13 5) (w.extractLsb' 8 5) (w.getLsbD 7))
  | 10 => slotRow (decide (w.extractLsb' 23 2 = 0) && decide (w.extractLsb' 0 7 = 0) && litFieldOk (w.getLsbD 7) (w.extractLsb' 8 5)) (none) ((w.getLsbD 7)) lit (.rred (w.extractLsb' 18 5) (w.extractLsb' 13 5) (w.extractLsb' 8 5) (w.getLsbD 7))
  | 16 => slotRow (decide (w.extractLsb' 23 2 = 0) && decide (w.extractLsb' 0 13 = 0)) (none) (false) lit (.qpush (w.extractLsb' 18 5) (w.extractLsb' 13 5))
  | 17 => slotRow (decide (w.extractLsb' 23 2 = 0) && decide (w.extractLsb' 13 5 = 0) && decide (w.extractLsb' 3 4 = 0) && litFieldOk (w.getLsbD 7) (w.extractLsb' 8 5) && scopeOk (w.extractLsb' 0 3)) (none) ((w.getLsbD 7)) lit (.fsig (w.extractLsb' 18 5) (w.extractLsb' 8 5) (w.getLsbD 7) (w.extractLsb' 0 3))
  | 18 => slotRow (decide (w.extractLsb' 13 5 = 0) && decide (w.extractLsb' 3 4 = 0) && litFieldOk (w.getLsbD 7) (w.extractLsb' 8 5) && scopeOk (w.extractLsb' 0 3)) (none) ((w.getLsbD 7)) lit (.cwait (w.extractLsb' 23 2) (w.extractLsb' 18 5) (w.extractLsb' 8 5) (w.getLsbD 7) (w.extractLsb' 0 3))
  | 19 => slotRow (decide (w.extractLsb' 6 19 = 0) && decide ((w.extractLsb' 0 6) ≠ 0)) (none) (false) lit (.qfence (w.extractLsb' 0 6))
  | 24 => slotRow (decide (w.extractLsb' 23 2 = 0) && decide (w.extractLsb' 0 18 = 0)) (none) (false) lit (.texec (w.extractLsb' 18 5))
  | 25 => slotRow (decide (w.extractLsb' 23 2 = 0) && decide (w.extractLsb' 2 16 = 0) && decide ((w.extractLsb' 0 2) ≠ 0)) (none) (false) lit (.tissue (w.extractLsb' 18 5) (w.extractLsb' 0 2))
  | 26 => slotRow (decide (w.extractLsb' 0 25 = 0)) (none) (false) lit (.wfence)
  | _ => .error .unassignedOpcode

/-- The instruction of a slot word in a bundle with the literal `lit`, or the detail of its first failing static
check (R176, R179). -/
def decodeSlot (k : SlotKind) (lit : Option Cell) (w : Cell) : Except Detail Instr :=
  match k with
  | .s => decodeS lit w
  | .a => decodeA lit w
  | .m => decodeM lit w
  | .v => decodeV lit w
  | .c => decodeC lit w

/-- One bundle as fetched: its header, its slot words in the order S, A, M, V, C, and its literal (R147). -/
structure RawBundle where
  hdr : BitVec 16
  words : List (SlotKind × Cell)
  lit : Option Cell
  deriving DecidableEq, Repr

/-- The number of ones among the presence bits and X (R147). -/
def hdrCount (h : BitVec 16) : Nat :=
  (h.getLsbD 0).toNat + (h.getLsbD 1).toNat + (h.getLsbD 2).toNat + (h.getLsbD 3).toNat + (h.getLsbD 4).toNat +
    (h.getLsbD 7).toNat

/-- The length of a bundle in bytes: 2 + 4 * popcount(P) + 4 * X (R147). -/
def bundleLen (h : BitVec 16) : Nat := 2 + 4 * hdrCount h

/-- A little-endian value of the first bytes of a list; absent bytes read 0 (R5). -/
def leNat : List Byte → Nat
  | [] => 0
  | b :: bs => b.toNat + 256 * leNat bs

/-- The `n` bytes of a value, lowest first (R5). -/
def leBytes : Nat → Nat → List Byte
  | 0, _ => []
  | n + 1, v => BitVec.ofNat 8 v :: leBytes n (v / 256)

/-- The n-th 32-bit word after a bundle's header. -/
def bundleWord (bs : List Byte) (n : Nat) : Cell := BitVec.ofNat 32 (leNat ((bs.drop (2 + 4 * n)).take 4))

/-- The slot words present, in order (R147). -/
def slotWords (h : BitVec 16) (bs : List Byte) : List (Nat × SlotKind) → Nat → List (SlotKind × Cell)
  | [], _ => []
  | (b, k) :: r, n =>
    if h.getLsbD b then (k, bundleWord bs n) :: slotWords h bs r (n + 1) else slotWords h bs r n

/-- The header of the bundle at the head of the bytes. -/
def headerOf (bs : List Byte) : BitVec 16 := BitVec.ofNat 16 (leNat (bs.take 2))

/-- The slot kinds with their presence bits (Table 7.1). -/
def slotBits : List (Nat × SlotKind) := [(0, .s), (1, .a), (2, .m), (3, .v), (4, .c)]

/-- The bundle at the head of the bytes (R147); bytes past the end read 0. -/
def readBundle (bs : List Byte) : RawBundle :=
  let h := headerOf bs
  { hdr := h
    words := slotWords h bs slotBits 0
    lit := if h.getLsbD 7 then some (bundleWord bs (hdrCount h - 1)) else none }

/-- STOP: the bundle ends its packet (Table 7.1). -/
def RawBundle.stop (b : RawBundle) : Bool := b.hdr.getLsbD 5
/-- RMARK (Table 7.1). -/
def RawBundle.rmark (b : RawBundle) : Bool := b.hdr.getLsbD 6
/-- Bits [15:8] of the header are zero (R148). -/
def RawBundle.legal (b : RawBundle) : Bool := decide (b.hdr.extractLsb' 8 8 = 0)

/-- The null bundle of a header with P = 0 (R148). -/
def decodeHeader (h : BitVec 16) : Option Instr :=
  if h.extractLsb' 8 8 = 0 ∧ h.extractLsb' 0 5 = 0 then
    some (.nullBundle (h.getLsbD 7) (h.getLsbD 6) (h.getLsbD 5))
  else none

/-- The kind of slot that holds an instruction; none for the null bundle and for events. -/
def Instr.slotKind : Instr → Option SlotKind
  | .nop => some .s
  | .add _ _ _ _ => some .s
  | .sub _ _ _ _ => some .s
  | .and _ _ _ _ => some .s
  | .or _ _ _ _ => some .s
  | .xor _ _ _ _ => some .s
  | .andn _ _ _ _ => some .s
  | .shl _ _ _ _ => some .s
  | .shr _ _ _ _ => some .s
  | .sar _ _ _ _ => some .s
  | .rot _ _ _ _ => some .s
  | .min _ _ _ _ => some .s
  | .max _ _ _ _ => some .s
  | .minu _ _ _ _ => some .s
  | .maxu _ _ _ _ => some .s
  | .slt _ _ _ _ => some .s
  | .sltu _ _ _ _ => some .s
  | .seq _ _ _ _ => some .s
  | .mul _ _ _ _ => some .s
  | .mulh _ _ _ _ => some .s
  | .mulhu _ _ _ _ => some .s
  | .div _ _ _ _ => some .s
  | .divu _ _ _ _ => some .s
  | .rem _ _ _ _ => some .s
  | .remu _ _ _ _ => some .s
  | .sel _ _ _ _ _ => some .s
  | .clz _ _ _ => some .s
  | .ctz _ _ _ => some .s
  | .ffs _ _ _ => some .s
  | .popc _ _ _ => some .s
  | .brev _ _ _ => some .s
  | .bext _ _ _ _ _ => some .s
  | .bins _ _ _ _ _ => some .s
  | .kand _ _ _ => some .s
  | .kor _ _ _ => some .s
  | .kxor _ _ _ => some .s
  | .knot _ _ => some .s
  | .kmovKK _ _ => some .s
  | .kmovKX _ _ => some .s
  | .kmovXK _ _ => some .s
  | .kpopc _ _ => some .s
  | .kfirst _ _ => some .s
  | .addi _ _ _ => some .s
  | .andi _ _ _ => some .s
  | .ori _ _ _ => some .s
  | .xori _ _ _ => some .s
  | .shli _ _ _ => some .s
  | .shri _ _ _ => some .s
  | .sari _ _ _ => some .s
  | .li _ _ => some .s
  | .bEq _ _ _ => some .s
  | .bNe _ _ _ => some .s
  | .bLt _ _ _ => some .s
  | .bGe _ _ _ => some .s
  | .bLtu _ _ _ => some .s
  | .bGeu _ _ _ => some .s
  | .j _ => some .s
  | .call _ => some .s
  | .ret _ => some .s
  | .loop _ _ => some .s
  | .csrr _ _ => some .s
  | .csrw _ _ => some .s
  | .csrs _ _ => some .s
  | .csrc _ _ => some .s
  | .setfmt _ => some .s
  | .setshape _ _ _ => some .s
  | .settile _ _ => some .s
  | .seed _ => some .s
  | .trap _ => some .s
  | .eret => some .s
  | .csync => some .s
  | .bara _ => some .s
  | .barw _ => some .s
  | .fwait _ _ _ _ => some .s
  | .exit => some .s
  | .ldB _ _ _ _ => some .a
  | .ldH _ _ _ _ => some .a
  | .ldW _ _ _ _ => some .a
  | .ldD _ _ _ _ => some .a
  | .ldBu _ _ _ _ => some .a
  | .ldHu _ _ _ _ => some .a
  | .ldWu _ _ _ _ => some .a
  | .stB _ _ _ _ => some .a
  | .stH _ _ _ _ => some .a
  | .stW _ _ _ _ => some .a
  | .stD _ _ _ _ => some .a
  | .ldgB _ _ _ => some .a
  | .ldgH _ _ _ => some .a
  | .ldgW _ _ _ => some .a
  | .ldgD _ _ _ => some .a
  | .ldgBu _ _ _ => some .a
  | .ldgHu _ _ _ => some .a
  | .ldgWu _ _ _ => some .a
  | .stgB _ _ _ => some .a
  | .stgH _ _ _ => some .a
  | .stgW _ _ _ => some .a
  | .stgD _ _ _ => some .a
  | .qfill _ _ _ _ => some .a
  | .qfillt _ _ _ _ => some .a
  | .qfillg _ _ _ => some .a
  | .qfillgFf _ _ _ => some .a
  | .vld _ _ _ => some .a
  | .vst _ _ _ _ => some .a
  | .send _ _ _ => some .a
  | .recv _ _ _ => some .a
  | .amoAdd _ _ _ _ _ _ => some .a
  | .amoMin _ _ _ _ _ _ => some .a
  | .amoMax _ _ _ _ _ _ => some .a
  | .amoXchg _ _ _ _ _ _ => some .a
  | .amoAnd _ _ _ _ _ _ => some .a
  | .amoOr _ _ _ _ _ _ => some .a
  | .amoCas _ _ _ _ _ _ _ => some .a
  | .amoscAdd _ _ _ _ => some .a
  | .amoscMin _ _ _ _ => some .a
  | .amoscMax _ _ _ _ => some .a
  | .amoscXchg _ _ _ _ => some .a
  | .amoscAnd _ _ _ _ => some .a
  | .amoscOr _ _ _ _ => some .a
  | .amoscCas _ _ _ _ => some .a
  | .fenceAcq _ => some .a
  | .fenceRel _ => some .a
  | .fenceAcqrel _ => some .a
  | .fenceSc => some .a
  | .pref _ _ => some .a
  | .rk _ _ _ => some .m
  | .rks _ _ _ _ _ => some .m
  | .rka _ _ _ _ _ => some .m
  | .rkn _ _ _ => some .m
  | .gzero _ => some .m
  | .gcopy _ _ => some .m
  | .gxpose => some .m
  | .gscaleQs _ _ => some .m
  | .gscaleLiteral _ => some .m
  | .mpop _ _ _ => some .m
  | .vadd _ _ _ _ => some .v
  | .vsub _ _ _ _ => some .v
  | .vmul _ _ _ _ => some .v
  | .vfma _ _ _ _ => some .v
  | .vfms _ _ _ _ => some .v
  | .vfnma _ _ _ _ => some .v
  | .vmin _ _ _ _ => some .v
  | .vmax _ _ _ _ => some .v
  | .vabs _ _ _ => some .v
  | .vneg _ _ _ => some .v
  | .vcpys _ _ _ _ => some .v
  | .viadd _ _ _ _ => some .v
  | .visub _ _ _ _ => some .v
  | .vimul _ _ _ _ => some .v
  | .vimulh _ _ _ _ => some .v
  | .vimin _ _ _ _ => some .v
  | .vimax _ _ _ _ => some .v
  | .vand _ _ _ _ => some .v
  | .vor _ _ _ _ => some .v
  | .vxor _ _ _ _ => some .v
  | .vshl _ _ _ _ => some .v
  | .vshr _ _ _ _ => some .v
  | .vsar _ _ _ _ => some .v
  | .vcmpEq _ _ _ _ => some .v
  | .vcmpNe _ _ _ _ => some .v
  | .vcmpLt _ _ _ _ => some .v
  | .vcmpLe _ _ _ _ => some .v
  | .vcmpGt _ _ _ _ => some .v
  | .vcmpGe _ _ _ _ => some .v
  | .vcmpUn _ _ _ _ => some .v
  | .vsel _ _ _ => some .v
  | .vclass _ _ _ => some .v
  | .vmulw _ _ _ _ => some .v
  | .vexp2 _ _ _ => some .v
  | .vlog2 _ _ _ => some .v
  | .vrcp _ _ _ => some .v
  | .vrsq _ _ _ => some .v
  | .vsqrt _ _ _ => some .v
  | .vsinp _ _ _ => some .v
  | .vcosp _ _ _ => some .v
  | .vtanh _ _ _ => some .v
  | .vsigm _ _ _ => some .v
  | .vcvt _ _ _ => some .v
  | .vqnt _ _ _ _ => some .v
  | .vqntLoad _ _ => some .v
  | .vdqnt _ _ _ _ => some .v
  | .vdqntStore _ _ => some .v
  | .vbscLoad _ _ => some .v
  | .vbscStore _ _ => some .v
  | .vbscApply _ _ _ _ => some .v
  | .vbqnt _ _ _ _ => some .v
  | .vpack _ _ _ _ => some .v
  | .vunpk _ _ _ => some .v
  | .vredSum _ _ _ => some .v
  | .vredMax _ _ _ => some .v
  | .vredMin _ _ _ => some .v
  | .vredAmax _ _ _ => some .v
  | .vscanSum _ _ _ => some .v
  | .vscanMax _ _ _ => some .v
  | .vscanMin _ _ _ => some .v
  | .vmov _ _ _ => some .v
  | .vperm _ _ _ _ => some .v
  | .vrot _ _ _ _ => some .v
  | .vfill _ _ _ => some .v
  | .vrand _ => some .v
  | .vxferElement _ _ _ => some .v
  | .vxferKcount _ _ => some .v
  | .cpy _ _ _ _ _ _ _ => some .c
  | .cpy2d _ _ _ _ _ _ _ => some .c
  | .cpyb _ _ _ _ _ _ _ => some .c
  | .strm _ => some .c
  | .sctr _ _ _ _ => some .c
  | .rred _ _ _ _ => some .c
  | .qpush _ _ => some .c
  | .fsig _ _ _ _ => some .c
  | .cwait _ _ _ _ _ => some .c
  | .qfence _ => some .c
  | .texec _ => some .c
  | .tissue _ _ => some .c
  | .wfence => some .c
  | _ => none

/-- The slot word of an instruction, from the encodings of Tables 8.2 to 8.7; 0 for what has no slot word. -/
def Instr.encode : Instr → Cell
  | .nop => 0#7 ++ 0#25
  | .add d a b l => 1#7 ++ d ++ a ++ b ++ bit1 l ++ 0#9
  | .sub d a b l => 1#7 ++ d ++ a ++ b ++ bit1 l ++ 1#9
  | .and d a b l => 1#7 ++ d ++ a ++ b ++ bit1 l ++ 2#9
  | .or d a b l => 1#7 ++ d ++ a ++ b ++ bit1 l ++ 3#9
  | .xor d a b l => 1#7 ++ d ++ a ++ b ++ bit1 l ++ 4#9
  | .andn d a b l => 1#7 ++ d ++ a ++ b ++ bit1 l ++ 5#9
  | .shl d a b l => 1#7 ++ d ++ a ++ b ++ bit1 l ++ 6#9
  | .shr d a b l => 1#7 ++ d ++ a ++ b ++ bit1 l ++ 7#9
  | .sar d a b l => 1#7 ++ d ++ a ++ b ++ bit1 l ++ 8#9
  | .rot d a b l => 1#7 ++ d ++ a ++ b ++ bit1 l ++ 9#9
  | .min d a b l => 1#7 ++ d ++ a ++ b ++ bit1 l ++ 10#9
  | .max d a b l => 1#7 ++ d ++ a ++ b ++ bit1 l ++ 11#9
  | .minu d a b l => 1#7 ++ d ++ a ++ b ++ bit1 l ++ 12#9
  | .maxu d a b l => 1#7 ++ d ++ a ++ b ++ bit1 l ++ 13#9
  | .slt d a b l => 1#7 ++ d ++ a ++ b ++ bit1 l ++ 14#9
  | .sltu d a b l => 1#7 ++ d ++ a ++ b ++ bit1 l ++ 15#9
  | .seq d a b l => 1#7 ++ d ++ a ++ b ++ bit1 l ++ 16#9
  | .mul d a b l => 2#7 ++ d ++ a ++ b ++ bit1 l ++ 0#9
  | .mulh d a b l => 2#7 ++ d ++ a ++ b ++ bit1 l ++ 1#9
  | .mulhu d a b l => 2#7 ++ d ++ a ++ b ++ bit1 l ++ 2#9
  | .div d a b l => 2#7 ++ d ++ a ++ b ++ bit1 l ++ 3#9
  | .divu d a b l => 2#7 ++ d ++ a ++ b ++ bit1 l ++ 4#9
  | .rem d a b l => 2#7 ++ d ++ a ++ b ++ bit1 l ++ 5#9
  | .remu d a b l => 2#7 ++ d ++ a ++ b ++ bit1 l ++ 6#9
  | .sel d a b l s => 3#7 ++ d ++ a ++ b ++ bit1 l ++ 0#4 ++ s
  | .clz d a w => 4#7 ++ d ++ a ++ 0#13 ++ w
  | .ctz d a w => 4#7 ++ d ++ a ++ 1#13 ++ w
  | .ffs d a w => 4#7 ++ d ++ a ++ 2#13 ++ w
  | .popc d a w => 4#7 ++ d ++ a ++ 3#13 ++ w
  | .brev d a w => 4#7 ++ d ++ a ++ 4#13 ++ w
  | .bext d a b l w => 4#7 ++ d ++ a ++ b ++ bit1 l ++ 5#7 ++ w
  | .bins d a b l w => 4#7 ++ d ++ a ++ b ++ bit1 l ++ 6#7 ++ w
  | .kand d a b => 5#7 ++ d ++ a ++ b ++ 0#10
  | .kor d a b => 5#7 ++ d ++ a ++ b ++ 1#10
  | .kxor d a b => 5#7 ++ d ++ a ++ b ++ 2#10
  | .knot d a => 5#7 ++ d ++ a ++ 3#15
  | .kmovKK d a => 5#7 ++ d ++ a ++ 4#15
  | .kmovKX d a => 5#7 ++ d ++ a ++ 5#15
  | .kmovXK d a => 5#7 ++ d ++ a ++ 6#15
  | .kpopc d a => 5#7 ++ d ++ a ++ 7#15
  | .kfirst d a => 5#7 ++ d ++ a ++ 8#15
  | .addi d a i => 16#7 ++ d ++ a ++ i
  | .andi d a i => 17#7 ++ d ++ a ++ i
  | .ori d a i => 18#7 ++ d ++ a ++ i
  | .xori d a i => 19#7 ++ d ++ a ++ i
  | .shli d a i => 20#7 ++ d ++ a ++ i
  | .shri d a i => 21#7 ++ d ++ a ++ i
  | .sari d a i => 22#7 ++ d ++ a ++ i
  | .li d i => 23#7 ++ d ++ 0#5 ++ i
  | .bEq a b o => 32#7 ++ a ++ b ++ 0#3 ++ o
  | .bNe a b o => 32#7 ++ a ++ b ++ 1#3 ++ o
  | .bLt a b o => 32#7 ++ a ++ b ++ 2#3 ++ o
  | .bGe a b o => 32#7 ++ a ++ b ++ 3#3 ++ o
  | .bLtu a b o => 32#7 ++ a ++ b ++ 4#3 ++ o
  | .bGeu a b o => 32#7 ++ a ++ b ++ 5#3 ++ o
  | .j o => 33#7 ++ o
  | .call o => 34#7 ++ o
  | .ret a => 35#7 ++ 0#5 ++ a ++ 0#15
  | .loop a o => 36#7 ++ a ++ 0#8 ++ o
  | .csrr d c => 48#7 ++ d ++ 0#8 ++ c
  | .csrw a c => 49#7 ++ 0#5 ++ a ++ 0#3 ++ c
  | .csrs a c => 50#7 ++ 0#5 ++ a ++ 0#3 ++ c
  | .csrc a c => 51#7 ++ 0#5 ++ a ++ 0#3 ++ c
  | .setfmt a => 52#7 ++ 0#5 ++ a ++ 0#15
  | .setshape d a b => 53#7 ++ d ++ a ++ b ++ 0#10
  | .settile d a => 54#7 ++ d ++ a ++ 0#15
  | .seed a => 55#7 ++ 0#5 ++ a ++ 0#15
  | .trap n => 56#7 ++ 0#10 ++ n
  | .eret => 57#7 ++ 0#25
  | .csync => 58#7 ++ 0#25
  | .bara n => 59#7 ++ 0#21 ++ n
  | .barw n => 60#7 ++ 0#21 ++ n
  | .fwait a s l n => 61#7 ++ 0#5 ++ a ++ 0#2 ++ s ++ bit1 l ++ 0#1 ++ n
  | .exit => 62#7 ++ 0#25
  | .ldB d b p o => 0#7 ++ d ++ b ++ p ++ o
  | .ldH d b p o => 1#7 ++ d ++ b ++ p ++ o
  | .ldW d b p o => 2#7 ++ d ++ b ++ p ++ o
  | .ldD d b p o => 3#7 ++ d ++ b ++ p ++ o
  | .ldBu d b p o => 4#7 ++ d ++ b ++ p ++ o
  | .ldHu d b p o => 5#7 ++ d ++ b ++ p ++ o
  | .ldWu d b p o => 6#7 ++ d ++ b ++ p ++ o
  | .stB s b p o => 8#7 ++ s ++ b ++ p ++ o
  | .stH s b p o => 9#7 ++ s ++ b ++ p ++ o
  | .stW s b p o => 10#7 ++ s ++ b ++ p ++ o
  | .stD s b p o => 11#7 ++ s ++ b ++ p ++ o
  | .ldgB d b o => 16#7 ++ d ++ b ++ 0#2 ++ o
  | .ldgH d b o => 17#7 ++ d ++ b ++ 0#2 ++ o
  | .ldgW d b o => 18#7 ++ d ++ b ++ 0#2 ++ o
  | .ldgD d b o => 19#7 ++ d ++ b ++ 0#2 ++ o
  | .ldgBu d b o => 20#7 ++ d ++ b ++ 0#2 ++ o
  | .ldgHu d b o => 21#7 ++ d ++ b ++ 0#2 ++ o
  | .ldgWu d b o => 22#7 ++ d ++ b ++ 0#2 ++ o
  | .stgB s b o => 24#7 ++ s ++ b ++ 0#2 ++ o
  | .stgH s b o => 25#7 ++ s ++ b ++ 0#2 ++ o
  | .stgW s b o => 26#7 ++ s ++ b ++ 0#2 ++ o
  | .stgD s b o => 27#7 ++ s ++ b ++ 0#2 ++ o
  | .qfill q b p o => 32#7 ++ 0#2 ++ q ++ b ++ p ++ o
  | .qfillt q b p o => 33#7 ++ 0#2 ++ q ++ b ++ p ++ o
  | .qfillg q b o => 34#7 ++ 0#2 ++ q ++ b ++ 0#2 ++ o
  | .qfillgFf q b c => 35#7 ++ 0#2 ++ q ++ b ++ 0#2 ++ c ++ 0#8
  | .vld r b o => 18#6 ++ r ++ b ++ 2#2 ++ o
  | .vst r b p o => 19#6 ++ r ++ b ++ p ++ o
  | .send d b o => 40#7 ++ d ++ b ++ 0#2 ++ o
  | .recv d b o => 41#7 ++ d ++ b ++ 0#2 ++ o
  | .amoAdd d b s o c w => 48#7 ++ d ++ b ++ s ++ 0#3 ++ o ++ c ++ bit1 w
  | .amoMin d b s o c w => 48#7 ++ d ++ b ++ s ++ 1#3 ++ o ++ c ++ bit1 w
  | .amoMax d b s o c w => 48#7 ++ d ++ b ++ s ++ 2#3 ++ o ++ c ++ bit1 w
  | .amoXchg d b s o c w => 48#7 ++ d ++ b ++ s ++ 3#3 ++ o ++ c ++ bit1 w
  | .amoAnd d b s o c w => 48#7 ++ d ++ b ++ s ++ 4#3 ++ o ++ c ++ bit1 w
  | .amoOr d b s o c w => 48#7 ++ d ++ b ++ s ++ 5#3 ++ o ++ c ++ bit1 w
  | .amoCas d b s f o c w => 49#7 ++ d ++ b ++ s ++ f ++ o ++ c ++ bit1 w
  | .amoscAdd d b s w => 50#7 ++ d ++ b ++ s ++ 0#9 ++ bit1 w
  | .amoscMin d b s w => 50#7 ++ d ++ b ++ s ++ 64#9 ++ bit1 w
  | .amoscMax d b s w => 50#7 ++ d ++ b ++ s ++ 128#9 ++ bit1 w
  | .amoscXchg d b s w => 50#7 ++ d ++ b ++ s ++ 192#9 ++ bit1 w
  | .amoscAnd d b s w => 50#7 ++ d ++ b ++ s ++ 256#9 ++ bit1 w
  | .amoscOr d b s w => 50#7 ++ d ++ b ++ s ++ 320#9 ++ bit1 w
  | .amoscCas d b s w => 50#7 ++ d ++ b ++ s ++ 384#9 ++ bit1 w
  | .fenceAcq c => 56#7 ++ 1#13 ++ c ++ 0#9
  | .fenceRel c => 56#7 ++ 2#13 ++ c ++ 0#9
  | .fenceAcqrel c => 56#7 ++ 3#13 ++ c ++ 0#9
  | .fenceSc => 56#7 ++ 17920#25
  | .pref b o => 57#7 ++ 0#5 ++ b ++ 0#2 ++ o
  | .rk a b t => 0#7 ++ a ++ b ++ t ++ 0#19
  | .rks a b t m n => 1#7 ++ a ++ b ++ t ++ 0#1 ++ m ++ n ++ 0#12
  | .rka a b t m n => 2#7 ++ a ++ b ++ t ++ 0#1 ++ m ++ n ++ 0#12
  | .rkn a b t => 3#7 ++ a ++ b ++ t ++ 0#19
  | .gzero t => 8#7 ++ 0#4 ++ t ++ 0#19
  | .gcopy t s => 9#7 ++ 0#4 ++ t ++ 0#18 ++ s
  | .gxpose => 10#7 ++ 1572864#25
  | .gscaleQs t m => 11#7 ++ 0#4 ++ t ++ 0#1 ++ m ++ 0#15
  | .gscaleLiteral t => 11#7 ++ 0#4 ++ t ++ 262144#19
  | .mpop a b p => 12#7 ++ a ++ b ++ 0#19 ++ p
  | .vadd d a b m => 0#7 ++ d ++ a ++ b ++ bit1 m
  | .vsub d a b m => 1#7 ++ d ++ a ++ b ++ bit1 m
  | .vmul d a b m => 2#7 ++ d ++ a ++ b ++ bit1 m
  | .vfma d a b m => 3#7 ++ d ++ a ++ b ++ bit1 m
  | .vfms d a b m => 4#7 ++ d ++ a ++ b ++ bit1 m
  | .vfnma d a b m => 5#7 ++ d ++ a ++ b ++ bit1 m
  | .vmin d a b m => 6#7 ++ d ++ a ++ b ++ bit1 m
  | .vmax d a b m => 7#7 ++ d ++ a ++ b ++ bit1 m
  | .vabs d a m => 8#7 ++ d ++ a ++ 0#8 ++ bit1 m
  | .vneg d a m => 9#7 ++ d ++ a ++ 0#8 ++ bit1 m
  | .vcpys d a b m => 10#7 ++ d ++ a ++ b ++ bit1 m
  | .viadd d a b m => 16#7 ++ d ++ a ++ b ++ bit1 m
  | .visub d a b m => 17#7 ++ d ++ a ++ b ++ bit1 m
  | .vimul d a b m => 18#7 ++ d ++ a ++ b ++ bit1 m
  | .vimulh d a b m => 19#7 ++ d ++ a ++ b ++ bit1 m
  | .vimin d a b m => 20#7 ++ d ++ a ++ b ++ bit1 m
  | .vimax d a b m => 21#7 ++ d ++ a ++ b ++ bit1 m
  | .vand d a b m => 22#7 ++ d ++ a ++ b ++ bit1 m
  | .vor d a b m => 23#7 ++ d ++ a ++ b ++ bit1 m
  | .vxor d a b m => 24#7 ++ d ++ a ++ b ++ bit1 m
  | .vshl d a b m => 25#7 ++ d ++ a ++ b ++ bit1 m
  | .vshr d a b m => 26#7 ++ d ++ a ++ b ++ bit1 m
  | .vsar d a b m => 27#7 ++ d ++ a ++ b ++ bit1 m
  | .vcmpEq k a b m => 32#7 ++ 0#5 ++ k ++ a ++ b ++ bit1 m
  | .vcmpNe k a b m => 33#7 ++ 0#5 ++ k ++ a ++ b ++ bit1 m
  | .vcmpLt k a b m => 34#7 ++ 0#5 ++ k ++ a ++ b ++ bit1 m
  | .vcmpLe k a b m => 35#7 ++ 0#5 ++ k ++ a ++ b ++ bit1 m
  | .vcmpGt k a b m => 36#7 ++ 0#5 ++ k ++ a ++ b ++ bit1 m
  | .vcmpGe k a b m => 37#7 ++ 0#5 ++ k ++ a ++ b ++ bit1 m
  | .vcmpUn k a b m => 38#7 ++ 0#5 ++ k ++ a ++ b ++ bit1 m
  | .vsel d a b => 40#7 ++ d ++ a ++ b ++ 0#1
  | .vclass d a m => 41#7 ++ d ++ a ++ 0#8 ++ bit1 m
  | .vmulw d a b m => 44#7 ++ d ++ a ++ b ++ bit1 m
  | .vexp2 d a m => 48#7 ++ d ++ a ++ 0#8 ++ bit1 m
  | .vlog2 d a m => 49#7 ++ d ++ a ++ 0#8 ++ bit1 m
  | .vrcp d a m => 50#7 ++ d ++ a ++ 0#8 ++ bit1 m
  | .vrsq d a m => 51#7 ++ d ++ a ++ 0#8 ++ bit1 m
  | .vsqrt d a m => 52#7 ++ d ++ a ++ 0#8 ++ bit1 m
  | .vsinp d a m => 53#7 ++ d ++ a ++ 0#8 ++ bit1 m
  | .vcosp d a m => 54#7 ++ d ++ a ++ 0#8 ++ bit1 m
  | .vtanh d a m => 55#7 ++ d ++ a ++ 0#8 ++ bit1 m
  | .vsigm d a m => 56#7 ++ d ++ a ++ 0#8 ++ bit1 m
  | .vcvt d a m => 64#7 ++ d ++ a ++ 0#8 ++ bit1 m
  | .vqnt d a q m => 65#7 ++ d ++ a ++ 0#5 ++ q ++ bit1 m
  | .vqntLoad a q => 65#7 ++ 192#8 ++ a ++ 0#5 ++ q ++ 0#1
  | .vdqnt d a q m => 66#7 ++ d ++ a ++ 0#5 ++ q ++ bit1 m
  | .vdqntStore d q => 66#7 ++ d ++ 6144#13 ++ q ++ 0#1
  | .vbscLoad a e => 67#7 ++ 192#8 ++ a ++ 0#5 ++ e ++ 0#1
  | .vbscStore d e => 67#7 ++ d ++ 6144#13 ++ e ++ 0#1
  | .vbscApply d a e m => 67#7 ++ d ++ a ++ 0#5 ++ e ++ bit1 m
  | .vbqnt d a e m => 68#7 ++ d ++ a ++ 0#5 ++ e ++ bit1 m
  | .vpack d a b m => 69#7 ++ d ++ a ++ b ++ bit1 m
  | .vunpk d a m => 70#7 ++ d ++ a ++ 0#8 ++ bit1 m
  | .vredSum d a m => 80#7 ++ d ++ a ++ 0#8 ++ bit1 m
  | .vredMax d a m => 81#7 ++ d ++ a ++ 0#8 ++ bit1 m
  | .vredMin d a m => 82#7 ++ d ++ a ++ 0#8 ++ bit1 m
  | .vredAmax d a m => 83#7 ++ d ++ a ++ 0#8 ++ bit1 m
  | .vscanSum d a m => 84#7 ++ d ++ a ++ 0#8 ++ bit1 m
  | .vscanMax d a m => 85#7 ++ d ++ a ++ 0#8 ++ bit1 m
  | .vscanMin d a m => 86#7 ++ d ++ a ++ 0#8 ++ bit1 m
  | .vmov d a m => 96#7 ++ d ++ a ++ 0#8 ++ bit1 m
  | .vperm d a b m => 97#7 ++ d ++ a ++ b ++ bit1 m
  | .vrot d a c m => 98#7 ++ d ++ a ++ 0#2 ++ c ++ bit1 m
  | .vfill d a m => 99#7 ++ d ++ a ++ 0#8 ++ bit1 m
  | .vrand d => 104#7 ++ d ++ 0#17
  | .vxferElement d a l => 112#7 ++ 0#3 ++ d ++ a ++ 0#2 ++ l ++ 0#1
  | .vxferKcount d k => 112#7 ++ 1#3 ++ d ++ 0#13 ++ k ++ 0#1
  | .cpy q a b c l y z => 0#7 ++ q ++ a ++ b ++ c ++ bit1 l ++ 0#3 ++ y ++ z
  | .cpy2d q a b c l y z => 1#7 ++ q ++ a ++ b ++ c ++ bit1 l ++ 0#3 ++ y ++ z
  | .cpyb q a b c l y z => 2#7 ++ q ++ a ++ b ++ c ++ bit1 l ++ 0#3 ++ y ++ z
  | .strm a => 8#7 ++ 0#2 ++ a ++ 0#18
  | .sctr a b c l => 9#7 ++ 0#2 ++ a ++ b ++ c ++ bit1 l ++ 0#7
  | .rred a b c l => 10#7 ++ 0#2 ++ a ++ b ++ c ++ bit1 l ++ 0#7
  | .qpush a b => 16#7 ++ 0#2 ++ a ++ b ++ 0#13
  | .fsig a c l s => 17#7 ++ 0#2 ++ a ++ 0#5 ++ c ++ bit1 l ++ 0#4 ++ s
  | .cwait q a c l s => 18#7 ++ q ++ a ++ 0#5 ++ c ++ bit1 l ++ 0#4 ++ s
  | .qfence m => 19#7 ++ 0#19 ++ m
  | .texec a => 24#7 ++ 0#2 ++ a ++ 0#18
  | .tissue a d => 25#7 ++ 0#2 ++ a ++ 0#16 ++ d
  | .wfence => 26#7 ++ 0#25
  | _ => 0

/-- The header of a null bundle (Table 7.1). -/
def Instr.encodeHeader : Instr → BitVec 16
  | .nullBundle x r s => 0#8 ++ bit1 x ++ bit1 r ++ bit1 s ++ 0#5
  | _ => 0

/-- The first slot kind, in the order S, M, A, V, C, that reads a word as an instruction. A bare 32-bit word does
not say which slot holds it: the presence mask of the bundle header does (R147, R169). -/
def firstKind (lit : Option Cell) (w : Cell) : List SlotKind → Option (SlotKind × Instr)
  | [] => none
  | k :: ks =>
    match decodeSlot k lit w with
    | .ok i => some (k, i)
    | .error _ => firstKind lit w ks

/-- The order in which a bare word is read. -/
def kindOrder : List SlotKind := [.s, .m, .a, .v, .c]

/-- The instruction that the decoder reads from a table word of `nbits` bits: a bundle header of 16 bits with no
slot, or a slot word of 32 bits whose literal is zero. -/
def decodeTableWord (nbits w : Nat) : Option Instr :=
  if nbits = 16 then decodeHeader (BitVec.ofNat 16 w)
  else if nbits = 32 then (firstKind (some 0) (BitVec.ofNat 32 w) kindOrder).map Prod.snd
  else none

end Sys2Proof
end

