-- ==== Sys2Proof/Machine/Numbers.lean ====
section
/-! DEFINITION. Number formats and arithmetic (06_numbers, R122 to R144): the values of element codes, exact sums and
products, rounding into a type with its flags, stochastic draws, quantisation and scales. Every function is pure. -/

namespace Sys2Proof.Machine

/-- The sticky flags of Table 6.8: NV, DZ, OF, UF, NX, SA, QC from bit 0. -/
abbrev Flags := BitVec 7
def fNV : Flags := 1
def fDZ : Flags := 2
def fOF : Flags := 4
def fUF : Flags := 8
def fNX : Flags := 16
def fSA : Flags := 32
def fQC : Flags := 64
/-- A flag that is raised under a condition. -/
def flagIf (b : Bool) (f : Flags) : Flags := if b then f else 0

/-- An element type as an operand reads it: type code, binary8 precision and Inf option (R122). -/
structure Ty where
  code : BitVec 4
  prec : BitVec 3
  inf : Bool
  deriving DecidableEq, Repr

/-- FP32 (Table 6.2). -/
def tyFP32 : Ty := ⟨0, 0, false⟩
/-- INT32 (Table 6.2). -/
def tyINT32 : Ty := ⟨11, 0, false⟩

/-- The width of an element in bits (Table 6.2). -/
def Ty.width (t : Ty) : Nat :=
  match t.code.toNat with
  | 0 => 32 | 1 => 16 | 2 => 16 | 3 => 8 | 4 => 8 | 5 => 4 | 6 => 8 | 7 => 8 | 8 => 4 | 9 => 4 | 10 => 16
  | 11 => 32 | _ => 8
/-- An integer type (Table 6.2). -/
def Ty.isInt (t : Ty) : Bool := decide (6 ≤ t.code.toNat ∧ t.code.toNat ≤ 11)
/-- An unsigned integer type, UINT8 or UINT4. -/
def Ty.isUInt (t : Ty) : Bool := decide (t.code.toNat = 7 ∨ t.code.toNat = 9)
/-- B8S or B8U (R128, R129). -/
def Ty.isB8 (t : Ty) : Bool := decide (t.code.toNat = 3 ∨ t.code.toNat = 4)
/-- B8U has no sign bit (R129). -/
def Ty.isB8U (t : Ty) : Bool := decide (t.code.toNat = 4)
def Ty.isB8S (t : Ty) : Bool := decide (t.code.toNat = 3)
def Ty.isE2M1 (t : Ty) : Bool := decide (t.code.toNat = 5)
/-- FP32, BF16 or FP16 (R125). -/
def Ty.isIEEE (t : Ty) : Bool := decide (t.code.toNat ≤ 2)

/-- The lowest value of an integer type (R131). -/
def Ty.lo (t : Ty) : Int := if t.isUInt then 0 else -(2 ^ (t.width - 1) : Nat)
/-- The highest value of an integer type (R131). -/
def Ty.hi (t : Ty) : Int := if t.isUInt then (2 ^ t.width : Nat) - 1 else (2 ^ (t.width - 1) : Nat) - 1

/-- The number of trailing bits of a floating type (R125, R128 to R130). -/
def Ty.t (t : Ty) : Nat :=
  match t.code.toNat with
  | 0 => 23 | 1 => 7 | 2 => 10 | 5 => 1 | _ => t.prec.toNat - 1
/-- The exponent bias of a floating type (R125, R128 to R130). -/
def Ty.bias (t : Ty) : Nat :=
  match t.code.toNat with
  | 0 => 127 | 1 => 127 | 2 => 15 | 5 => 1
  | 3 => 2 ^ (7 - t.prec.toNat)
  | _ => 2 ^ (8 - t.prec.toNat)
/-- The exponent of the smallest normal. -/
def Ty.emin (t : Ty) : Int := 1 - (t.bias : Int)
/-- The code of the largest finite magnitude (Tables 6.3 to 6.5). -/
def Ty.maxCode (t : Ty) : Nat :=
  match t.code.toNat with
  | 0 => 0x7F7FFFFF | 1 => 0x7F7F | 2 => 0x7BFF | 5 => 7
  | 3 => if t.inf then 0x7E else 0x7F
  | _ => if t.inf then 0xFD else 0xFE
/-- The type holds infinities. -/
def Ty.hasInf (t : Ty) : Bool := t.isIEEE || (t.isB8 && t.inf)
/-- The canonical NaN (R126); 0 in a type without NaN (Table 6.7). -/
def Ty.nan (t : Ty) : Cell :=
  match t.code.toNat with
  | 0 => 0x7FC00000 | 1 => 0x7FC0 | 2 => 0x7E00 | 3 => 0x80 | 4 => 0xFF | 12 => 0xFF | _ => 0
/-- The sign bit of a floating type that has one. -/
def Ty.signBit (t : Ty) : Cell := if t.isB8U then 0 else BitVec.ofNat 32 (2 ^ (t.width - 1))
/-- Infinity of a sign, in a type that has it. -/
def Ty.infCode (t : Ty) (neg : Bool) : Cell :=
  (if neg then t.signBit else 0) ||| BitVec.ofNat 32 (t.maxCode + 1)
/-- The largest finite value of a sign. -/
def Ty.maxFin (t : Ty) (neg : Bool) : Cell := (if neg then t.signBit else 0) ||| BitVec.ofNat 32 t.maxCode

/-- The low `w` bits of a cell, zero above (R246). -/
def lowBits (w : Nat) (c : Cell) : Cell := BitVec.ofNat 32 (c.toNat % 2 ^ w)

/-- A value as an instruction reads it: a NaN that may be signalling, an infinity, or the finite real
±`m` * 2^`e` (a zero keeps its sign). -/
inductive Val
  | nan (sig : Bool)
  | inf (neg : Bool)
  | fin (neg : Bool) (m : Nat) (e : Int)
  deriving DecidableEq, Repr

def Val.zero (neg : Bool) : Val := .fin neg 0 0
def Val.isNan : Val → Bool
  | .nan _ => true
  | _ => false
def Val.isZero : Val → Bool
  | .fin _ m _ => decide (m = 0)
  | _ => false
/-- The sign bit of a value; a NaN carries none (R126). -/
def Val.neg? : Val → Bool
  | .nan _ => false
  | .inf n => n
  | .fin n _ _ => n
/-- The negated value. -/
def Val.negate : Val → Val
  | .nan s => .nan s
  | .inf n => .inf (!n)
  | .fin n m e => .fin (!n) m e
/-- Reading a signalling NaN raises the invalid flag (R126). -/
def Val.sigFlag : Val → Flags
  | .nan true => fNV
  | _ => 0
/-- The value of an integer. -/
def Val.ofInt (i : Int) : Val := .fin (decide (i < 0)) i.natAbs 0

/-- The value of a magnitude code under the exponent and trailing fields of a floating type (R125, R128). -/
def Ty.magVal (t : Ty) (neg : Bool) (mag : Nat) : Val :=
  let ef := mag / 2 ^ t.t
  let tr := mag % 2 ^ t.t
  if ef = 0 then .fin neg tr (t.emin - t.t) else .fin neg (2 ^ t.t + tr) ((ef : Int) - 1 + t.emin - t.t)

/-- The value of an element code (R125 to R132). -/
def Ty.val (t : Ty) (c : Cell) : Val :=
  let v := (lowBits t.width c).toNat
  if t.isInt then
    Val.ofInt (if v < 2 ^ (t.width - 1) ∨ t.isUInt then (v : Int) else (v : Int) - (2 ^ t.width : Nat))
  else if t.code.toNat = 12 then
    if v = 255 then .nan false else .fin false 1 ((v : Int) - 127)
  else if t.isB8U then
    if v = 0xFF then .nan false
    else if t.inf ∧ v = 0xFE then .inf false
    else t.magVal false v
  else
    let neg := decide (2 ^ (t.width - 1) ≤ v)
    let mag := v % 2 ^ (t.width - 1)
    if t.isE2M1 then t.magVal neg mag
    else if t.isB8S then
      if v = 0x80 then .nan false
      else if t.inf ∧ mag = 0x7F then .inf neg
      else t.magVal neg mag
    else if t.maxCode < mag then
      if mag = t.maxCode + 1 then .inf neg
      else .nan (decide (mag / 2 ^ (t.t - 1) % 2 = 0))
    else t.magVal neg mag

/-- An exact non-zero magnitude `m` * 2^`e` / `d`. -/
structure Mag where
  m : Nat
  e : Int
  d : Nat := 1
  deriving DecidableEq, Repr

/-- floor(log2 v) of a magnitude. -/
def Mag.log2 (v : Mag) : Int :=
  let k : Int := (Nat.log2 v.m : Int) - (Nat.log2 v.d : Int)
  let ge := if 0 ≤ k then v.d * 2 ^ k.toNat ≤ v.m else v.d ≤ v.m * 2 ^ (-k).toNat
  (if ge then k else k - 1) + v.e

/-- A magnitude over a unit 2^`u`, as floor and remainder over a denominator. A quotient below 2^-64 stands for
every smaller one, which keeps its rounding. -/
def Mag.over (v : Mag) (u : Int) : Nat × Nat × Nat :=
  let n := if u ≤ v.e then v.m * 2 ^ (v.e - u).toNat else v.m
  let d := if u ≤ v.e then v.d else v.d * 2 ^ (Nat.min (u - v.e).toNat (Nat.log2 v.m + 64))
  (n / d, n % d, d)

/-- One more is added to the floor `a` of an exact quotient with remainder `r` over `d` (R133); `odd` says that the
code of the floor has its lowest bit set. -/
def roundUp (rnd : BitVec 3) (draw : Nat) (neg : Bool) (odd : Bool) (r d : Nat) : Bool :=
  match rnd.toNat with
  | 0 => decide (d < 2 * r) || (decide (2 * r = d) && odd)
  | 1 => false
  | 2 => decide (0 < r) && !neg
  | 3 => decide (0 < r) && neg
  | 4 => decide (d ≤ 2 * r)
  | 5 => decide (2 ^ 23 ≤ r * 2 ^ 23 / d + draw)
  | _ => false

/-- SR is treated as RNE where no draw is taken (R135, R136). -/
def noSR (rnd : BitVec 3) : BitVec 3 := if rnd = 5 then 0 else rnd

/-- A format's rounding controls: RND, SAT. -/
structure Rc where
  rnd : BitVec 3
  sat : Bool
  deriving DecidableEq, Repr

/-- A value is tiny: rounded with an unbounded exponent range it lies below the smallest normal (R135). -/
def tiny (t : Ty) (rnd : BitVec 3) (neg : Bool) (v : Mag) : Bool :=
  let u := v.log2 - t.t
  let (a, r, d) := v.over u
  let odd := if t.t = 0 then decide ((u - t.emin) % 2 = 0) else decide (a % 2 = 1)
  let a' := if roundUp (noSR rnd) 0 neg odd r d then a + 1 else a
  decide (({ m := a', e := u } : Mag).log2 < t.emin)

/-- Overflow into a floating type (Table 6.7). -/
def overflow (t : Ty) (rc : Rc) (neg : Bool) : Cell × Flags :=
  if rc.sat || t.isE2M1 then (t.maxFin neg, fSA ||| fNX)
  else if t.hasInf then
    match rc.rnd.toNat, neg with
    | 1, _ => (t.maxFin neg, fOF ||| fNX)
    | 2, true => (t.maxFin true, fOF ||| fNX)
    | 3, false => (t.maxFin false, fOF ||| fNX)
    | _, _ => (t.infCode neg, fOF ||| fNX)
  else (t.nan, fOF ||| fNX)

/-- The integer a magnitude rounds to, with inexactness (R133 with u = 1). -/
def roundInt (rnd : BitVec 3) (draw : Nat) (neg : Bool) (v : Mag) : Int × Bool :=
  let (a, r, d) := v.over 0
  let a' := if roundUp rnd draw neg (decide (a % 2 = 1)) r d then a + 1 else a
  (if neg then -(a' : Int) else a', decide (0 < r))

/-- The code of an integer in the low-element form of its width (R246). -/
def intCode (w : Nat) (i : Int) : Cell := lowBits w (BitVec.ofInt 32 i)

/-- An integer limited to a range. -/
def clampInt (lo hi i : Int) : Int := if i < lo then lo else if hi < i then hi else i

/-- An exact non-zero magnitude of a sign rounded into a type (R133 to R135, R131). -/
def roundMag (t : Ty) (rc : Rc) (draw : Nat) (neg : Bool) (v : Mag) : Cell × Flags :=
  if t.isInt then
    let (i, nx) := roundInt rc.rnd draw neg v
    let c := clampInt t.lo t.hi i
    (intCode t.width c, if c = i then flagIf nx fNX else fSA ||| fNX)
  else if t.isB8U && neg then
    if rc.sat then (0, fSA ||| fNX) else (t.nan, fNV)
  else
    let u := max v.log2 t.emin - t.t
    let (a, r, d) := v.over u
    let base := ((u - (t.emin - t.t)).toNat) * 2 ^ t.t
    let a' := if roundUp rc.rnd draw neg (decide ((a + base) % 2 = 1)) r d then a + 1 else a
    let code := a' + base
    if t.maxCode < code then overflow t rc neg
    else
      let c : Cell := BitVec.ofNat 32 code
      (if neg && (!t.isB8S || decide (code ≠ 0)) then t.signBit ||| c else c,
        flagIf (decide (0 < r)) fNX ||| flagIf (decide (0 < r) && tiny t rc.rnd neg v) fUF)

/-- A zero of a sign in a type; a format that lacks -0 holds +0 (R134). -/
def zeroCode (t : Ty) (neg : Bool) : Cell :=
  if neg && !t.isInt && !t.isB8 then t.signBit else 0

/-- A value delivered into a type (R133, R134, Table 6.7). Reading a signalling NaN has raised its flag before. -/
def deliver (t : Ty) (rc : Rc) (draw : Nat) : Val → Cell × Flags
  | .nan _ => if t.isInt || t.isE2M1 then (0, fNV) else (t.nan, 0)
  | .inf neg =>
    if t.isInt then (intCode t.width (if neg then t.lo else t.hi), fSA)
    else if t.isE2M1 then (t.maxFin neg, fSA)
    else if t.isB8U && neg then (if rc.sat then (0, fSA) else (t.nan, fNV))
    else if t.hasInf then (t.infCode neg, 0)
    else if rc.sat then (t.maxFin neg, fSA)
    else (t.nan, fNV)
  | .fin neg m e => if m = 0 then (zeroCode t neg, 0) else roundMag t rc draw neg ⟨m, e, 1⟩

/-- An exact sum of two finite signed dyadics, as an integer over a power of two. -/
def addDy (a b : Int × Int) : Int × Int :=
  if a.1 = 0 then b else if b.1 = 0 then a
  else if a.2 ≤ b.2 then (a.1 + b.1 * (2 ^ (b.2 - a.2).toNat : Nat), a.2)
  else (a.1 * (2 ^ (a.2 - b.2).toNat : Nat) + b.1, b.2)

/-- The signed dyadic of a finite value. -/
def Val.dy : Val → Int × Int
  | .fin neg m e => (if neg then -(m : Int) else m, e)
  | _ => (0, 0)

/-- A product of two values; 0 times infinity is NaN and raises invalid (R142). -/
def Val.mul (a b : Val) : Val × Flags :=
  match a, b with
  | .nan _, _ => (.nan false, 0)
  | _, .nan _ => (.nan false, 0)
  | .inf n, .inf k => (.inf (n != k), 0)
  | .inf n, .fin k m _ => if m = 0 then (.nan false, fNV) else (.inf (n != k), 0)
  | .fin n m _, .inf k => if m = 0 then (.nan false, fNV) else (.inf (n != k), 0)
  | .fin n m e, .fin k m' e' => (.fin (n != k) (m * m') (e + e'), 0)

/-- A value scaled by a power of two, exactly. -/
def Val.scale (v : Val) (k : Int) : Val :=
  match v with
  | .fin n m e => .fin n m (e + k)
  | v => v

/-- An exact sum of values (R142), its zero signed by R127 under the mode. -/
def sumVals (rnd : BitVec 3) (ts : List Val) : Val × Flags :=
  if ts.any Val.isNan then
    (.nan false, flagIf (ts.any (fun v => v == .inf false) && ts.any (fun v => v == .inf true)) fNV)
  else if ts.any (fun v => v == .inf false) then
    if ts.any (fun v => v == .inf true) then (.nan false, fNV) else (.inf false, 0)
  else if ts.any (fun v => v == .inf true) then (.inf true, 0)
  else
    let s := ts.foldl (fun s v => addDy s v.dy) (0, 0)
    if s.1 = 0 then
      if ts.all Val.isZero && ts.all Val.neg? then (.zero true, 0)
      else if ts.all Val.isZero && ts.all (fun v => !v.neg?) then (.zero false, 0)
      else (.zero (decide (rnd = 3)), 0)
    else (.fin (decide (s.1 < 0)) s.1.natAbs s.2, 0)

/-- The old value and the products of one rank-k step summed and rounded once (R140, R142); a NaN among the terms
keeps the invalid flag of the products. -/
def sumRound (t : Ty) (rc : Rc) (draw : Nat) (ts : List Val) : Cell × Flags :=
  let (v, f) := sumVals rc.rnd ts
  let (c, g) := deliver t rc draw v
  (c, f ||| g)

/-- An exact integer delivered into INT32: modulo 2^32, or clamped under SAT with the saturated and inexact flags
(R140, R131). -/
def wrapOrClamp (sat : Bool) (i : Int) : Cell × Flags :=
  if sat then
    let c := clampInt tyINT32.lo tyINT32.hi i
    (BitVec.ofInt 32 c, flagIf (decide (c ≠ i)) (fSA ||| fNX))
  else (BitVec.ofInt 32 i, 0)

/-! ### Stochastic rounding (R136, R137) -/

def srG : Word := 0x9E3779B97F4A7C15
def srM : Word := 0x2545F4914F6CDD1D
/-- The advanced state of a row generator (R136). -/
def srAdvance (g : Word) : Word :=
  let g := g ^^^ (g >>> 12)
  let g := g ^^^ (g <<< 25)
  g ^^^ (g >>> 27)
/-- h of R136 for column j and element n, from an advanced state. -/
def srHash (g : Word) (j n : Nat) : Word := ((g * srM) ^^^ (BitVec.ofNat 64 (8 * j + n) * srG)) * srM
/-- draw(i, j, n) = h[63:41] (R136). -/
def srDraw (g : Word) (j n : Nat) : Nat := (srHash g j n).toNat / 2 ^ 41
/-- The state of row i after SEED v (R137). -/
def seedState (v : Word) (i : Nat) : Word :=
  let s := v + BitVec.ofNat 64 (i + 1) * srG
  if s = 0 then srG else s

/-! ### Quantisation and block scales (R138, R139, R132) -/

/-- A qs register: FP32 scale [31:0] and zero point [47:32] (R138, R158). -/
structure Qs where
  scale : Cell
  zp : BitVec 16
  deriving DecidableEq, Repr

/-- q of VQNT for one source (R138). -/
def quantise (t : Ty) (rnd : BitVec 3) (draw : Nat) (q : Qs) (x : Val) : Cell × Flags :=
  let z := q.zp.toInt
  let cl (i : Int) : Cell × Flags :=
    let c := clampInt t.lo t.hi i
    (intCode t.width c, flagIf (decide (c ≠ i)) (fQC ||| fNX))
  match x, tyFP32.val q.scale with
  | .fin n m e, .fin false sm se =>
    if sm = 0 then ((cl z).1, (cl z).2 ||| fNV)
    else if m = 0 then cl z
    else
      let (i, nx) := roundInt rnd draw n ⟨m, e - se, sm⟩
      let (c, f) := cl (i + z)
      (c, f ||| flagIf nx fNX)
  | .inf n, .fin false sm _ =>
    if sm = 0 then ((cl z).1, (cl z).2 ||| fNV)
    else (intCode t.width (if n then t.lo else t.hi), fQC)
  | _, _ => ((cl z).1, (cl z).2 ||| fNV)

/-- VDQNT of one code (R138): the exact product of the scale and q - z rounded into FP32; a NaN scale gives NaN with
invalid. R138 states nothing for an infinite scale: the model takes the product as R142 does, an infinity, or NaN with invalid where
q - z is 0 (log 115). -/
def dequantise (rc : Rc) (draw : Nat) (t : Ty) (q : Qs) (c : Cell) : Cell × Flags :=
  let i : Int := (match t.val c with | v => v.dy.1) - q.zp.toInt
  match tyFP32.val q.scale with
  | .nan _ => (tyFP32.nan, fNV)
  | s =>
    let (v, f) := s.mul (Val.ofInt i)
    let (r, g) := deliver tyFP32 rc draw v
    (r, f ||| g)

/-- emax of R139: the exponent of the largest finite value of a type. -/
def Ty.emax (t : Ty) : Int :=
  if t.isInt then (Nat.log2 t.hi.toNat : Int)
  else
    match t.magVal false t.maxCode with
    | .fin _ m e => (Nat.log2 m : Int) + e
    | _ => 0

/-- A magnitude order on finite values. -/
def Val.magLt (a b : Val) : Bool :=
  match a, b with
  | .fin _ m e, .fin _ m' e' => decide ((addDy ((m : Int), e) (-(m' : Int), e')).1 < 0)
  | _, _ => false

/-- The E8 code of a block of 32 (R139), with invalid for a NaN or an infinity. -/
def blockCode (t : Ty) (xs : List Val) : BitVec 8 × Flags :=
  if xs.any (fun v => match v with | .fin _ _ _ => false | _ => true) then (0xFF, fNV)
  else
    match xs.foldl (fun m v => if m.magLt v then v else m) (.zero false) with
    | .fin _ m e =>
      if m = 0 then (0, 0)
      else (BitVec.ofInt 8 (clampInt 0 254 ((Nat.log2 m : Int) + e - t.emax + 127)), 0)
    | _ => (0xFF, fNV)

/-- A block-scaled element rounded into a type, its overflow saturating whatever SAT holds (R139); SAT still settles a
negative source of B8U (Table 6.7). -/
def blockElem (t : Ty) (rc : Rc) (draw : Nat) (code : BitVec 8) (x : Val) : Cell × Flags :=
  if code = 0xFF then (t.nan, 0)
  else deliver t ⟨rc.rnd, if t.isB8U && x.neg? then rc.sat else true⟩ draw (x.scale (127 - (code.toNat : Int)))

/-! ### Comparison keys of FP32 codes -/

/-- An order key that ranks -0 below +0 (R143, R252). -/
def fpKey (c : Cell) : Int :=
  let m : Int := (c.toNat % 2 ^ 31 : Nat)
  if c.msb then -m - 1 else m
/-- An order key that ranks the zeros equal (R255). -/
def fpKey0 (c : Cell) : Int :=
  let m : Int := (c.toNat % 2 ^ 31 : Nat)
  if c.msb then -m else m
def fpNan (c : Cell) : Bool := (tyFP32.val c).isNan
def fpSig (c : Cell) : Flags := (tyFP32.val c).sigFlag

/-- VMIN and VMAX of FP32 codes (R252). -/
def fpMinMax (mx : Bool) (a b : Cell) : Cell × Flags :=
  let f := fpSig a ||| fpSig b
  let r :=
    if fpNan a then (if fpNan b then tyFP32.nan else b)
    else if fpNan b then a
    else if decide (fpKey a < fpKey b) = mx then b else a
  (r, f)

end Sys2Proof.Machine
end

