-- ==== Sys2Proof/Machine/State.lean ====
section
/-! DEFINITION. The state of one TL-NZ4 package as plain data, its faults and refusals, and the state after package
reset. The rule that names each piece stands in INVENTORY.md under State and in the docstrings here. -/

namespace Sys2Proof.Machine

/-! ### Memory -/

/-- A byte store: the listed bytes by address, strictly rising, none zero. An unlisted byte reads 0 (log 2). -/
abbrev Memory := List Host.Cell

/-- The canonical form of a byte store. -/
def Memory.wf : Memory → Bool
  | [] => true
  | [c] => decide (c.2 ≠ 0)
  | c :: d :: m => decide (c.2 ≠ 0) && decide (c.1 < d.1) && Memory.wf (d :: m)

/-! ### The access engine of a core -/

/-- A grid row of 64 cells (R12). -/
abbrev Row := Vector Cell 64

/-- The states of a core (Table 5.2); a core in trap handling also has its TRAP flag set. -/
inductive CoreSt | idle | run | rollback | replay | stopped | exited | failed
  deriving DecidableEq, Repr

/-- The side on which a slot is executed: the access engine checks and forwards an M or V slot, the grid engine
performs it. -/
inductive Side | access | grid
  deriving DecidableEq, Repr

/-- What a core waits for before its next packet can issue. -/
inductive Wait
  | settle                                     -- earlier fills and LDGs (R102, R105)
  | interlock                                  -- an interlocked result (R164)
  | queueEntry (q : BitVec 3)                  -- a free operand-queue entry (R211)
  | giqRoom                                    -- room in the grid instruction queue
  | vxfer (fwd : Nat)                          -- the grid issue of a VXFER's packet (R274)
  | flags                                      -- retirement before a CSRR of sr.flags (R146)
  | couch                                      -- the couch operations before a CSRR of sr.couch, sr.couchm (R121)
  | transfer                                   -- an outstanding VLD or VST (R217)
  | fwait (n : BitVec 8) (t : Word)            -- R201
  | barw (b : BitVec 4)                        -- R325
  | csync                                      -- R317
  | qfence (m : BitVec 6)                      -- R291
  | wfence                                     -- R292
  | engineQueue (q : BitVec 3)                 -- a full engine queue (R278)
  | tissue                                     -- eight issued records outstanding (R298)
  | texec                                      -- the record of a TEXEC (R297)
  | calender                                   -- an owned calender position (R223)
  | fence                                      -- R225
  | fault (seq : Nat)                          -- an unanswered fault record (R374)
  | hash (va bun : Word)                       -- a page being hashed, fetched for a bundle (R85)
  | migrateStop                                -- a stop for system software (R113)
  | route (va : Word)                          -- the destination of an address, to which no route exists (R387)
  deriving DecidableEq, Repr

/-- A register that an exposed result lands in (R164); shape carries the effects of SETSHAPE and SETTILE. -/
inductive Dst
  | x (r : BitVec 5)
  | k (r : BitVec 3)
  | fmt
  | shape
  deriving DecidableEq, Repr

/-- An exposed result: it lands when the issue count reaches `due` and, for a felt load in interlocked mode, the
cycle count reaches `arr` (R88, R91). -/
structure Exposed where
  dst : Dst
  val : Word
  due : Nat
  arr : Word
  deriving DecidableEq, Repr

/-- The width and extension of a load or store (Table 10.2). -/
structure LdW where
  bytes : Nat
  signed : Bool
  deriving DecidableEq, Repr

/-- The spaces of an address. -/
inductive Space | xb | wb | gb | dm
  deriving DecidableEq, Repr

/-- An outstanding LDG: destination, address, width, its place in the replay log and how many held stores are older
(R102, R209), its bundle, and its place among the core's device reads (R210). -/
structure Ldg where
  bun : Word
  ord : Nat
  d : BitVec 5
  va : Word
  w : LdW
  log : Nat
  older : Nat
  deriving DecidableEq, Repr

/-- A store held in the gate: a buffer address or, for STG, a physical address with its virtual address (R103), and its bundle. -/
structure Held where
  space : Space
  addr : Nat
  va : Word
  bun : Word
  data : List Byte
  deriving DecidableEq, Repr

/-- A precise trap to be taken (R403): code, value, the address sr.epc takes, and the bundle's address. -/
structure TrapReq where
  cause : BitVec 9
  tval : Word
  epc : Word
  addr : Word
  deriving DecidableEq, Repr

/-- A translation or access-right fault: address, detail of Table 17.6, kind of access, walk level reached, the entry
found (or the store data), and the access size (Table 17.4). -/
structure PageFault where
  va : Word
  detail : BitVec 4
  kind : AccKind
  level : Nat
  value : Word
  size : Nat
  deriving DecidableEq, Repr

/-- What became of a slot on the access side, other than its effect; `roll` is the fault of a read of the packet itself, which
rolls the core back (R106), with the read's bundle. -/
inductive SlotOut
  | none
  | trap (t : TrapReq)
  | fault (f : PageFault)
  | hold (w : Wait)
  | roll (f : PageFault) (bun : Word)
  deriving DecidableEq, Repr

/-- The shadow taken at a mark (R102). -/
structure Shadow where
  x : Vector Word 32
  k : Vector Word 8
  fmt : Word
  shp : Word
  pc : Word
  fwd : Nat
  fillN : Vector Nat 8
  inTrap : Bool
  deriving DecidableEq, Repr

/-- Control state, trap registers and waiting condition of a core (R97, R101, R403). `csyncAt`: the cluster cycle at which the CSYNC that the core
waits for completes; `stall`: cycles lost to a transfer (R153); `skip`: a store that FAULT_ANSWER completed, by
forward index and bundle address (R376). -/
structure Ctl where
  pc : Word
  st : CoreSt
  inTrap : Bool
  tvec : Word
  epc : Word
  cause : Word
  tval : Word
  wait : Option Wait
  pendTrap : Option TrapReq
  markNext : Bool
  csyncAt : Option Word
  stall : Nat
  skip : Option (Nat × Word)
  deriving DecidableEq, Repr

/-- The restart machinery (R102 to R108) and the exposed results. `issue` is the issue count, `fwd` the forward index
of the next packet; a log place without a value belongs to an LDG that has not returned. -/
structure Restart where
  issue : Nat
  pend : List Exposed
  ldgs : List Ldg
  gate : List Held
  log : List (Option Word)
  logPos : Nat
  fwd : Nat
  shadow : Shadow
  deriving DecidableEq, Repr

/-- An open window of SEND or RECV (R218, R219): local address, T, N, peer core, bundle address, and the bytes read
at the start of a region cycle. -/
structure Win where
  addr : Nat
  t : Nat
  n : Nat
  peer : BitVec 3
  bundle : Word
  latch : Option (Nat × List Byte)
  deriving DecidableEq, Repr

/-- The timed region of a core (R317 to R319): the cluster cycle at which it opened and its locked fetch lines. -/
structure Region where
  start : Option Word
  lockLo : Word
  lockHi : Word
  sends : List Win
  recvs : List Win
  deriving DecidableEq, Repr

/-- The translated source range of a fill (R113): its space, transposing or not, and the pieces with their lengths. -/
structure FillSrc where
  space : Space
  transpose : Bool
  pieces : List (Nat × Nat)
  deriving DecidableEq, Repr

/-- One entry of an operand queue (R211 to R214). `src` is the translated source range once settled; a fill from a buffer that
has not settled waits for a VST of its own packet (R217); `ord` is a device fill's place among the core's device reads
(R210); `ff` holds the count register of QFILLG.FF, the cells requested and the place of the count in the log. -/
structure QEntry where
  seq : Nat
  ord : Nat
  bun : Word
  va : Word
  ff : Option (BitVec 5 × Nat × Nat)
  settled : Bool
  data : Row
  src : FillSrc
  due : Nat
  present : Bool
  deriving DecidableEq, Repr

/-- An operand queue: entries oldest first, fill issue count, fill count F, pop count P (R108, R113). -/
structure OpQueue where
  entries : List QEntry
  fillN : Nat
  f : Nat
  p : Nat
  deriving DecidableEq, Repr

/-! ### The grid engine -/

/-- A write that an S slot forwards to the grid side (Table 5.5, bytes 32 to 41). -/
inductive SWrite
  | seed (v : Word)
  | flags (op : BitVec 2) (v : Word)
  | couch (op : BitVec 2) (v : Word)
  | couchm (op : BitVec 2) (v : Word)
  | kreg (i : BitVec 3) (v : Word)
  deriving DecidableEq, Repr

/-- A VLD or VST transfer of a packet (Table 5.5, bytes 44 to 51). -/
structure Xfer where
  row : BitVec 6
  st : Bool
  gb : Bool
  addr : Nat
  deriving DecidableEq, Repr

/-- A grid slot as forwarded: instruction, word and the literal of its bundle. -/
structure GSlot where
  instr : Instr
  word : Cell
  lit : Option Cell
  deriving DecidableEq, Repr

/-- A packet of the grid instruction queue (R115): forward index, address of its first bundle, carried fmt and shp,
forwarded S write, transfers, its M slot and V slots in program order, and the places of its VXFER values in the
replay log. -/
structure GridPkt where
  fwd : Nat
  addr : Word
  fmt : Word
  shp : Word
  sw : Option SWrite
  xfers : List Xfer
  m : Option GSlot
  v : List GSlot
  log : List Nat
  deriving DecidableEq, Repr

/-- A register of the grid side that a V slot writes. -/
inductive GReg
  | e (n : BitVec 3) (v : Vector Byte 64)
  | qs (n : BitVec 3) (v : Qs)
  | k (n : BitVec 3) (v : Word)
  deriving DecidableEq, Repr

/-- The work of an M slot of the rank-k family, done at its write cycle on the cells as they then stand (R232, R140):
target rectangle, types, popped entries, zero points, scale codes, and the advanced generator states. -/
structure RkWork where
  row0 : Nat
  rows : Nat
  cols : Nat
  ta : Ty
  tb : Ty
  td : Ty
  rc : Rc
  aEnt : List Row
  bEnt : List Row
  neg : Bool
  za : Int
  zb : Int
  scale : Option (Vector Byte 64 × Vector Byte 64)
  gens : List (Nat × Word)
  deriving DecidableEq, Repr

/-- The kind of a result in flight. -/
inductive FlKind | m | v | vld
  deriving DecidableEq, Repr

/-- An instruction in flight on the grid: its packet, write cycle, the rows and registers it writes, its flags, and
for a V slot its history entries (R110, R233, R249). -/
structure Flight where
  fwd : Nat
  kind : FlKind
  due : Nat
  rows : List (Nat × Row)
  rk : Option RkWork
  vld : Option Nat
  regs : List GReg
  flags : Flags
  histRows : List (Nat × Row × Bool × Bool × Word)
  histRegs : List GReg
  written : Bool
  deriving DecidableEq, Repr

/-- The program couch registers and the operation in progress (Table 5.4, R119, R120). -/
structure Couch where
  base : BitVec 8
  op : Bool
  next : Nat
  mask : Word
  active : Bool
  deriving DecidableEq, Repr

/-- Grid-side state of a core (R12, R158, R247, R251). `inflight` holds the flights of packets not yet retired, oldest
first; `pkts` the packets they belong to; a row is pending while a flight that has not written names it. -/
structure Grid where
  cells : Vector Row 64
  fdirty : BitVec 64
  gdirty : BitVec 64
  gens : Vector Word 64
  e : Vector (Vector Byte 64) 8
  qs : Vector Qs 8
  k : Vector Word 8
  flags : Flags
  couch : Couch
  giq : List GridPkt
  inflight : List Flight
  pkts : List GridPkt
  fwdCount : Nat
  cyc : Nat
  mFree : Nat
  v0Free : Nat
  v1Free : Nat
  sfFree : Nat
  queues : Vector OpQueue 8
  deriving DecidableEq, Repr

/-! ### Engine queues (13_async) -/

/-- An endpoint of a copy: a buffer address of this core, a buffer of a peer, or a device address. -/
structure EndPt where
  space : Space
  peer : Option CoreIx
  addr : Word
  deriving DecidableEq, Repr

/-- The operations of the engine queues (R281 to R290). -/
inductive EngOp
  | copy (dst src : EndPt) (rows : Nat) (len : Nat) (dstride sstride : Word)
  | stream (block : List Byte)
  | scatter (list : Word) (n : Nat) (base : Word)
  | rred (src : Word) (dest : Word) (n : Nat) (int : Bool) (scaled : Bool) (mask : Option Word)
  | qpush (entry : List Byte) (queue : Word)
  | cwait (n : BitVec 8) (t : Word)
  deriving DecidableEq, Repr

/-- One queued operation with its progress point, counted in chunks, indices or elements, the bytes read at its start,
a count of skipped indices, and for a copy the chunks of its current row from the progress point on, as they were read at the row's
start, where they could be (R278, R279, R281, R285). `order` is its place in the core's issue order, `fwd` the forward index of
its packet, whose own transfers it waits for (R217). -/
structure EngEntry where
  fwd : Nat
  op : EngOp
  started : Bool
  prog : Nat
  skipped : Nat
  faulted : Option Nat
  buf : List Byte
  ahead : List (Option (List Byte))
  order : Nat
  deriving DecidableEq, Repr

/-- An FSIG in the signal stage (R289). -/
structure Sig where
  n : BitVec 8
  v : Word
  scope : BitVec 3
  order : Nat
  deriving DecidableEq, Repr

/-- The macro sequencer of a core (R311, R312): its record, the id of the parent record (none for TEXEC), and the
progress word's fields. -/
structure Seqr where
  bytes : List Byte
  parent : Option Nat
  phase : BitVec 8
  sub : BitVec 16
  kblk : BitVec 32
  ready : Bool
  fault : Option Nat
  flags : Flags
  fwd : Nat
  sync : Bool
  deriving DecidableEq, Repr

/-- A line of the instruction cache (R152, R318): tag, number of the 64-byte line, and its bytes. -/
structure ILine where
  tag : Tag
  line : Nat
  data : List Byte
  deriving DecidableEq, Repr

/-- A cached translation (R358): tag, first virtual address, size in bytes, physical base, rights R, W, X, global
tag bit. -/
structure TlbEntry where
  tag : Tag
  va : Nat
  size : Nat
  pa : Nat
  r : Bool
  w : Bool
  x : Bool
  win : Option Nat
  deriving DecidableEq, Repr

/-! ### The slot being executed -/

/-- A slot of a packet: its bundle's address and header, its kind, its word and the bundle's literal; a bundle without a
slot counts as one null slot. -/
structure PSlot where
  bun : Word
  hdr : BitVec 16
  kind : Option SlotKind
  word : Cell
  lit : Option Cell
  deriving DecidableEq, Repr

/-- The packet that issues and the slot of it that executes. This is the model's own: it carries what the packet fixes
for its slots (addresses, word, literal), the transfer target and whether it costs a cycle, whether the next packet
takes an implicit mark, the held stores older than the packet, the bytes that a commit inside the packet replaced,
whether every fill and LDG before the packet had settled,
whether a slot of the packet took a calender position, whether a store of the packet follows a transfer of the packet that it meets, whether
the slot waits for a transfer of its own packet, whether the packet's grid side was forwarded before its last slots (log 136), what became of
the slot, and the grid packet that the packet forwards. -/
structure SlotCtx where
  side : Side
  pktAddr : Word
  bunAddr : Word
  nextAddr : Word
  hdr : BitVec 16
  word : Cell
  lit : Option Cell
  npc : Word
  lost : Bool
  markNext : Bool
  older : Nat
  undo : List (Space × Nat × Byte)
  settled : Bool
  scUsed : Bool
  behind : Bool
  early : Bool
  ahead : Bool
  out : SlotOut
  pkt : GridPkt
  deriving DecidableEq, Repr

/-- A packet that has performed some of its slots and waits at the next (log 136): the slots still to perform, those that perform
last, the slot context, and the results of the packet and of earlier ones that a lull keeps for it. -/
structure Part where
  slots : List PSlot
  late : List PSlot
  ctx : SlotCtx
  pend : List Exposed
  deriving DecidableEq, Repr

/-- One core (R12, R97). `lastCtx` is the context whose group last ran on it (R97); `part` a packet that waits with some of its slots
performed. -/
structure Core where
  ctl : Ctl
  x : Vector Word 32
  k : Vector Word 8
  fmt : Word
  shp : Word
  rs : Restart
  region : Region
  grid : Grid
  xb : Memory
  wb : Memory
  gb : Memory
  xbCap : Nat
  wbCap : Nat
  gbCap : Nat
  eng : Vector (List EngEntry) 6
  sigs : List Sig
  order : Nat
  tissued : List Nat
  seqr : Option Seqr
  part : Option Part
  icache : List ILine
  utlb : List TlbEntry
  substituted : Bool
  grp : Option Nat
  lastCtx : Nat
  deriving DecidableEq, Repr

/-! ### Groups (05_group) -/

/-- The states of a group (Table 5.1). -/
inductive GrpSt | pending | restoring | resident | lulling | saved | ended
  deriving DecidableEq, Repr

/-- The run mode of a kernel (R90 to R92). -/
inductive RunMode | native | interlocked | feltTimed
  deriving DecidableEq, Repr

/-- What a group's dispatch fixes for its cores: code range, extents, run mode, barrier mask, feature mask, initial
formats (R80, R83, R97, R177). -/
structure GEnv where
  codeVa : Word
  codeLen : Nat
  entry : Word
  xbext : Nat
  wbext : Nat
  gbext : Nat
  mode : RunMode
  bmask : BitVec 16
  fmask : BitVec 6
  fmt0 : BitVec 32
  shp0 : Word
  deriving DecidableEq, Repr

/-- The barrier state of a group (R324): completed phases, arrivals (identifier, rank), waits (rank, identifier, phase
count at the wait's start), and whether it is broken (R327). -/
structure Barrier where
  p : Vector (BitVec 32) 16
  arr : List (BitVec 4 × Nat)
  w : List (Nat × BitVec 4 × BitVec 32)
  broken : Bool
  deriving DecidableEq, Repr

/-- What is kept of a saved core beside its frame: frame slot, kept engine operations, sequencer and outstanding
TISSUEs (R114, R278, R312), the places of the log that have no value yet, the literals of the slots of each packet of the grid-queue image (log 60), the virtual addresses of
the kept fills of each queue (log 14), the packet that
waits part way (log 136), and the trap registers of a core that has exited (R407). -/
structure SavedCore where
  slot : Nat
  logOpen : List Nat
  lits : List (List (Option Cell))
  fills : List (List Word)
  eng : Vector (List EngEntry) 6
  sigs : List Sig
  order : Nat
  tissued : List Nat
  seqr : Option Seqr
  part : Option Part
  trap : Option (Word × Word × Word × Word)
  deriving DecidableEq, Repr

/-- A save or restore in progress on one core: the progress register of the couch engine (rows below 64, then image bytes
from 64 upward), the frame row mask, and an unanswered fault (R116). -/
structure SaveProg where
  rank : Nat
  next : Nat
  mask : Word
  fault : Option Nat
  deriving DecidableEq, Repr

/-- A group: the entry that launched it, its index among `count`, its cores in rank order while it holds them, its
frame slots, barrier state and saved state (R99, R114, R324, R77, R408). A tile group names its record. `lost`: cores that failed
while it was being lulled, whose substitution it awaits (R18, Table 5.1). -/
structure Group where
  id : Nat
  ctx : Nat
  kslot : Nat
  handle : BitVec 32
  queue : Nat
  seq : Nat
  index : Nat
  count : Nat
  n : Nat
  st : GrpSt
  started : Bool
  cores : List CoreIx
  slots : List Nat
  param : Word
  plen : Nat
  env : GEnv
  bar : Barrier
  die : BitVec 2
  order : Nat
  prio : BitVec 3
  passed : Bool
  saved : List SavedCore
  prog : List SaveProg
  faults : Nat
  lullReq : Bool
  tile : Option Nat
  lost : List CoreIx
  deriving DecidableEq, Repr

/-! ### Contexts, queues and kernels (02, 03, 04) -/

/-- The states of a context (Table 2.2). -/
inductive CtxSt | free | configured | ready | lulled | frozen | migrating | importing | resetting
  deriving DecidableEq, Repr

/-- The descriptor of a context without its tag (Table 2.1). The budgets are twelve counts: port A then B, the classes
read, write and translation, the minimum then the cap. -/
structure Desc where
  part : BitVec 8
  flags : BitVec 8
  fmask : BitVec 32
  sroot : Word
  qmax : BitVec 16
  pmax : BitVec 8
  slice : BitVec 32
  svfloor : Word
  budget : List (BitVec 32)
  evhost : BitVec 128
  deriving DecidableEq, Repr

/-- The states of a queue (Table 3.3). -/
inductive QSt | closed | empty | active | blocked | error | draining | held
  deriving DecidableEq, Repr

/-- A dispatched entry that is not complete: sequence, bytes, the dispatch order of its LAUNCH (0 for another type), held as faulted
(R70, R71). -/
structure InFlight where
  seq : Nat
  bytes : List Byte
  launch : Nat
  faulted : Bool
  deriving DecidableEq, Repr

/-- A queue record with its ring (R61, R62): appended, dispatched, completed and consumed counts, the translated ring by pages, the entries
accepted whose slot refuses the write so far (log 123),
entries in flight, the open join of a QFENCE, the counts recorded when the present head arrived, should it be a QFENCE (R74), and
whether that head has passed its check (R87). -/
structure QRec where
  st : QSt
  heldFrom : QSt
  event : Bool
  prio : BitVec 3
  a : Nat
  d : Nat
  c : Nat
  consumed : Nat
  errCode : BitVec 8
  errSeq : Nat
  errHead : Bool
  overflow : Nat
  ring : Word
  s : Nat
  home : BitVec 2
  ringPa : List (Option Nat)
  kept : List (Nat × List Byte)
  inflight : List InFlight
  join : List (Nat × Nat)
  head : Option (List (Nat × Nat))
  headOk : Bool
  deriving DecidableEq, Repr

/-- A code-signing key slot (R81). -/
structure CodeKey where
  key : BitVec 384
  mask : BitVec 64
  deriving DecidableEq, Repr

/-- The states of a kernel slot (Table 4.4). -/
inductive KSt | absent | loading | loaded | active | unloading | failed
  deriving DecidableEq, Repr

/-- A sealed page of placed code with its digest; unverified after a change of its mapping (R84, R85). -/
structure SealedPage where
  va : Word
  digest : BitVec 256
  frame : Nat
  verified : Bool
  deriving DecidableEq, Repr

/-- A kernel slot (R83 to R90): header values a LAUNCH needs, code range, run mode, counts of the loader. `load` is the image of a load in
progress, with the code-signing keys as they stood when it began (R81). -/
structure KRec where
  st : KSt
  handle : BitVec 32
  header : List Byte
  codeVa : Word
  range : Nat
  placed : Nat
  entry : Nat
  mode : RunMode
  hoisted : Nat
  padded : Nat
  active : Nat
  pages : List SealedPage
  cmd : Option CmdHdr
  load : Option (Word × BitVec 32 × Vector (Option CodeKey) 16)
  deriving DecidableEq, Repr

/-- A host window of a context (R397). -/
structure HWin where
  base : Word
  len : Word
  port : EthPort
  flow : BitVec 10
  hbase : Word
  deriving DecidableEq, Repr

/-- A 64-byte event record waiting to be delivered (R59, R78). -/
structure Event where
  code : BitVec 16
  tag : Tag
  seq : Word
  data : List Byte
  deriving DecidableEq, Repr

/-- A command that is executing over several events (R37). -/
inductive CmdNow
  | lull (h : CmdHdr)
  | reset (hs : List CmdHdr) (step : Nat)
  | destroy (h : CmdHdr) (release : Bool)
  deriving DecidableEq, Repr

/-- The management commands with their operands (Tables 2.3, 3.1, 4.3, 17.2, 18.6, 20.3, 26.3); a code that no table defines is
`unknown`. -/
inductive Cmd
  | ctxCreate
  | ctxWrite (image : List Byte)
  | ctxRead
  | ctxBind
  | ctxLull
  | ctxThaw
  | ctxReset
  | ctxDestroy
  | ctxMigrate
  | ctxMigrateAbort
  | ctxDirty (first : BitVec 64) (count : BitVec 32)
  | ctxExport (handle : BitVec 8)
  | ctxImport (handle : BitVec 8)
  | ctxRelease
  | mkeySet (handle : BitVec 8) (key : BitVec 256) (buf len : Word) (part : BitVec 8) (sroot : Word)
  | winGrant (base len : Word) (peer : Tag)
  | winAccept (handle : BitVec 32) (base : Word)
  | winRevoke (handle : BitVec 32)
  | queueOpen (queue : BitVec 16) (kind : BitVec 8) (ring : Word) (s prio home : BitVec 8)
  | queueClose (queue : BitVec 16)
  | queueSetprio (queue : BitVec 16) (prio : BitVec 8)
  | queueResume (queue : BitVec 16) (mode : BitVec 8)
  | queueRead (queue : BitVec 16)
  | queueConsume (queue : BitVec 16) (count : Word)
  | fcRead (first count : BitVec 16)
  | kernelLoad (image : Word) (len : BitVec 32) (code range : Word)
  | kernelUnload (handle : BitVec 32)
  | kernelQuery (handle : BitVec 32)
  | codekeySet (slot : BitVec 8) (key : BitVec 384) (mask : BitVec 64)
  | pageBind (pa : Word) (count : BitVec 32) (tag : Tag)
  | pageUnbind (pa : Word) (count : BitVec 32)
  | pageRetire (pa : Word) (count : BitVec 32)
  | pageQuery (pa : Word)
  | tlbInval (tag : Tag) (va len : Word)
  | faultRing (pa : Word) (s : BitVec 8)
  | faultAnswer (seq : Word) (act : AnswerAct)
  | pageExport (handle : BitVec 8) (tag : Tag) (pa : Word) (count : BitVec 32) (out : Word)
  | pageImport (handle : BitVec 8) (pa blob : Word)
  | flowOpen (port : EthPort) (flow : BitVec 16) (tag : Tag) (ip : BitVec 128) (udp : BitVec 16) (key : BitVec 256)
  | flowClose (port : EthPort) (flow : BitVec 16)
  | hwinSet (win : BitVec 8) (base len : Word) (port : EthPort) (flow : BitVec 16) (hbase : Word)
  | spanSet (mask : BitVec 64) (tags : List Tag)
  | linkQuery (l : LinkId)
  | linkRetire (l : LinkId)
  | spanGen (member : BitVec 8) (tag : Tag)
  | fwLoad (image : Word) (len : BitVec 32)
  | fwCommit (component value : BitVec 8)
  | capRead
  | powerSet (kind index : BitVec 8) (mw : BitVec 32)
  | unknown (code : BitVec 8)
  deriving DecidableEq, Repr

/-- A host message as it is applied (Table 18.5), without its header. -/
inductive InMsg
  | append (queue : BitVec 16) (entries : List (List Byte))
  | read (va : Word) (len id : BitVec 32)
  | write (va : Word) (id : BitVec 32) (data : List Byte)
  | xlate (va : Word) (pages : BitVec 16) (watch : Bool)
  | readData (id : BitVec 32) (status : BitVec 8) (off : BitVec 24) (data : List Byte)
  | writeDone (id : BitVec 32) (status : BitVec 8)
  | cmd (h : CmdHdr) (c : Cmd)
  | malformed (bytes : Nat)
  deriving DecidableEq, Repr

/-- A context (R32 to R60). `key` numbers the context key that the key unit generated last (R41), `gens` counts its
generations since boot (R33), `cmdQ` holds the commands that wait for the one in progress (R37), `imported` the frames of saved
cores that CTX_IMPORT has brought, by frame slot, until couch restore reads them (R58). -/
structure Ctx where
  gen : BitVec 9
  gens : Nat
  st : CtxSt
  lulledMig : Bool
  exported : Bool
  bound : Bool
  desc : Desc
  key : Nat
  fc : Vector Word 256
  queues : Vector QRec 64
  kernels : Vector KRec 64
  loadCount : BitVec 26
  evSeq : Word
  events : List Event
  tissues : BitVec 48
  spanMask : BitVec 64
  spanTags : List (Nat × Tag)
  hwins : Vector (Option HWin) 16
  watches : List (Word × Nat × EthPort × BitVec 10)
  tracking : Bool
  cmd : Option CmdNow
  cmdQ : List (CmdHdr × Cmd)
  coresUsed : BitVec 512
  importSeq : Nat
  imageSeq : Nat
  finalMap : List Nat
  finalDone : List Nat
  imported : List (Nat × Memory)
  lastServed : Vector Nat 8
  deriving DecidableEq, Repr

/-- A shared window (R44 to R47). -/
structure Window where
  handle : BitVec 32
  owner : Nat
  base : Word
  len : Word
  peer : Tag
  peerBase : Option Word
  key : Nat
  revoking : Bool
  deriving DecidableEq, Repr

/-- A partition (R38, R39, R40, R75): cores, the cores it was configured with, weights, crossbar pairs, their number as configured, the
active context. A retirement takes cores out of `mask` and not out of `conf`. -/
structure Partition where
  mask : BitVec 512
  conf : BitVec 512
  weights : List Nat
  xbar : List (CoreIx × CoreIx)
  configured : Nat
  active : Option Nat
  deriving DecidableEq, Repr

/-! ### Frames and translation (17_page) -/

/-- The states of a frame (Table 17.3). -/
inductive FrameSt | free | bound | window | tracked | scrubbing | retired
  deriving DecidableEq, Repr

/-- A frame table entry (R362, R363, R373). A frame not listed is FREE. -/
structure Frame where
  no : Nat
  st : FrameSt
  toBound : Bool
  owner : Nat
  dirty : Bool
  win : Option (BitVec 32)
  deriving DecidableEq, Repr

/-- The key under which a tree unit's counters stand (R364). -/
inductive UnitOwner
  | none
  | ctx (t : Tag)
  deriving DecidableEq, Repr

/-- A tree unit (R364, R367): its root entry, which is the owner, the root counter and the walk slot that serves it, and the counters of its
nodes, keyed by level and child (0 to 511 blocks, 512 to 575 level-1 nodes, 576 to 583 level-2 nodes); a counter not listed is 0. -/
structure TreeUnit where
  no : Nat
  owner : UnitOwner
  root : Word
  slot : Option Nat
  ctrs : List (Nat × Word)
  deriving DecidableEq, Repr

/-- A counter block (R365): major counter and the minors that are not 0x7F, by line. -/
structure CtrBlock where
  no : Nat
  major : BitVec 57
  minors : List (Nat × BitVec 7)
  deriving DecidableEq, Repr

/-- The walk of one unit (R369 to R371): its blocks pending, in increasing index, and in progress, and those among them that a scrub takes to
major + 1, where a re-key writes major 0. -/
structure Walk where
  unit : Nat
  pending : List Nat
  busy : List Nat
  scrub : List Nat
  deriving DecidableEq, Repr

/-- What a memory-side cache holds together (R21, R367): the lines of a counter block with the block itself, or the nodes of a unit. -/
inductive CacheKey
  | lines (block : Nat)
  | nodes (unit : Nat)
  deriving DecidableEq, Repr

/-- Parts of it that have not been written back: of a counter block the lines 0 to 63 and at 64 the block; of a unit the nodes of level 1
at 0 to 63, of level 2 at 64 to 71, at 72 the top. A clean part says nothing that HBM4 does not. -/
structure Cached where
  key : CacheKey
  dirty : BitVec 73
  deriving DecidableEq, Repr

/-- A fault record not yet answered, with the agent that waits for it and its Where field (R374 to R376). -/
structure FaultRec where
  seq : Nat
  ctx : Nat
  agent : BitVec 8
  core : CoreIx
  detail : BitVec 4
  va : Word
  stg : Option (Nat × Word)
  group : Option Nat
  tile : Option Nat
  queue : Option Nat
  whr : Word := 0
  deriving DecidableEq, Repr

/-! ### Links, flows and messages (18_link) -/

/-- The states of a link (Table 18.3). -/
inductive LinkSt | reset | training | up | degraded | detour | down | retired
  deriving DecidableEq, Repr

/-- One end of a link (R380 to R385): the retry buffer, link sequences, the flit resent last with its resends in a row, class 2
held during a change of route with the class 2 flits sent before it, the flits that wait at the end, and the log of what the end sends: flits, and
the sequences of negative acknowledgements. -/
structure LinkRec where
  st : LinkSt
  lanes : Nat
  badLanes : List Nat
  attempts : Nat
  retry : List Flit
  txSeq : BitVec 16
  rxSeq : BitVec 16
  crcErrors : Nat
  retries : Nat
  again : Option (BitVec 16 × Nat)
  held2 : Bool
  before2 : List Flit
  waiting : List Flit
  sent : List Flit
  naks : List (BitVec 16)
  deriving DecidableEq, Repr

/-- A message that the device sends (Table 18.5); a completion carries its results whole, with the parts of R390
formed when it is sent. -/
inductive Msg
  | ack
  | appendDone (status : BitVec 8) (first : BitVec 48)
  | readReq (hva : Word) (len : Nat) (id : BitVec 32)
  | readData (id : BitVec 32) (status : BitVec 8) (off : Nat) (data : List Byte)
  | writeReq (hva : Word) (id : BitVec 32) (data : List Byte)
  | writeDone (id : BitVec 32) (status : BitVec 8) (off : Nat)
  | xlateResp (va : Word) (pages : List Byte)
  | xnote (va : Word) (pages : Nat)
  | cmdDone (code ctx status detail : BitVec 8) (id : BitVec 32) (off : Nat) (last : Bool) (results : List Byte)
  | event (record : List Byte)
  deriving DecidableEq, Repr

/-- A message on a flow with its sequence; the log of everything sent (R389). -/
structure OutMsg where
  port : EthPort
  flow : BitVec 10
  seq : Nat
  tag : Tag
  ack : Nat
  sack : BitVec 64
  msg : Msg
  deriving DecidableEq, Repr

/-- A message that waits for its budget at the device (R400), with the parts that follow it in sequence (R390); it takes its sequence as it
leaves. -/
structure WaitMsg where
  port : EthPort
  flow : BitVec 10
  msg : Msg
  rest : List Msg
  deriving DecidableEq, Repr

/-- An open flow (R388, R392, R393): the next sequence to send, the next expected, arrivals held past a gap, messages
received in order that wait for their budget (R49), messages sent and not acknowledged, those of them that SACK covers, retransmissions of the oldest, messages
received since the last acknowledgement, ACKs sent, FLOW_RENEW sent. -/
structure Flow where
  port : EthPort
  no : BitVec 10
  ctx : Nat
  ip : BitVec 128
  udp : BitVec 16
  key : BitVec 256
  tx : Nat
  rx : Nat
  held : List (Nat × Hdr × InMsg)
  inq : List (Hdr × InMsg)
  unacked : List OutMsg
  sacked : List Nat
  retries : Nat
  pendAck : Nat
  acks : Nat
  renewed : Bool
  deriving DecidableEq, Repr

/-- The addresses of an Ethernet port (R378). -/
structure EthAddr where
  mac : BitVec 48
  ip6 : BitVec 128
  ip4 : BitVec 32
  deriving DecidableEq, Repr

def EthAddr.none : EthAddr := { mac := 0, ip6 := 0, ip4 := 0 }

/-- An Ethernet port's budgets (R48 to R51) and counters (R391): used bytes by context and class, the budgets in force by
context (minimum and cap of each class), the capacity C under which minima are enforced and those that apply from a later boundary (the
boundaries to go, C), the factor, and the context served last in each direction and class (R49: 3 × direction + class). -/
structure Port where
  used : List (Nat × Vector Nat 3)
  minima : List (Nat × List Nat)
  cap : Nat
  capNext : List (Nat × Nat)
  turns : Vector Nat 6
  factor : BitVec 17
  errors : Nat
  mtu : Nat
  addr : EthAddr
  deriving DecidableEq, Repr

/-- A device request to a host window that awaits its reply (R397): the data read, performed, or failed. A write performs as the ACK that
covers its message arrives. -/
structure HostReq where
  id : BitVec 32
  core : CoreIx
  queue : BitVec 3
  write : Bool
  port : EthPort
  flow : BitVec 10
  got : Option (List Byte)
  done : Bool
  failed : Bool
  deriving DecidableEq, Repr

/-! ### Tile directors (14_tile_levels) -/

/-- The level of a director (Table 14.1). -/
inductive Level
  | span
  | package
  | die (d : BitVec 2)
  | cluster (c : ClusterIx)
  | core (c : CoreIx)
  deriving DecidableEq, Repr

/-- Where a record came from: a queue entry, a TISSUE of a group's core with its bundle, or a parent record. -/
inductive TileSrc
  | entry (ctx queue seq : Nat)
  | tissue (ctx : Nat) (group : Nat) (core : CoreIx) (bundle : Word)
  | parent (id : Nat)
  deriving DecidableEq, Repr

/-- The states of a record at its director (R300, R316). -/
inductive TileSt | waiting | accepted | staging | released | faulted | failed | complete
  deriving DecidableEq, Repr

/-- A record held by a director: level, source, bytes, the child's place, chunks staged, the image copy under way with its bytes done,
fault record held with its number, retries, the group that runs it with the cause and core of its loss, the next block to give out,
and the blocks given to it (R300 to R316). -/
structure TileNode where
  id : Nat
  level : Level
  ctx : Nat
  src : TileSrc
  bytes : List Byte
  child : Nat
  st : TileSt
  staged : Nat
  copy : Nat × Nat
  fault : Option (List Byte × Option PageFault)
  answer : Option Nat
  retries : Nat
  group : Option Nat
  lost : Option (Nat × Nat)
  next : Nat
  blocks : List Nat
  deriving DecidableEq, Repr

/-- What a transfer image holds of a context (R58): descriptor, counters, queues with their unserved entries, saved groups with
their barriers, engine operations and sequencers, their frames by slot, tile records, kernels, the final bitmap, the source
tag. -/
structure XImage where
  desc : Desc
  fc : Vector Word 256
  queues : List QRec
  unserved : List (Nat × Nat × List Byte)
  groups : List Group
  frames : List (Nat × Memory)
  tiles : List TileNode
  kernels : List KRec
  loadCount : BitVec 26
  final : List Nat
  source : Tag
  deriving DecidableEq, Repr

/-! ### Firmware, fuses, power (20_bringup) -/

/-- A firmware image that passed its checks: component, version, key index (R413). -/
structure FwImage where
  component : Nat
  version : Nat
  key : Nat
  bytes : List Byte
  deriving DecidableEq, Repr

/-- A migration transport handle (R453). -/
structure MKey where
  key : BitVec 256
  buf : Word
  len : Word
  part : BitVec 8
  sroot : Word
  seq : Nat
  deriving DecidableEq, Repr

/-- Boot, fuses, firmware and power (R412 to R420). `commit` is the FW_COMMIT in progress: counter and goal. -/
structure Boot where
  booted : Bool
  halted : Bool
  statusOk : Bool
  slotA : Vector (Option FwImage) 6
  slotB : Vector (Option FwImage) 6
  newest : Vector (Option Bool) 6
  bootB : Bool
  running : Vector (Option FwImage) 6
  fuses : Vector Word 8
  feltOff : BitVec 4
  capGen : Word
  limits : List (Nat × Nat × Nat)
  lowest : List (Nat × Nat)
  commit : Option (CmdHdr × Nat × Nat)
  flow0 : Option (BitVec 128 × BitVec 16 × BitVec 256)
  addrs : Vector EthAddr 2
  deriving DecidableEq, Repr

/-- Per die (R17, R20, R24, R358, R369, R387). `unreach` marks the dies to which its requests have waited 100 ms. -/
structure Die where
  felt : Bool
  lost : Bool
  spares : Vector Bool 8
  hbmUnits : Nat
  reserve : Vector Bool 3
  retired : Nat
  ltlb : List TlbEntry
  walkc : List (Tag × Nat × Nat)
  stlb : Vector (List TlbEntry) 12
  walks : List Walk
  waitWalks : List Walk
  walkCmds : List (CmdHdr × Nat × List Nat)
  freeKey : Nat
  unreach : BitVec 4
  deriving DecidableEq, Repr

/-- Per cluster (R15, R17, R420): cycle counter, clock and pending clock in MHz, retired. -/
structure Cluster where
  ccyc : Word
  mhz : Nat
  pendMhz : Option Nat
  retired : Bool
  deriving DecidableEq, Repr

/-! ### What is due -/

/-- What the machine itself does next (log 4): the events that the step raises, named as their rows of the opcode table, the blow of a fuse bit (R415), the gathering of
what is due at the core whose turn comes once the package's own events have been performed, and an input from outside. -/
inductive Due
  | exposedResultWrite (c : CoreIx)
  | ldgReturn (c : CoreIx)
  | fillSettle (c : CoreIx) (q : BitVec 3)
  | fillDelivery (c : CoreIx) (q : BitVec 3)
  | trapEntry (c : CoreIx)
  | gridIssue (c : CoreIx)
  | mWriteCycle (c : CoreIx)
  | vWriteCycle (c : CoreIx)
  | vldWrite (c : CoreIx)
  | operandStarvation (c : CoreIx)
  | srFlagsWrite (c : CoreIx)
  | srCouchmWrite (c : CoreIx)
  | couchSave (c : CoreIx)
  | couchRestore (c : CoreIx)
  | calenderPosition (c : CoreIx)
  | fenceDone (c : CoreIx)
  | fwaitPass (c : CoreIx)
  | cwaitPass (c : CoreIx) (q : BitVec 2)
  | barrierRelease (g : Nat) (b : BitVec 4)
  | instructionFetch (c : CoreIx)
  | qfenceDone (c : CoreIx)
  | wfenceDone (c : CoreIx)
  | regionLimit (c : CoreIx)
  | chunkTransfer (c : CoreIx)
  | engineOpStart (c : CoreIx) (q : BitVec 3)
  | engineOpPerformed (c : CoreIx) (q : BitVec 3)
  | fsigPerform (c : CoreIx)
  | qpushAppend (c : CoreIx)
  | scatterTrainApply (c : CoreIx)
  | rredApply (c : CoreIx)
  | macroSequencerRun (c : CoreIx)
  | pageHash (ctx : CtxNo) (va : Word)
  | groupLull (g : Nat)
  | saveDone (g : Nat)
  | restoreDone (g : Nat)
  | groupPlacement (die : BitVec 2)
  | groupEnd (g : Nat)
  | walkStart (die : BitVec 2)
  | counterBlockRewrite (die : BitVec 2) (unit : Nat)
  | tileRecordAccept (id : Nat)
  | stagingCopyDone (cl : ClusterIx)
  | tileRecordComplete (id : Nat)
  | tileFaultRecord (id : Nat)
  | resetDrainDone (ctx : CtxNo)
  | kernelLoadChecksDone (ctx : CtxNo) (slot : BitVec 6)
  | fuseBlow
  | coreDue
  | input (i : Instr)
  deriving DecidableEq, Repr

/-- One package (R10, R12). `cur` is the core whose access engine the step serves, `agenda` the events that are due, `inputs` what the
outside does next, in order (messages, timers, power, failures: log 4), `saveWrite` the system context's write of sr.savebase that is under way (R114, log 48),
`free` the counter behind the free values (log 3), `partStatus` the status (Table 2.4) of the last partition-table write (R39), `errCounts` the corrected errors by unit and detail (R409), `refused` the held stores that their home has refused and whose records are still to be written (R363, log 132), `errSent`
the units that have reported in the current millisecond, `waitOut` the messages that wait for their budget (R400), `routes` the route sequences accepted and `routeTx` those sent (R381), `unreachPkg` the packages to which requests have waited 100 ms (R387), `flitHeld` flits that wait
for an earlier one of their route, `delivered` the flits accepted, in order. -/
structure State where
  cur : CoreIx
  agenda : List Due
  inputs : List Instr
  slot : SlotCtx
  free : Nat
  wheel : Nat
  pkg : BitVec 6
  cores : Vector Core 512
  clusters : Vector Cluster 64
  dies : Vector Die 4
  ctxs : Vector Ctx 65
  parts : Vector (Option Partition) 64
  partStatus : BitVec 8
  groups : List Group
  nextGroup : Nat
  dispatched : Nat
  savebase : Word
  saveWrite : Option Word
  slotsUsed : List (Nat × Nat)
  mem : Memory
  frames : List Frame
  units : List TreeUnit
  blocks : List CtrBlock
  caches : Vector (List Cached) 4
  windows : List Window
  winCount : Nat
  keyCount : Nat
  ring : Option (Nat × Nat)
  faults : List FaultRec
  faultCount : Nat
  faultWait : List (FaultRec × List Byte)
  refused : List (FaultRec × PageFault)
  flows : List Flow
  ports : Vector Port 2
  links : Vector LinkRec 20
  routes : List (Nat × Nat)
  routeTx : List (Nat × Nat)
  unreachPkg : BitVec 64
  flitHeld : List Flit
  delivered : List Flit
  hostReqs : List HostReq
  reqCount : Nat
  out : List OutMsg
  waitOut : List WaitMsg
  tiles : List TileNode
  tileCount : Nat
  codekeys : Vector (Option CodeKey) 16
  mkeys : Vector (Option MKey) 8
  boot : Boot
  errCounts : List (Nat × Nat × Nat)
  errSent : List Nat
  deriving DecidableEq, Repr

/-- Why the model stops. -/
inductive Fault where
  /-- Raised by the step when the package is halted: both firmware slots failed their checks (R412), or a die reached
  115 °C and the package is held in reset (R420). Nothing runs until power is applied again. Safe: the machine does
  nothing either. -/
  | halted
  deriving DecidableEq, Repr

/-- Why an instruction has no meaning. -/
inductive Refusal where
  /-- Raised by an arm whose instruction has no meaning yet, by its mnemonic. Safe: nothing can be proved of it. -/
  | notModelled (mnemonic : String)
  deriving DecidableEq, Repr

/-! ### Reset -/

/-- shp at 64 rows, 64 columns, row 0 (R161). -/
def shpDefault : Word := 0x4040

def QRec.closed : QRec :=
  { st := .closed, heldFrom := .closed, event := false, prio := 0, a := 0, d := 0, c := 0, consumed := 0, errCode := 0
    errSeq := 0, errHead := false, overflow := 0, ring := 0, s := 0, home := 0, ringPa := [], kept := [], inflight := [], join := []
    head := none, headOk := false }

def KRec.absent : KRec :=
  { st := .absent, handle := 0, header := [], codeVa := 0, range := 0, placed := 0, entry := 0, mode := .native
    hoisted := 0, padded := 0, active := 0, pages := [], cmd := none, load := none }

def Desc.zero : Desc :=
  { part := 0, flags := 0, fmask := 0, sroot := 0, qmax := 0, pmax := 0, slice := 0, svfloor := 0
    budget := List.replicate 12 0, evhost := 0 }

def Ctx.free : Ctx :=
  { gen := 0, gens := 0, st := .free, lulledMig := false, exported := false, bound := false, desc := Desc.zero, key := 0
    fc := Vector.replicate 256 0, queues := Vector.replicate 64 QRec.closed
    kernels := Vector.replicate 64 KRec.absent, loadCount := 0, evSeq := 0, events := [], tissues := 0
    spanMask := 0, spanTags := [], hwins := Vector.replicate 16 none, watches := [], tracking := false, cmd := none, cmdQ := []
    coresUsed := 0, importSeq := 0, imageSeq := 0, finalMap := [], finalDone := [], imported := []
    lastServed := Vector.replicate 8 63 }

def Shadow.zero : Shadow :=
  { x := Vector.replicate 32 0, k := Vector.replicate 8 0, fmt := 0, shp := shpDefault, pc := 0, fwd := 0
    fillN := Vector.replicate 8 0, inTrap := false }

def Ctl.reset : Ctl :=
  { pc := 0, st := .idle, inTrap := false, tvec := 0, epc := 0, cause := 0, tval := 0, wait := none, pendTrap := none
    markNext := false, csyncAt := none, stall := 0, skip := none }

def Restart.reset : Restart :=
  { issue := 0, pend := [], ldgs := [], gate := [], log := [], logPos := 0, fwd := 0, shadow := Shadow.zero }

def Region.none : Region := { start := Option.none, lockLo := 0, lockHi := 0, sends := [], recvs := [] }

def OpQueue.empty : OpQueue := { entries := [], fillN := 0, f := 0, p := 0 }

/-- A row of +0.0 cells. -/
def Row.zero : Row := Vector.replicate 64 0

/-- The generator states of SEED 0 (R137). -/
def gensSeed (v : Word) : Vector Word 64 := Vector.ofFn (fun i => seedState v i.val)

def Couch.reset : Couch := { base := 0, op := false, next := 0, mask := 0, active := false }

def Grid.reset : Grid :=
  { cells := Vector.replicate 64 Row.zero, fdirty := 0, gdirty := 0, gens := gensSeed 0
    e := Vector.replicate 8 (Vector.replicate 64 0), qs := Vector.replicate 8 ⟨0, 0⟩, k := Vector.replicate 8 0
    flags := 0, couch := Couch.reset, giq := [], inflight := [], pkts := [], fwdCount := 0, cyc := 0, mFree := 0
    v0Free := 0, v1Free := 0, sfFree := 0, queues := Vector.replicate 8 OpQueue.empty }

/-- A core after package reset: capacities of a fully populated part (R2, R159), nothing running; the registers
without a reset value in the spec at 0, shp at its default (log 1). -/
def Core.reset : Core :=
  { ctl := Ctl.reset, x := Vector.replicate 32 0, k := Vector.replicate 8 0, fmt := 0, shp := shpDefault
    rs := Restart.reset, region := Region.none, grid := Grid.reset, xb := [], wb := [], gb := []
    xbCap := 2097152, wbCap := 2097152, gbCap := 65536, eng := Vector.replicate 6 [], sigs := [], order := 0
    tissued := [], seqr := none, part := none, icache := [], utlb := [], substituted := false, grp := none, lastCtx := 0 }

def Die.reset : Die :=
  { felt := true, lost := false, spares := Vector.replicate 8 true, hbmUnits := 317, reserve := Vector.replicate 3 true
    retired := 0, ltlb := [], walkc := [], stlb := Vector.replicate 12 [], walks := [], waitWalks := [], walkCmds := [], freeKey := 0, unreach := 0 }

def Cluster.reset : Cluster := { ccyc := 0, mhz := 1300, pendMhz := none, retired := false }

def Port.reset : Port :=
  { used := [], minima := [], cap := 95000000, capNext := [], turns := Vector.replicate 6 64, factor := 0x10000, errors := 0, mtu := 1500
    addr := EthAddr.none }

def LinkRec.reset : LinkRec :=
  { st := .reset, lanes := 0, badLanes := [], attempts := 0, retry := [], txSeq := 0, rxSeq := 0, crcErrors := 0
    retries := 0, again := none, held2 := false, before2 := [], waiting := [], sent := [], naks := [] }

/-- The default limits of Table 20.5 in mW: kind, index, limit. -/
def defaultLimits : List (Nat × Nat × Nat) :=
  (List.range 64).map (fun i => (0, i, 32812)) ++ (List.range 12).map (fun i => (1, i, 35000)) ++
    (List.range 6).map (fun i => (2, i, 25000)) ++ (List.range 12).map (fun i => (3, i, 12500)) ++
    (List.range 2).map (fun i => (4, i, 15000))

def Boot.reset : Boot :=
  { booted := false, halted := false, statusOk := true, slotA := Vector.replicate 6 none, slotB := Vector.replicate 6 none
    newest := Vector.replicate 6 none, bootB := false
    running := Vector.replicate 6 none, fuses := Vector.replicate 8 0, feltOff := 0, capGen := 0, limits := defaultLimits, lowest := []
    commit := none, flow0 := none, addrs := Vector.replicate 2 EthAddr.none }

def GridPkt.empty : GridPkt :=
  { fwd := 0, addr := 0, fmt := 0, shp := shpDefault, sw := none, xfers := [], m := none, v := [], log := [] }

def SlotCtx.reset : SlotCtx :=
  { side := .access, pktAddr := 0, bunAddr := 0, nextAddr := 0, hdr := 0, word := 0, lit := none, npc := 0
    lost := false, markNext := false, older := 0, undo := [], settled := true, scUsed := false, behind := false
    early := false, ahead := false, out := .none, pkt := GridPkt.empty }

/-- The package right after package reset, before the boot sequence of R412: no context, nothing bound, every frame
FREE, memory with nothing listed, links in RESET. -/
def State.reset : State :=
  { cur := 0, agenda := [], inputs := [], slot := SlotCtx.reset, free := 0, wheel := 0, pkg := 0
    cores := Vector.replicate 512 Core.reset, clusters := Vector.replicate 64 Cluster.reset
    dies := Vector.replicate 4 Die.reset, ctxs := Vector.replicate 65 Ctx.free, parts := Vector.replicate 64 none, partStatus := 0
    groups := [], nextGroup := 1, dispatched := 0, savebase := 0, saveWrite := none, slotsUsed := [], mem := [], frames := [], units := []
    blocks := [], caches := Vector.replicate 4 [], windows := [], winCount := 0, keyCount := 0, ring := none, faults := [], faultCount := 0
    faultWait := [], refused := [], flows := [], ports := Vector.replicate 2 Port.reset, links := Vector.replicate 20 LinkRec.reset
    routes := [], routeTx := [], unreachPkg := 0, flitHeld := [], delivered := []
    hostReqs := [], reqCount := 0, out := [], waitOut := [], tiles := [], tileCount := 0, codekeys := Vector.replicate 16 none
    mkeys := Vector.replicate 8 none, boot := Boot.reset, errCounts := [], errSent := [] }

end Sys2Proof.Machine
end

