-- ==== Sys2Proof/Machine/Base.lean ====
section
/-! DEFINITION. Named operations over byte stores, cores, registers, contexts and the other tables of the state. -/

namespace Sys2Proof.Machine

/-! ### Byte stores -/

/-- The byte at an address (R5); an unlisted byte reads 0 (log 2). -/
def Memory.read : Memory → Nat → Byte
  | [], _ => 0
  | c :: m, a => if c.1 = a then c.2 else Memory.read m a

/-- A byte written, keeping the canonical form. -/
def Memory.write : Memory → Nat → Byte → Memory
  | [], a, b => if b = 0 then [] else [(a, b)]
  | c :: m, a, b =>
    if a < c.1 then (if b = 0 then c :: m else (a, b) :: c :: m)
    else if a = c.1 then (if b = 0 then m else (a, b) :: m)
    else c :: Memory.write m a b

/-- The `n` bytes from an address upward. -/
def Memory.bytes (m : Memory) (a : Nat) : Nat → List Byte
  | 0 => []
  | n + 1 => m.read a :: Memory.bytes m (a + 1) n

/-- Bytes written from an address upward. -/
def Memory.store (m : Memory) (a : Nat) : List Byte → Memory
  | [] => m
  | b :: bs => Memory.store (m.write a b) (a + 1) bs

/-- `n` bytes of one store copied to a place of another (a block move over listed bytes). -/
def Memory.blit (dst : Memory) (da : Nat) (src : Memory) (sa n : Nat) : Memory :=
  dst.filter (fun c => decide (c.1 < da)) ++
    (src.filter (fun c => decide (sa ≤ c.1 ∧ c.1 < sa + n))).map (fun c => (c.1 - sa + da, c.2)) ++
    dst.filter (fun c => decide (da + n ≤ c.1))

/-- A range set to zero. -/
def Memory.clear (m : Memory) (a n : Nat) : Memory := m.filter (fun c => decide (c.1 < a ∨ a + n ≤ c.1))

/-- The little-endian value of `n` bytes (R5). -/
def Memory.le (m : Memory) (a n : Nat) : Nat := leNat (m.bytes a n)

/-- A field of a byte list: `n` bytes from `i`, as a number (R5). -/
def fieldAt (bs : List Byte) (i n : Nat) : Nat := leNat ((bs.drop i).take n)
/-- One byte of a byte list. -/
def byteAt (bs : List Byte) (i : Nat) : Byte := bs.getD i 0
/-- Bytes replaced in a byte list from `i`. -/
def setBytes (bs : List Byte) (i : Nat) (v : List Byte) : List Byte := bs.take i ++ v ++ bs.drop (i + v.length)
/-- All bytes from `i`, `n` of them, are zero. -/
def zeroBytes (bs : List Byte) (i n : Nat) : Bool := ((bs.drop i).take n).all (fun b => decide (b = 0))

/-- Sign extension of the low `n` bytes of a number to 64 bits. -/
def sextBytes (n v : Nat) : Word :=
  if v < 2 ^ (8 * n - 1) then BitVec.ofNat 64 v else BitVec.ofInt 64 ((v : Int) - (2 ^ (8 * n) : Nat))

/-- A cell sign-extended to 64 bits. -/
def sext32 (c : Cell) : Word := c.signExtend 64

/-- The cells of 256 bytes (R124, R215). -/
def rowOfBytes (bs : List Byte) : Row := Vector.ofFn (fun j => BitVec.ofNat 32 (fieldAt bs (4 * j.val) 4))
/-- The 256 bytes of a row. -/
def bytesOfRow (r : Row) : List Byte := r.toList.flatMap (fun c => leBytes 4 c.toNat)

/-! ### Cores -/

/-- The core with an index. -/
def State.core (s : State) (c : CoreIx) : Core := s.cores[c.toNat]'c.isLt
def State.setCore (s : State) (c : CoreIx) (k : Core) : State := { s with cores := s.cores.set c.toNat k c.isLt }
def State.modCore (s : State) (c : CoreIx) (f : Core → Core) : State := s.setCore c (f (s.core c))
/-- The core that the step serves. -/
def State.me (s : State) : Core := s.core s.cur
def State.modMe (s : State) (f : Core → Core) : State := s.modCore s.cur f
def State.modSlot (s : State) (f : SlotCtx → SlotCtx) : State := { s with slot := f s.slot }

/-- The die of a core (R11). -/
def dieOf (c : CoreIx) : BitVec 2 := c.extractLsb' 7 2
/-- The cluster of a core within the package (R11). -/
def clusterOf (c : CoreIx) : ClusterIx := c.extractLsb' 3 6
/-- The number of a core within its cluster. -/
def inCluster (c : CoreIx) : BitVec 3 := c.extractLsb' 0 3
/-- The core of a cluster with a number. -/
def coreIn (cl : ClusterIx) (n : BitVec 3) : CoreIx := cl ++ n
/-- Every core, in index order. -/
def allCores : List CoreIx := (List.range 512).map (BitVec.ofNat 9)

def State.cluster (s : State) (c : ClusterIx) : Cluster := s.clusters[c.toNat]'c.isLt
def State.modCluster (s : State) (c : ClusterIx) (f : Cluster → Cluster) : State :=
  { s with clusters := s.clusters.set c.toNat (f (s.cluster c)) c.isLt }
def State.die (s : State) (d : BitVec 2) : Die := s.dies[d.toNat]'d.isLt
def State.modDie (s : State) (d : BitVec 2) (f : Die → Die) : State :=
  { s with dies := s.dies.set d.toNat (f (s.die d)) d.isLt }

/-- The cycle count of a core: its cluster's cycle counter (R15, R159). -/
def State.cyc (s : State) (c : CoreIx) : Word := (s.cluster (clusterOf c)).ccyc

/-- x[r]; x0 reads 0 (R158). -/
def Core.rx (k : Core) (r : BitVec 5) : Word := if r = 0 then 0 else k.x[r.toNat]'r.isLt
/-- A write of x[r]; one to x0 is discarded (R158, R180). -/
def Core.wx (k : Core) (r : BitVec 5) (v : Word) : Core :=
  if r = 0 then k else { k with x := k.x.set r.toNat v r.isLt }
def Core.rk (k : Core) (r : BitVec 3) : Word := k.k[r.toNat]'r.isLt
def Core.wk (k : Core) (r : BitVec 3) (v : Word) : Core := { k with k := k.k.set r.toNat v r.isLt }
/-- The register of a k field (R171). -/
def kIdx (f : BitVec 5) : BitVec 3 := f.extractLsb' 0 3

/-- shp.ROWS, COLS and ROW0 (Table 7.8). -/
def shpRows (w : Word) : Nat := (w.extractLsb' 0 7).toNat
def shpCols (w : Word) : Nat := (w.extractLsb' 8 7).toNat
def shpRow0 (w : Word) : Nat := (w.extractLsb' 16 6).toNat
/-- An shp value (Table 7.8). -/
def mkShp (row0 rows cols : Nat) : Word := BitVec.ofNat 64 (rows % 128 + 256 * (cols % 128) + 65536 * (row0 % 64))

/-- The write of an exposed result (R164). -/
def Core.land (k : Core) (d : Dst) (v : Word) : Core :=
  match d with
  | .x r => k.wx r v
  | .k r => k.wk r v
  | .fmt => { k with fmt := v }
  | .shape => { k with shp := v }

/-- An exposed result is due (R88, R91). -/
def Exposed.ready (e : Exposed) (issue : Nat) (cyc : Word) : Bool :=
  decide (e.due ≤ issue) && decide (e.arr.toNat ≤ cyc.toNat)

/-- A result put among others in the order of their counts; at one count the earlier in program order comes first (R164). -/
def insertDue (e : Exposed) : List Exposed → List Exposed
  | [] => [e]
  | h :: t => if e.due ≤ h.due then e :: h :: t else h :: insertDue e t
/-- The outstanding results in the order in which they land (R164). -/
def Core.landOrder (k : Core) : List Exposed := k.rs.pend.foldr insertDue []

/-- Every due result written, in the order of issue; the later landing stands (R164). -/
def Core.landDue (k : Core) (cyc : Word) : Core :=
  let due := k.rs.pend.filter (fun e => e.ready k.rs.issue cyc)
  let k := due.foldl (fun k e => k.land e.dst e.val) k
  { k with rs := { k.rs with pend := k.rs.pend.filter (fun e => !e.ready k.rs.issue cyc) } }

/-- A result of latency `l` of the packet that issues now (R164). -/
def Core.expose (k : Core) (d : Dst) (v : Word) (l : Nat) (arr : Word := 0) : Core :=
  if d = .x 0 then k
  else { k with rs := { k.rs with pend := k.rs.pend ++ [⟨d, v, k.rs.issue + l, arr⟩] } }

/-- x[d] := v at latency `l`, for the core that issues. -/
def State.result (s : State) (d : BitVec 5) (v : Word) (l : Nat) : State := s.modMe (fun k => k.expose (.x d) v l)

/-- The bytes of a buffer space of a core (R12). -/
def Core.buf (k : Core) : Space → Memory
  | .xb => k.xb
  | .wb => k.wb
  | .gb => k.gb
  | .dm => []
def Core.setBuf (k : Core) (sp : Space) (m : Memory) : Core :=
  match sp with
  | .xb => { k with xb := m }
  | .wb => { k with wb := m }
  | .gb => { k with gb := m }
  | .dm => k
/-- The space of an A-form space field (R154). -/
def spaceOf (p : BitVec 2) : Space :=
  match p.toNat with
  | 0 => .xb
  | 1 => .wb
  | 2 => .gb
  | _ => .dm

/-! ### The grid -/

def Grid.row (g : Grid) (r : Nat) : Row := g.cells[r % 64]'(Nat.mod_lt _ (by decide))
def Grid.cell (g : Grid) (r c : Nat) : Cell := (g.row r)[c % 64]'(Nat.mod_lt _ (by decide))
def Grid.setRow (g : Grid) (r : Nat) (v : Row) : Grid :=
  { g with cells := g.cells.set (r % 64) v (Nat.mod_lt _ (by decide)) }
def Grid.gen (g : Grid) (r : Nat) : Word := g.gens[r % 64]'(Nat.mod_lt _ (by decide))
def Grid.setGen (g : Grid) (r : Nat) (v : Word) : Grid :=
  { g with gens := g.gens.set (r % 64) v (Nat.mod_lt _ (by decide)) }
def Grid.rk (g : Grid) (n : BitVec 3) : Word := g.k[n.toNat]'n.isLt
def Grid.rq (g : Grid) (n : BitVec 3) : Qs := g.qs[n.toNat]'n.isLt
def Grid.re (g : Grid) (n : BitVec 3) : Vector Byte 64 := g.e[n.toNat]'n.isLt
def Grid.queue (g : Grid) (q : BitVec 3) : OpQueue := g.queues[q.toNat]'q.isLt
def Grid.setQueue (g : Grid) (q : BitVec 3) (v : OpQueue) : Grid :=
  { g with queues := g.queues.set q.toNat v q.isLt }
/-- A write of a grid-side register. -/
def Grid.wreg (g : Grid) : GReg → Grid
  | .e n v => { g with e := g.e.set n.toNat v n.isLt }
  | .qs n v => { g with qs := g.qs.set n.toNat v n.isLt }
  | .k n v => { g with k := g.k.set n.toNat v n.isLt }
/-- One bit of a 64-bit mask set or cleared. -/
def setBit (w : Word) (i : Nat) (b : Bool) : Word :=
  if b then w ||| (1#64 <<< i) else w &&& ~~~(1#64 <<< i)
/-- A row's dirty bits set when it is written (R233, R249). -/
def Grid.markDirty (g : Grid) (r : Nat) : Grid :=
  { g with fdirty := setBit g.fdirty (r % 64) true, gdirty := setBit g.gdirty (r % 64) true }

/-- Element of a cell vector, by index modulo 64. -/
def Row.at (r : Row) (j : Nat) : Cell := r[j % 64]'(Nat.mod_lt _ (by decide))

def State.modGrid (s : State) (c : CoreIx) (f : Grid → Grid) : State :=
  s.modCore c (fun k => { k with grid := f k.grid })
def State.modRs (s : State) (c : CoreIx) (f : Restart → Restart) : State :=
  s.modCore c (fun k => { k with rs := f k.rs })
def State.modCtl (s : State) (c : CoreIx) (f : Ctl → Ctl) : State :=
  s.modCore c (fun k => { k with ctl := f k.ctl })

/-! ### Contexts, queues, kernels, groups -/

/-- A context number as an index; numbers above 64 name no context. -/
def State.ctx (s : State) (n : Nat) : Ctx := (s.ctxs[n]?).getD Ctx.free
def State.setCtx (s : State) (n : Nat) (c : Ctx) : State :=
  if h : n < 65 then { s with ctxs := s.ctxs.set n c h } else s
def State.modCtx (s : State) (n : Nat) (f : Ctx → Ctx) : State := s.setCtx n (f (s.ctx n))
/-- The full tag of a context (R32). -/
def State.tagOf (s : State) (n : Nat) : Tag := (s.ctx n).gen ++ BitVec.ofNat 7 n
/-- The context number of a tag. -/
def tagCtx (t : Tag) : Nat := (t.extractLsb' 0 7).toNat
/-- A tag is current: its generation is that of its context (R33). -/
def State.tagCurrent (s : State) (t : Tag) : Bool := decide (s.tagOf (tagCtx t) = t)

def Ctx.queue (c : Ctx) (q : Nat) : QRec := (c.queues[q]?).getD QRec.closed
def Ctx.setQueue (c : Ctx) (q : Nat) (r : QRec) : Ctx :=
  if h : q < 64 then { c with queues := c.queues.set q r h } else c
def State.queue (s : State) (n q : Nat) : QRec := (s.ctx n).queue q
def State.modQueue (s : State) (n q : Nat) (f : QRec → QRec) : State :=
  s.modCtx n (fun c => c.setQueue q (f (c.queue q)))
def Ctx.kernel (c : Ctx) (i : Nat) : KRec := (c.kernels[i]?).getD KRec.absent
def Ctx.setKernel (c : Ctx) (i : Nat) (r : KRec) : Ctx :=
  if h : i < 64 then { c with kernels := c.kernels.set i r h } else c
def State.modKernel (s : State) (n i : Nat) (f : KRec → KRec) : State :=
  s.modCtx n (fun c => c.setKernel i (f (c.kernel i)))
/-- A fence counter (R341). -/
def Ctx.counter (c : Ctx) (n : BitVec 8) : Word := c.fc[n.toNat]'n.isLt
/-- fc[n] := fc[n] + v modulo 2^64 (R72, R289). -/
def State.addCounter (s : State) (ctx : Nat) (n : BitVec 8) (v : Word) : State :=
  s.modCtx ctx (fun c => { c with fc := c.fc.set n.toNat (c.counter n + v) n.isLt })

/-- The group with an id. -/
def State.group (s : State) (g : Nat) : Option Group := s.groups.find? (fun r => decide (r.id = g))
def State.modGroup (s : State) (g : Nat) (f : Group → Group) : State :=
  { s with groups := s.groups.map (fun r => if r.id = g then f r else r) }
/-- The group of the core that the step serves. -/
def State.myGroup (s : State) : Option Group := s.me.grp.bind s.group
/-- What the group of a core fixes; without a group, empty extents. -/
def GEnv.none : GEnv :=
  { codeVa := 0, codeLen := 0, entry := 0, xbext := 0, wbext := 0, gbext := 0, mode := .native, bmask := 0, fmask := 0
    fmt0 := 0, shp0 := shpDefault }
def State.env (s : State) (c : CoreIx) : GEnv :=
  match (s.core c).grp.bind s.group with
  | some g => g.env
  | Option.none => GEnv.none
/-- The context of a core's group. -/
def State.ctxOf (s : State) (c : CoreIx) : Nat :=
  match (s.core c).grp.bind s.group with
  | some g => g.ctx
  | Option.none => 0
/-- The rank of a core in a group. -/
def Group.rankOf (g : Group) (c : CoreIx) : Nat := g.cores.idxOf c

/-- The extent of a buffer space for a core's group (R80). -/
def GEnv.extent (e : GEnv) : Space → Nat
  | .xb => e.xbext
  | .wb => e.wbext
  | .gb => e.gbext
  | .dm => 0

/-- sr.coreid (Table 7.7). -/
def State.coreid (s : State) (c : CoreIx) : Word :=
  BitVec.ofNat 64 (c.toNat + (if (s.core c).substituted then 32768 else 0) + 65536 * s.pkg.toNat)
/-- sr.ctx (R32): tag and partition number. -/
def State.srCtx (s : State) (c : CoreIx) : Word :=
  let n := s.ctxOf c
  BitVec.ofNat 64 ((s.tagOf n).toNat + 65536 * ((s.ctx n).desc.part.toNat % 64))
/-- sr.bufcap (Table 7.7): capacities in KiB; the instruction cache holds 32 KiB. -/
def Core.bufcap (k : Core) : Word :=
  BitVec.ofNat 64 (k.xbCap / 1024 + 65536 * (k.wbCap / 1024) + 2 ^ 32 * (k.gbCap / 1024) + 2 ^ 48 * 32)

/-- A tile record as it reaches a director (R300). -/
def TileNode.fresh (id : Nat) (lv : Level) (ctx : Nat) (src : TileSrc) (b : List Byte) (child : Nat) : TileNode :=
  { id := id, level := lv, ctx := ctx, src := src, bytes := b, child := child, st := .waiting, staged := 0, copy := (0, 0)
    fault := none, answer := none, retries := 0, group := none, lost := none, next := 0, blocks := [] }

/-- A free value of the step, by the counter of the state (log 3). -/
def State.fresh (s : State) : Word × State := (Config.freeValue s.free, { s with free := s.free + 1 })

end Sys2Proof.Machine
end

