-- ==== Sys2Proof/Machine/Crypto.lean ====
section
/-! DEFINITION. AES-256-GCM as NIST SP 800-38D forms it over the block cipher (R366, R389, R454). The cipher itself, FIPS 197, is
uninterpreted (log 6). -/

namespace Sys2Proof.Machine

/-- Sixteen bytes as a block, the first most significant. -/
def blockOf (bs : List Byte) : BitVec 128 := BitVec.ofNat 128 (leNat bs.reverse)
/-- The bytes of a block. -/
def bytesOfBlock (b : BitVec 128) : List Byte := (leBytes 16 b.toNat).reverse
/-- The blocks of some bytes, the last filled with zeros. -/
def blocksOf (bs : List Byte) : List (BitVec 128) := (List.range ((bs.length + 15) / 16)).map (fun i =>
  let p := (bs.drop (16 * i)).take 16
  blockOf (p ++ List.replicate (16 - p.length) 0))

/-- The product of blocks in GF(2^128): `n` bits of `x` are still to be taken, the most significant first. -/
def gfMul (x : BitVec 128) : Nat → BitVec 128 → BitVec 128 → BitVec 128
  | 0, z, _ => z
  | n + 1, z, v =>
    gfMul x n (if x.getLsbD n then z ^^^ v else z) ((v >>> 1) ^^^ (if v.getLsbD 0 then 0xE1#128 <<< 120 else 0))
/-- GHASH of blocks under a hash key. -/
def ghash (h : BitVec 128) (bs : List (BitVec 128)) : BitVec 128 := bs.foldl (fun y b => gfMul (y ^^^ b) 128 0 h) 0

/-- Bytes under the key stream of a key and IV: counter 1 is the tag's, the data begin at 2. -/
def gcmStream (key : BitVec 256) (iv : BitVec 96) (bs : List Byte) : List Byte :=
  bs.mapIdx (fun i b => b ^^^ (bytesOfBlock (Config.aes256 key (iv ++ BitVec.ofNat 32 (2 + i / 16)))).getD (i % 16) 0)
/-- The tag of authenticated data and cipher text. -/
def gcmTag (key : BitVec 256) (iv : BitVec 96) (aad c : List Byte) : List Byte :=
  bytesOfBlock (ghash (Config.aes256 key 0)
    (blocksOf aad ++ blocksOf c ++ [BitVec.ofNat 64 (8 * aad.length) ++ BitVec.ofNat 64 (8 * c.length)]) ^^^ Config.aes256 key (iv ++ 1#32))
/-- Encryption: the cipher text and the tag of 16 bytes. -/
def gcmSeal (key : BitVec 256) (iv : BitVec 96) (aad p : List Byte) : List Byte × List Byte :=
  let c := gcmStream key iv p
  (c, gcmTag key iv aad c)
/-- Decryption: none where the tag does not hold. -/
def gcmOpen (key : BitVec 256) (iv : BitVec 96) (aad c tag : List Byte) : Option (List Byte) :=
  if tag = gcmTag key iv aad c then some (gcmStream key iv c) else none

end Sys2Proof.Machine
end

