-- ==== Sys2Proof/Machine/Device.lean ====
section
/-! DEFINITION. Device memory (17_page): regions, frames, tree units and counter blocks, writes with their counters and
dirty bits, the memory-side caches, the walks over counter blocks, the shadow-table walk, the TLBs and translation. Memory holds plain text;
the stored form of a line is given by its formula (log 8). -/

namespace Sys2Proof.Machine

/-- The bytes of a frame (R350). -/
def frameBytes : Nat := 65536
/-- A physical address inside a tenant region (R349). -/
def inRegion (pa : Nat) : Bool := decide (pa / 2 ^ 40 = 0 ∧ pa % 2 ^ 38 < 0x27A0000000)
/-- Every die. -/
def allDies : List (BitVec 2) := [0, 1, 2, 3]
/-- The home die of a physical address (R349). -/
def homeDie (pa : Nat) : BitVec 2 := BitVec.ofNat 2 (pa / 2 ^ 38)
/-- The frame at a page index of CTX_DIRTY (R373), as PA / 64 KiB. -/
def frameOfIndex (i : Nat) : Nat := i / 2596864 * 2 ^ 22 + i % 2596864
/-- The page index of a frame (R373). -/
def indexOfFrame (f : Nat) : Nat := f / 2 ^ 22 * 2596864 + f % 2 ^ 22

/-- The frame table entry of a frame number PA / 64 KiB; one not listed is FREE, or RETIRED on a lost die (R387). -/
def State.frame (s : State) (n : Nat) : Frame :=
  (s.frames.find? (fun f => decide (f.no = n))).getD
    { no := n, st := if (s.die (homeDie (n * frameBytes))).lost then .retired else .free, toBound := false, owner := 0, dirty := false, win := none }
def State.setFrame (s : State) (f : Frame) : State :=
  { s with frames := f :: s.frames.filter (fun g => decide (g.no ≠ f.no)) }
def State.modFrame (s : State) (n : Nat) (f : Frame → Frame) : State := s.setFrame (f (s.frame n))

/-- The tree unit of a number PA / 2 MiB (R350, R364). -/
def State.unit (s : State) (n : Nat) : TreeUnit :=
  (s.units.find? (fun u => decide (u.no = n))).getD { no := n, owner := .none, root := 0, slot := none, ctrs := [] }
def State.setUnit (s : State) (u : TreeUnit) : State :=
  { s with units := u :: s.units.filter (fun v => decide (v.no ≠ u.no)) }
/-- The counter block of a number PA / 4 KiB (R365). -/
def State.block (s : State) (n : Nat) : CtrBlock :=
  (s.blocks.find? (fun b => decide (b.no = n))).getD { no := n, major := 0, minors := [] }
def State.setBlock (s : State) (b : CtrBlock) : State :=
  { s with blocks := b :: s.blocks.filter (fun c => decide (c.no ≠ b.no)) }

/-- The value under a key of an association list of counters, 0 when absent. -/
def ctrOf (l : List (Nat × Word)) (k : Nat) : Word := (l.lookup k).getD 0
/-- A counter of a list raised by one. -/
def ctrInc (l : List (Nat × Word)) (k : Nat) : List (Nat × Word) :=
  (k, ctrOf l k + 1) :: l.filter (fun p => decide (p.1 ≠ k))

/-- A counter block rewritten with its path of nodes advances its parents up to the root (R367, R369). -/
def State.treeAdvance (s : State) (block : Nat) : State :=
  let u := s.unit (block / 512)
  let b := block % 512
  s.setUnit { u with root := u.root + 1, ctrs := ctrInc (ctrInc (ctrInc u.ctrs b) (512 + b / 8)) (576 + b / 64) }

/-! ### Memory-side caches (R21, R367; log 124) -/

/-- 64 MiB as groups of 64 lines. -/
def cacheGroups : Nat := 16384
/-- The home die of what a cache holds. -/
def CacheKey.die : CacheKey → BitVec 2
  | .lines b => homeDie (b * 4096)
  | .nodes u => homeDie (u * 2097152)
def State.cache (s : State) (d : BitVec 2) : List Cached := s.caches[d.toNat]
def State.setCache (s : State) (d : BitVec 2) (l : List Cached) : State := { s with caches := s.caches.set d.toNat l }

/-- Parts marked as not written back; what comes in new stands in front. -/
def State.putDirty (s : State) (k : CacheKey) (m : BitVec 73) : State :=
  let l := s.cache k.die
  match l.find? (fun e => decide (e.key = k)) with
  | some e =>
    if e.dirty ||| m = e.dirty then s
    else s.setCache k.die (l.map (fun e => if e.key = k then { e with dirty := e.dirty ||| m } else e))
  | none => s.setCache k.die (⟨k, m⟩ :: l)

/-- Nodes of a unit written back, children first: each advances its counter in its parent, which is to be written back then (R367). -/
def TreeUnit.nodesBack (u : TreeUnit) (m : BitVec 73) : TreeUnit :=
  ((List.range 73).foldl (fun (p : TreeUnit × BitVec 73) i =>
    if !p.2.getLsbD i then p
    else if i < 64 then ({ p.1 with ctrs := ctrInc p.1.ctrs (512 + i) }, p.2 ||| BitVec.twoPow 73 (64 + i / 8))
    else if i < 72 then ({ p.1 with ctrs := ctrInc p.1.ctrs (512 + i) }, p.2 ||| BitVec.twoPow 73 72)
    else ({ p.1 with root := p.1.root + 1 }, p.2)) (u, m)).1

/-- What leaves a cache is written back to HBM4: a counter block advances its counter in its level-1 node (R367). -/
def State.writeBack (s : State) (e : Cached) : State :=
  match e.key with
  | .nodes u => s.setUnit ((s.unit u).nodesBack e.dirty)
  | .lines b =>
    if e.dirty.getLsbD 64 then
      let u := s.unit (b / 512)
      (s.setUnit { u with ctrs := ctrInc u.ctrs (b % 512) }).putDirty (.nodes (b / 512)) (BitVec.twoPow 73 (b % 512 / 8))
    else s

/-- The oldest group leaves a full cache. -/
def State.trimCache (s : State) (d : BitVec 2) : Nat → State
  | 0 => s
  | n + 1 =>
    let l := s.cache d
    if l.length ≤ cacheGroups then s
    else
      match l.getLast? with
      | some e => State.trimCache ((s.setCache d l.dropLast).writeBack e) d n
      | none => s

/-- The lines of a block that a range of bytes touches. -/
def lineMask (pa n block : Nat) : BitVec 73 :=
  let lo := max (pa / 64) (block * 64) % 64
  let hi := min ((pa + n - 1) / 64) (block * 64 + 63) % 64
  BitVec.ofNat 73 (2 ^ (hi + 1) - 2 ^ lo)
/-- A range of bytes written at its home memory unit: its lines and their counter blocks are in the cache, to be written back. -/
def State.cacheLines (s : State) (pa n : Nat) : State :=
  if n = 0 then s
  else (List.range ((pa + n - 1) / 4096 - pa / 4096 + 1)).foldl (fun s i =>
    let b := pa / 4096 + i
    (s.putDirty (.lines b) (lineMask pa n b ||| BitVec.twoPow 73 64)).trimCache (homeDie (b * 4096)) 4) s
/-- A line stands in its cache with bytes that HBM4 does not have. -/
def State.lineDirty (s : State) (pa : Nat) : Bool :=
  (s.cache (homeDie pa)).any (fun e => decide (e.key = .lines (pa / 4096)) && e.dirty.getLsbD (pa / 64 % 64))

/-- The minor of a line; an unlisted line was never written since its scrub, 0x7F (R365). -/
def CtrBlock.minor (b : CtrBlock) (line : Nat) : BitVec 7 := (b.minors.lookup line).getD 0x7F

/-- A write of a line advances its counters (R365): 0x7F to 0, then upward; at 0x7E the major counter advances and all
64 minors become 0. -/
def CtrBlock.write (b : CtrBlock) (line : Nat) : CtrBlock :=
  let m := b.minor line
  if m = 0x7E then { b with major := b.major + 1, minors := (List.range 64).map (fun i => (i, 0)) }
  else { b with minors := (line, if m = 0x7F then 0 else m + 1) :: b.minors.filter (fun p => decide (p.1 ≠ line)) }

/-- One counter block rewritten by a walk, or out of order for an access (R370 to R372): every line reads zero, and nothing of it is left to
write back. -/
def State.rewriteBlock (s : State) (rekey : Bool) (n : Nat) : State :=
  let b := s.block n
  let s := s.setBlock { b with major := if rekey then 0 else b.major + 1, minors := [] }
  let s := s.treeAdvance n
  let d := homeDie (n * 4096)
  let s := s.setCache d ((s.cache d).filter (fun e => decide (e.key ≠ .lines n)))
  { s with mem := s.mem.clear (n * 4096) 4096 }

/-! ### Walks over counter blocks (R369 to R372) -/

/-- A walk that still has a block pending, on the block's die. -/
def Walk.has (w : Walk) (block : Nat) : Bool :=
  decide (w.unit = block / 512) && (w.pending.contains (block % 512) || w.busy.contains (block % 512))
def Walk.drop (w : Walk) (block : Nat) : Walk :=
  if w.unit = block / 512 then
    { w with pending := w.pending.filter (fun b => decide (b ≠ block % 512))
             busy := w.busy.filter (fun b => decide (b ≠ block % 512)) }
  else w
def Walk.done (w : Walk) : Bool := w.pending.isEmpty && w.busy.isEmpty
/-- A block of the walk is re-keyed, not scrubbed. -/
def Walk.rekeys (w : Walk) (block : Nat) : Bool := !w.scrub.contains (block % 512)

/-- More blocks of its unit for a walk (R371): a re-key takes every block, those rewritten already again; a scrub leaves a block that is due as it
stands. -/
def Walk.join (w : Walk) (rekey : Bool) (bs : List Nat) : Walk :=
  if rekey then { w with pending := (List.range 512).filter (fun b => !w.busy.contains b), scrub := [] }
  else
    let new := bs.filter (fun b => !w.pending.contains b && !w.busy.contains b)
    if new.isEmpty then w
    else { w with pending := (List.range 512).filter (fun b => w.pending.contains b || new.contains b), scrub := w.scrub ++ new }

/-- Blocks of a unit to be rewritten: its walk goes on with them in the slot that it has, or a new walk waits for one. A unit has one walk, as
its root entry has one walk slot (R364, log 129). -/
def State.addWalk (s : State) (unit : Nat) (rekey : Bool) (bs : List Nat) : State :=
  s.modDie (homeDie (unit * 2097152)) (fun d =>
    let same (w : Walk) : Bool := decide (w.unit = unit)
    if (d.walks ++ d.waitWalks).any same then
      { d with walks := d.walks.map (fun w => if same w then w.join rekey bs else w)
               waitWalks := d.waitWalks.map (fun w => if same w then w.join rekey bs else w) }
    else { d with waitWalks := d.waitWalks ++ [{ unit := unit, pending := bs, busy := [], scrub := if rekey then [] else bs }] })

/-- A block done leaves its walk, and a walk that is done gives its slot back. -/
def State.endBlock (s : State) (block : Nat) : State :=
  let d := homeDie (block * 4096)
  let u := block / 512
  let s := s.modDie d (fun k => { k with
    walks := (k.walks.map (fun w => w.drop block)).filter (fun w => !w.done)
    waitWalks := (k.waitWalks.map (fun w => w.drop block)).filter (fun w => !w.done) })
  if (s.die d).walks.any (fun w => decide (w.unit = u)) then s else s.setUnit { s.unit u with slot := none }

/-- A frame leaves SCRUBBING when its last pending block is done (Table 17.3); a unit whose frames are all FREE is
released and re-keyed, under the die's free key (R364). -/
def State.frameScrubbed (s : State) (n : Nat) : State :=
  let d := s.die (homeDie (n * frameBytes))
  let f := s.frame n
  let blocks := (List.range 16).map (fun i => n * 16 + i)
  let pend := (d.walks ++ d.waitWalks).any (fun w => blocks.any w.has)
  if f.st = .scrubbing ∧ !pend then
    if f.toBound then s.setFrame { f with st := .bound }
    else
      let s := s.setFrame { f with st := .free, owner := 0 }
      let u := n / 32
      let all := (List.range 32).all (fun i => decide ((s.frame (u * 32 + i)).st = .free))
      if all ∧ (s.unit u).owner ≠ .none then
        (s.setUnit { s.unit u with owner := .none, root := 0, ctrs := [] }).addWalk u true (List.range 512)
      else s
  else s

/-- A pending block that an access reaches is rewritten out of order, and no walk rewrites it again (R372). -/
def State.settleBlock (s : State) (block : Nat) : State :=
  let d := s.die (homeDie (block * 4096))
  match (d.walks ++ d.waitWalks).find? (fun w => w.has block) with
  | none => s
  | some w => ((s.rewriteBlock (w.rekeys block) block).endBlock block).frameScrubbed (block / 16)

/-- The lines that a range of bytes touches. -/
def linesOf (pa n : Nat) : List Nat :=
  if n = 0 then [] else (List.range ((pa + n - 1) / 64 - pa / 64 + 1)).map (fun i => pa / 64 + i)

/-- What the home memory unit does for each line of a write that it accepts (R365 to R373): a pending block is settled, the line's
counter advances, and the frame's dirty bit is set when TRACKED. The lines and their counter blocks are written back when they leave the
memory-side cache. -/
def State.countLines (s : State) (pa n : Nat) : State :=
  ((linesOf pa n).foldl (fun s l =>
    let s := s.settleBlock (l / 64)
    let s := s.setBlock ((s.block (l / 64)).write (l % 64))
    let f := s.frame (l / 1024)
    if f.st = .tracked then s.setFrame { f with dirty := true } else s) s).cacheLines pa n

/-- Bytes accepted by the home memory unit (R363). -/
def State.putMem (s : State) (pa : Nat) (bs : List Byte) : State :=
  let s := s.countLines pa bs.length
  { s with mem := s.mem.store pa bs }

/-- The pending blocks that a read of a range meets are rewritten first (R372). -/
def State.settleRange (s : State) (pa n : Nat) : State := (linesOf pa n).foldl (fun s l => s.settleBlock (l / 64)) s

/-- The bytes that a read returns. -/
def State.getMem (s : State) (pa n : Nat) : List Byte × State :=
  let s := s.settleRange pa n
  (s.mem.bytes pa n, s)

/-- A counter block that a walk still has to rewrite. -/
def State.blockPending (s : State) (block : Nat) : Bool :=
  let d := s.die (homeDie (block * 4096))
  (d.walks ++ d.waitWalks).any (fun w => w.has block)

/-- What a read of bytes returns: those of a block that a walk still has to rewrite read as zero (R372). -/
def State.peek (s : State) (pa n : Nat) : List Byte :=
  (s.mem.bytes pa n).mapIdx (fun i b => if s.blockPending ((pa + i) / 4096) then 0 else b)

/-- Bytes across scattered physical pieces: each address with one byte. -/
def State.putBytes (s : State) : List (Nat × Byte) → State
  | [] => s
  | (a, b) :: r => State.putBytes (s.putMem a [b]) r

/-! ### The stored form (R366) -/

/-- iv(j, dom) of R366. -/
def lineIv (pa : Nat) (major : BitVec 57) (minor : BitVec 7) (j : Nat) (dom : BitVec 20) : BitVec 128 :=
  BitVec.ofNat 42 (pa / 64) ++ major ++ minor ++ BitVec.ofNat 2 j ++ dom

/-- The four cipher blocks and the 64-bit tag of a line's plain text under a key (R366). -/
def storedLine (key : BitVec 256) (pa : Nat) (major : BitVec 57) (minor : BitVec 7) (p : List (BitVec 128)) :
    List (BitVec 128) × BitVec 64 :=
  let c := p.mapIdx (fun j b => b ^^^ Config.aes256 key (lineIv pa major minor j 0))
  let h := Config.aes256 key 0
  (c, (ghash h c ^^^ Config.aes256 key (lineIv pa major minor 0 0x80000)).extractLsb' 0 64)

/-- The tag of a counter block or a node of the tree at an address, stored in plain text, under its parent counter (R366; log 144). -/
def nodeTag (key : BitVec 256) (pa : Nat) (parent : Word) (p : List (BitVec 128)) : BitVec 64 :=
  let h := Config.aes256 key 0
  let iv : BitVec 128 := BitVec.ofNat 42 (pa / 64) ++ parent ++ (0 : BitVec 2) ++ (1 : BitVec 20)
  (ghash h p ^^^ Config.aes256 key iv).extractLsb' 0 64

/-- The 64 bytes of a counter block (R365), and of a node of eight counters (R367). -/
def CtrBlock.image (b : CtrBlock) : List Byte :=
  leBytes 64 (((List.range 64).map (fun i => (b.minor i).toNat * 2 ^ (7 * i))).sum + b.major.toNat * 2 ^ 448)
/-- Node `i` of a unit: 0 to 63 of level 1, 64 to 71 of level 2, 72 the top. -/
def TreeUnit.nodeImage (u : TreeUnit) (i : Nat) : List Byte :=
  (List.range 8).flatMap (fun j => leBytes 8 (ctrOf u.ctrs (8 * i + j)).toNat)

/-- The key of a unit's counter blocks and nodes: its owner's, or the die's free key (R364, R366). -/
def State.unitKey (s : State) (u : Nat) : BitVec 256 :=
  Config.generatedKey (match (s.unit u).owner with
    | .none => (s.die (homeDie (u * 2097152))).freeKey
    | .ctx t => (s.ctx (tagCtx t)).key)
/-- The key of a data line: that of its frame's window, or of the frame's owner (R366). -/
def State.lineKey (s : State) (pa : Nat) : BitVec 256 :=
  let f := s.frame (pa / frameBytes)
  Config.generatedKey (match f.st, f.win.bind (fun h => s.windows.find? (fun w => decide (w.handle = h))) with
    | .window, some w => w.key
    | _, _ => (s.ctx f.owner).key)

/-- What HBM4 holds of a data line that has been written back: cipher text and tag; a line never written since its scrub has none that
is read (R365, R366). -/
def State.storedAt (s : State) (line : Nat) : Option (List (BitVec 128) × BitVec 64) :=
  let b := s.block (line / 64)
  let m := b.minor (line % 64)
  if m = 0x7F then none else some (storedLine (s.lineKey (64 * line)) (64 * line) b.major m (blocksOf (s.mem.bytes (64 * line) 64)))
/-- The tag of a counter block, and of a node of a unit, at the address that firmware gives it outside every region (R349). -/
def State.blockTag (s : State) (b : Nat) : BitVec 64 :=
  nodeTag (s.unitKey (b / 512)) (Config.treeAddress (b / 512) (b % 512)) (ctrOf (s.unit (b / 512)).ctrs (b % 512)) (blocksOf (s.block b).image)
def State.nodeTagAt (s : State) (u i : Nat) : BitVec 64 :=
  let n := s.unit u
  nodeTag (s.unitKey u) (Config.treeAddress u (512 + i)) (if i = 72 then n.root else ctrOf n.ctrs (512 + i)) (blocksOf (n.nodeImage i))

/-! ### Frame checks -/

/-- The window of a frame's window slot. -/
def State.window (s : State) (h : BitVec 32) : Option Window := s.windows.find? (fun w => decide (w.handle = h))

/-- The check at the home memory unit (R363): the detail with which an access of a context is refused. -/
def State.frameCheck (s : State) (ctx : Nat) (pa : Nat) : Option (BitVec 4) :=
  if !inRegion pa then some 0x0A
  else
    let f := s.frame (pa / frameBytes)
    match f.st with
    | .bound => if f.owner = ctx then none else some 0x09
    | .tracked => if f.owner = ctx then none else some 0x09
    | .window =>
      if f.owner = ctx then none
      else
        match f.win.bind s.window with
        | some w =>
          if tagCtx w.peer = ctx ∧ s.tagCurrent w.peer ∧ w.peerBase.isSome ∧ !w.revoking then none else some 0x09
        | none => some 0x09
    | .scrubbing => if f.toBound ∧ f.owner = ctx then none else some 0x09
    | .retired => some 0x08
    | .free => some 0x09

/-- A physical range of context 0 that a command names lies in its BOUND frames (R357). -/
def State.ctx0Range (s : State) (pa n : Nat) : Bool :=
  (List.range ((pa + n - 1) / frameBytes - pa / frameBytes + 1)).all (fun i =>
    decide (s.frameCheck 0 ((pa / frameBytes + i) * frameBytes) = none))

/-! ### The shadow table (R351 to R356) -/

/-- A translation: physical address, and the page it stands for. -/
structure Xlat where
  pa : Nat
  entry : TlbEntry
  deriving DecidableEq, Repr

/-- The fields of a shadow-table entry (Table 17.1). -/
def eV (e : Word) : Bool := e.getLsbD 0
def eLeaf (e : Word) : Bool := e.getLsbD 1
def eR (e : Word) : Bool := e.getLsbD 2
def eW (e : Word) : Bool := e.getLsbD 3
def eX (e : Word) : Bool := e.getLsbD 4
def eC (e : Word) : Bool := e.getLsbD 5
def eGT (e : Word) : Bool := e.getLsbD 6
def ePA (e : Word) : Nat := (e.extractLsb' 16 32).toNat * 65536

/-- Reserved bits set, or LEAF wrong for the level (R352). -/
def eReserved (e : Word) (lv : Nat) : Bool :=
  e.getLsbD 63 || decide (e.extractLsb' 48 3 ≠ 0) || e.getLsbD 51 || decide (e.extractLsb' 7 9 ≠ 0) ||
    (match lv with
     | 1 => eLeaf e || decide (e.extractLsb' 2 5 ≠ 0)
     | 2 => if eLeaf e then eC e || decide (e.extractLsb' 16 10 ≠ 0) else decide (e.extractLsb' 2 5 ≠ 0)
     | _ => !eLeaf e)

/-- The rights an access needs (R353). -/
def eRights (e : Word) : AccKind → Bool
  | .read => eR e
  | .write => eW e
  | .fetch => eX e
  | .atomic => eR e && eW e
/-- A write, for GT and the dirty bits. -/
def isWrite : AccKind → Bool
  | .write => true
  | .atomic => true
  | _ => false

/-- The index of an address at a level (R351). -/
def walkIndex (lv : Nat) (va : Word) : Nat :=
  match lv with
  | 1 => (va.extractLsb' 38 14).toNat
  | 2 => (va.extractLsb' 26 12).toNat
  | _ => (va.extractLsb' 16 10).toNat

/-- The 32 level-3 entries around an index form a 2 MiB group (R354). -/
def State.group2M (s : State) (table : Nat) (idx : Nat) : Option Nat :=
  let first := idx / 32 * 32
  let es := (List.range 32).map (fun i => (BitVec.ofNat 64 (leNat (s.peek (table + 8 * (first + i)) 8)) : Word))
  let e0 := es.headD 0
  let base := ePA e0
  if base % 2097152 = 0 ∧ es.zipIdx.all (fun p => eV p.1 && eC p.1 && eLeaf p.1 && !eReserved p.1 3 &&
      decide (p.1.extractLsb' 2 5 = e0.extractLsb' 2 5) && decide (ePA p.1 = base + p.2 * 65536))
  then some base else none

/-- One level of the walk (R353); `n` levels remain. -/
def State.walkFrom (s : State) (ctx : Nat) (tag : Tag) (va : Word) (k : AccKind) : Nat → Nat → Nat → Except PageFault Xlat
  | 0, lv, _ => .error ⟨va, 0x03, k, lv, 0, 8⟩
  | n + 1, lv, t =>
    let ea := t + 8 * walkIndex lv va
    if s.frameCheck 0 ea ≠ none then .error ⟨va, 0x0A, k, lv, 0, 8⟩
    else
      let e : Word := BitVec.ofNat 64 (leNat (s.peek ea 8))
      if !eV e then .error ⟨va, 0x01, k, lv, e, 8⟩
      else if eReserved e lv then .error ⟨va, 0x03, k, lv, e, 8⟩
      else if eLeaf e then
        if !eRights e k then .error ⟨va, 0x02, k, lv, e, 8⟩
        else if isWrite k && eGT e then .error ⟨va, 0x07, k, lv, e, 8⟩
        else
          let size := if lv = 2 then 67108864 else 65536
          let pa := ePA e + va.toNat % size
          if !inRegion pa then .error ⟨va, 0x0A, k, lv, e, 8⟩
          else
            let (sz, base) :=
              if lv = 3 then
                match s.group2M t (walkIndex 3 va) with
                | some b => (2097152, b)
                | none => (size, ePA e)
              else (size, ePA e)
            .ok { pa := pa
                  entry := { tag := tag, va := va.toNat / sz * sz, size := sz, pa := base, r := eR e
                             w := eW e && !eGT e, x := eX e, win := none } }
      else State.walkFrom s ctx tag va k n (lv + 1) (ePA e)

/-- The walk of a context's shadow table (R353). -/
def State.walk (s : State) (ctx : Nat) (va : Word) (k : AccKind) : Except PageFault Xlat :=
  s.walkFrom ctx (s.tagOf ctx) va k 3 1 (s.ctx ctx).desc.sroot.toNat

/-- The entries that a walk reads, with the group around a level-3 leaf (R353, R354). -/
def State.walkReads (s : State) (va : Word) : Nat → Nat → Nat → List (Nat × Nat)
  | 0, _, _ => []
  | n + 1, lv, t =>
    let ea := t + 8 * walkIndex lv va
    if s.frameCheck 0 ea ≠ none then []
    else
      let e : Word := BitVec.ofNat 64 (leNat (s.peek ea 8))
      (ea, 8) :: (if !eV e || eReserved e lv then []
        else if eLeaf e then (if lv = 3 then [(t + 256 * (walkIndex 3 va / 32), 256)] else [])
        else State.walkReads s va n (lv + 1) (ePA e))
/-- The pending blocks that a walk reads are rewritten first (R372). -/
def State.settleWalk (s : State) (ctx : Nat) (va : Word) : State :=
  if allDies.all (fun d => (s.die d).walks.isEmpty && (s.die d).waitWalks.isEmpty) then s
  else (s.walkReads va 3 1 (s.ctx ctx).desc.sroot.toNat).foldl (fun s p => s.settleRange p.1 p.2) s

/-! ### Sealed code (R84, R85) -/

/-- A sealed page stands in a frame: the one in which it was verified, or the one that its entry maps now (R85). -/
def State.pageIn (s : State) (ctx : Nat) (p : SealedPage) (n : Nat) : Bool :=
  if p.verified then decide (p.frame = n)
  else
    match s.walk ctx p.va .fetch with
    | .ok x => decide (x.pa / frameBytes = n)
    | .error _ => false
/-- A frame number holds sealed code of its owner. -/
def State.sealed (s : State) (n : Nat) : Bool :=
  let c := s.ctx (s.frame n).owner
  decide (c.st ≠ .importing) && c.kernels.toList.any (fun k => k.pages.any (fun p => s.pageIn (s.frame n).owner p n))
/-- An address of a context lies in a sealed page. -/
def State.sealedVa (s : State) (ctx : Nat) (va : Word) : Bool :=
  decide ((s.ctx ctx).st ≠ .importing) &&
    (s.ctx ctx).kernels.toList.any (fun k => k.pages.any (fun p => decide (p.va.toNat / 65536 = va.toNat / 65536)))

/-- A TLB entry serves an access (R358): full tag, range, and the rights it holds. -/
def TlbEntry.serves (e : TlbEntry) (tag : Tag) (va : Nat) (k : AccKind) : Bool :=
  decide (e.tag = tag) && decide (e.va ≤ va ∧ va < e.va + e.size) &&
    (match k with
     | .read => e.r
     | .write => e.w
     | .fetch => e.x
     | .atomic => e.r && e.w)

/-- A TLB filled with an entry; the oldest entry leaves a full one (DESIGN CHOICE, log 9). -/
def tlbFill (cap : Nat) (l : List TlbEntry) (e : TlbEntry) : List TlbEntry :=
  (e :: l.filter (fun f => decide (f ≠ e))).take cap

/-- An address lies in a host window of a context (R397). -/
def Ctx.hostWin (c : Ctx) (va : Word) : Option HWin :=
  (c.hwins.toList.filterMap id).find? (fun w => decide (w.base.toNat ≤ va.toNat ∧ va.toNat < w.base.toNat + w.len.toNat))

/-- An address of a peer lies in a window that has been revoked (R47). -/
def State.revokedAt (s : State) (ctx : Nat) (va : Word) : Bool :=
  s.windows.any (fun w => w.revoking && decide (tagCtx w.peer = ctx) &&
    (match w.peerBase with
     | some b => decide (b.toNat ≤ va.toNat ∧ va.toNat < b.toNat + w.len.toNat)
     | none => false))

/-- The first TLB entry that serves an access. -/
def tlbHit (l : List TlbEntry) (tag : Tag) (va : Word) (k : AccKind) : Option TlbEntry :=
  l.find? (fun e => e.serves tag va.toNat k)

/-- Translation and rights of one address of a context (R206, R353): the first of some TLBs that serves it, else a walk, whose entry
`fill` takes; then the frame check (R363), the seal (R84) and the host windows (R397). -/
def State.xlate (s : State) (ctx : Nat) (tlbs : List (List TlbEntry)) (fill : TlbEntry → State → State) (va : Word) (k : AccKind)
    (size : Nat) : Except PageFault Nat × State :=
  if va.toNat / 2 ^ 52 ≠ 0 then (.error ⟨va, 0x04, k, 0, 0, size⟩, s)
  else if ((s.ctx ctx).hostWin va).isSome then (.error ⟨va, 0x02, k, 0, 0, size⟩, s)
  else
    let (found, s) : Except PageFault Xlat × State :=
      match tlbs.findSome? (fun l => tlbHit l (s.tagOf ctx) va k) with
      | some e => (.ok ⟨va.toNat - e.va + e.pa, e⟩, s)
      | none => (s.walk ctx va k, s.settleWalk ctx va)
    match found with
    | .error f =>
      (.error { f with size := size, detail := if f.detail = 0x01 ∧ s.revokedAt ctx va then 0x06 else f.detail }, s)
    | .ok x =>
      let s := fill x.entry s
      match s.frameCheck ctx x.pa with
      | some d =>
        (.error ⟨va, if d = 0x09 ∧ s.revokedAt ctx va then 0x06 else d, k, 0, 0, size⟩, s)
      | none =>
        if isWrite k && (s.sealedVa ctx va || s.sealed (x.pa / frameBytes)) then (.error ⟨va, 0x05, k, 0, 0, size⟩, s)
        else (.ok x.pa, s)

/-- Translation through the micro-TLB of a core, when one is named, and the last-level TLB of a die (R358). -/
def State.translate (s : State) (ctx : Nat) (die : BitVec 2) (core : Option CoreIx) (va : Word) (k : AccKind)
    (size : Nat) : Except PageFault Nat × State :=
  let micro := match core with
    | some c => (s.core c).utlb
    | none => []
  s.xlate ctx [micro, (s.die die).ltlb] (fun x s =>
    let s := s.modDie die (fun d => { d with ltlb := tlbFill 16384 d.ltlb x })
    match core with
    | some c => s.modCore c (fun q => { q with utlb := tlbFill 64 q.utlb x })
    | none => s) va k size

/-- The physical addresses of `n` bytes from a virtual address under a translation: each page touched is translated once; the first
fault stands. -/
def xlateRange (xl : State → Word → Except PageFault Nat × State) (s : State) (va : Word) (n : Nat) :
    Except PageFault (List (Nat × Nat)) × State :=
  let first := va.toNat / 65536
  let count := if n = 0 then 0 else (va.toNat + n - 1) / 65536 - first + 1
  (List.range count).foldl (fun (acc : Except PageFault (List (Nat × Nat)) × State) i =>
    match acc with
    | (.error f, s) => (.error f, s)
    | (.ok l, s) =>
      let lo := max va.toNat ((first + i) * 65536)
      let hi := min (va.toNat + n) ((first + i + 1) * 65536)
      match xl s (BitVec.ofNat 64 lo) with
      | (.error f, s) => (.error f, s)
      | (.ok pa, s) => (.ok (l ++ [(pa, hi - lo)]), s)) (.ok [], s)

/-- The physical addresses of `n` bytes, through the TLBs of a die and a core. -/
def State.translateRange (s : State) (ctx : Nat) (die : BitVec 2) (core : Option CoreIx) (va : Word) (k : AccKind)
    (n : Nat) : Except PageFault (List (Nat × Nat)) × State :=
  xlateRange (fun s v => s.translate ctx die core v k n) s va n

/-! ### Routes between dies (R19, R385, R387) -/

/-- The die link that joins two dies (Table 1.4). -/
def dieLink (a b : BitVec 2) : Nat :=
  match min a.toNat b.toNat, max a.toNat b.toNat with
  | 0, 1 => 0
  | 2, 3 => 1
  | 0, 2 => 2
  | 1, 3 => 3
  | 0, 3 => 4
  | _, _ => 5
/-- A link by its place among the 20: die links 0 to 5, package link ports 6 to 17, Ethernet ports 18 and 19. -/
def State.link (s : State) (i : Nat) : LinkRec := (s.links[i]?).getD LinkRec.reset
def State.modLink (s : State) (i : Nat) (f : LinkRec → LinkRec) : State :=
  if h : i < 20 then { s with links := s.links.set i (f (s.link i)) h } else s
/-- A link carries traffic: UP or DEGRADED. -/
def LinkSt.carries (t : LinkSt) : Bool := decide (t = .up) || decide (t = .degraded)
/-- The third die through which a die route is detoured (R385): the lowest whose links to both ends carry traffic. -/
def State.thirdDie (s : State) (a b : BitVec 2) : Option (BitVec 2) :=
  allDies.find? (fun c => decide (c ≠ a ∧ c ≠ b) && (s.link (dieLink a c)).st.carries && (s.link (dieLink c b)).st.carries)
/-- A route exists between two dies: their link has not failed, or a third die carries the detour. -/
def State.dieReach (s : State) (a b : BitVec 2) : Bool :=
  decide (a = b) ||
    (match (s.link (dieLink a b)).st with
     | .down => false
     | .retired => false
     | .detour => false
     | _ => true) || (s.thirdDie a b).isSome
/-- An access of a core to a physical address finds no route (R387): whether it has waited its 100 ms, and so ends. -/
def State.cut (s : State) (c : CoreIx) (pa : Nat) : Option Bool :=
  if s.dieReach (dieOf c) (homeDie pa) then none else some ((s.die (dieOf c)).unreach.getLsbD (homeDie pa).toNat)
/-- The home die of an address of a context, where its page is mapped. -/
def State.dieHome (s : State) (n : Nat) (va : Word) : Option (BitVec 2) :=
  [.read, .write, .fetch].findSome? (fun k => match s.walk n va k with
    | .ok x => some (homeDie x.pa)
    | .error _ => none)
/-- An access of a context from a die finds no route (R387): whether it has waited its 100 ms, and so ends. -/
def State.cutFrom (s : State) (d : BitVec 2) (n : Nat) (va : Word) : Option Bool :=
  if allDies.all (fun e => s.dieReach d e) then none
  else ((s.dieHome n va).filter (fun e => !s.dieReach d e)).map (fun e => (s.die d).unreach.getLsbD e.toNat)
/-- The same for a core. -/
def State.cutAt (s : State) (c : CoreIx) (va : Word) : Option Bool := s.cutFrom (dieOf c) (s.ctxOf c) va

/-- The bytes of physical pieces, in order. -/
def State.readPieces (s : State) : List (Nat × Nat) → List Byte × State
  | [] => ([], s)
  | (pa, n) :: r =>
    let (a, s) := s.getMem pa n
    let (b, s) := State.readPieces s r
    (a ++ b, s)

/-- Bytes written to physical pieces, in order. -/
def State.writePieces (s : State) : List (Nat × Nat) → List Byte → State
  | [], _ => s
  | (pa, n) :: r, bs => State.writePieces (s.putMem pa (bs.take n)) r (bs.drop n)

/-- Translation in the own TLB of a die's stream engine, whose misses the engine walks itself (R25, R358). -/
def State.streamXlat (s : State) (ctx : Nat) (die : BitVec 2) (e : Nat) (va : Word) (k : AccKind) (n : Nat) : Except PageFault Nat × State :=
  s.xlate ctx [((s.die die).stlb[e % 12]!)] (fun x s =>
    s.modDie die (fun d => { d with stlb := d.stlb.set (e % 12) (tlbFill 1024 (d.stlb[e % 12]!) x) (Nat.mod_lt _ (by decide)) })) va k n
def State.engineRange (s : State) (ctx : Nat) (die : BitVec 2) (e : Nat) (va : Word) (k : AccKind) (n : Nat) :
    Except PageFault (List (Nat × Nat)) × State :=
  xlateRange (fun s v => s.streamXlat ctx die e v k n) s va n

/-- A read of a virtual range of a context. -/
def State.readVa (s : State) (ctx : Nat) (die : BitVec 2) (core : Option CoreIx) (va : Word) (n : Nat) :
    Except PageFault (List Byte) × State :=
  match s.translateRange ctx die core va .read n with
  | (.error f, s) => (.error f, s)
  | (.ok ps, s) =>
    let (bs, s) := s.readPieces ps
    (.ok bs, s)

/-- A write of a virtual range of a context. -/
def State.writeVa (s : State) (ctx : Nat) (die : BitVec 2) (core : Option CoreIx) (va : Word) (bs : List Byte) :
    Except PageFault Unit × State :=
  match s.translateRange ctx die core va .write bs.length with
  | (.error f, s) => (.error f, s)
  | (.ok ps, s) => (.ok (), s.writePieces ps bs)

/-- Every TLB entry of a tag (or of every tag) that overlaps a range removed, in every TLB and walker cache (R359,
R360). -/
def State.tlbDrop (s : State) (tag : Option Tag) (lo hi : Nat) : State :=
  let keep (e : TlbEntry) : Bool :=
    !((match tag with
       | some t => decide (e.tag = t)
       | none => true) && decide (e.va < hi ∧ lo < e.va + e.size))
  let keepW (e : Tag × Nat × Nat) : Bool :=
    !(match tag with
      | some t => decide (e.1 = t)
      | none => true)
  { s with
    cores := s.cores.map (fun k => { k with utlb := k.utlb.filter keep })
    dies := s.dies.map (fun d =>
      { d with ltlb := d.ltlb.filter keep, walkc := d.walkc.filter keepW, stlb := d.stlb.map (fun l => l.filter keep) }) }

end Sys2Proof.Machine
end

