-- ==== Sys2Proof/Machine/Messages.lean ====
section
/-! DEFINITION. What the package sends (18_link, R388 to R394) and records: messages on flows, events of contexts and of
the system context, the event queue (R78), queue errors (R71), fault records (R374). -/

namespace Sys2Proof.Machine

/-- Bits of a SACK field from the sequences held past a gap (Table 18.4): bit b stands for ack + 2 + b, that is rx + 1 + b. -/
def sackBits (rx : Nat) (held : List Nat) : BitVec 64 :=
  (List.range 64).foldl (fun w b => if held.contains (rx + 1 + b) then w ||| (1#64 <<< b) else w) 0
/-- The acknowledgement field: the highest sequence received in order, modulo 2^32 (Table 18.4). -/
def Flow.ackField (f : Flow) : Nat := (f.rx + 2 ^ 32 - 1) % 2 ^ 32

def State.flow (s : State) (p : EthPort) (n : BitVec 10) : Option Flow :=
  s.flows.find? (fun f => decide (f.port = p ∧ f.no = n))
def State.modFlow (s : State) (p : EthPort) (n : BitVec 10) (g : Flow → Flow) : State :=
  { s with flows := s.flows.map (fun f => if f.port = p ∧ f.no = n then g f else f) }

/-! ### Host-link budgets (R48 to R51, R400) -/

/-- The class of a device message (Table 18.5): 0 read, 1 write, 2 translation. -/
def Msg.cls : Msg → Option Nat
  | .ack => none
  | .appendDone _ _ => some 1
  | .readReq _ _ _ => some 0
  | .readData _ _ _ _ => some 0
  | .writeReq _ _ _ => some 1
  | .writeDone _ _ _ => some 1
  | .xlateResp _ _ => some 2
  | .xnote _ _ => some 2
  | .cmdDone _ _ _ _ _ _ _ _ => some 1
  | .event _ => some 0
/-- Payload bytes of a device message (Table 18.5). -/
def Msg.payload : Msg → Nat
  | .ack => 0
  | .appendDone _ _ => 0
  | .readReq _ _ _ => 8
  | .readData _ _ _ d => d.length
  | .writeReq _ _ d => 8 + d.length
  | .writeDone _ _ _ => 0
  | .xlateResp _ p => p.length
  | .xnote _ _ => 4
  | .cmdDone _ _ _ _ _ _ _ r => 8 + r.length
  | .event r => r.length


/-! ### The datagram of a device message (R389) -/

/-- The type of a device message (Table 18.5). -/
def Msg.type : Msg → Nat
  | .ack => 0x00
  | .appendDone _ _ => 0x02
  | .readReq _ _ _ => 0x03
  | .readData _ _ _ _ => 0x04
  | .writeReq _ _ _ => 0x05
  | .writeDone _ _ _ => 0x06
  | .xlateResp _ _ => 0x08
  | .xnote _ _ => 0x09
  | .cmdDone _ _ _ _ _ _ _ _ => 0x0B
  | .event _ => 0x0C
/-- The Operand field (Table 18.5). The byte offset that a WRITE_DONE carries with a fault (R395) stands where READ_DATA has it (log 28). -/
def Msg.operand : Msg → Nat
  | .appendDone st first => st.toNat + 2 ^ 16 * first.toNat
  | .readReq va _ _ => va.toNat
  | .readData id st off _ => id.toNat + 2 ^ 32 * st.toNat + 2 ^ 40 * off
  | .writeReq va _ _ => va.toNat
  | .writeDone id st off => id.toNat + 2 ^ 32 * st.toNat + 2 ^ 40 * off
  | .xlateResp va _ => va.toNat
  | .xnote va _ => va.toNat
  | .cmdDone _ _ _ _ _ off last _ => off + 2 ^ 32 * last.toNat
  | _ => 0
/-- The payload (Table 18.5). -/
def Msg.body : Msg → List Byte
  | .readReq _ n id => leBytes 4 n ++ leBytes 4 id.toNat
  | .readData _ _ _ d => d
  | .writeReq _ id d => leBytes 4 id.toNat ++ leBytes 4 0 ++ d
  | .xlateResp _ p => p
  | .xnote _ n => leBytes 4 n
  | .cmdDone code ctx st detail id _ _ r => [code, ctx, st, detail] ++ leBytes 4 id.toNat ++ r
  | .event r => r
  | _ => []
/-- The 32-byte header (Table 18.4). -/
def OutMsg.header (o : OutMsg) : List Byte :=
  [1, BitVec.ofNat 8 o.msg.type] ++ leBytes 2 o.msg.body.length ++ leBytes 2 o.flow.toNat ++ leBytes 2 o.tag.toNat ++ leBytes 4 o.seq ++
    leBytes 4 o.ack ++ leBytes 8 o.sack.toNat ++ leBytes 8 o.msg.operand
/-- The 96-bit IV of a message (R389): flow, direction, ACK, header bytes 8 to 11, the first most significant. -/
def thtIv (flow : BitVec 10) (fromDevice ack : Bool) (hdr : List Byte) : BitVec 96 :=
  flow.setWidth 16 ++ BitVec.ofBool fromDevice ++ BitVec.ofBool ack ++ (0 : BitVec 14) ++
    BitVec.ofNat 32 (leNat ((hdr.drop 8).take 4).reverse) ++ (0 : BitVec 32)
/-- The datagram: header, encrypted payload and tag under the flow's key. -/
def OutMsg.datagram (key : BitVec 256) (o : OutMsg) : List Byte :=
  let (c, t) := gcmSeal key (thtIv o.flow true (decide (o.msg = .ack)) o.header) o.header o.msg.body
  o.header ++ c ++ t

/-- Port A is 0, port B is 1; A lies on die 0, B on die 3 (R27). -/
def portIx : EthPort → Fin 2
  | .a => 0
  | .b => 1
def portDie : EthPort → BitVec 2
  | .a => 0
  | .b => 3
def State.port (s : State) (p : EthPort) : Port := s.ports[portIx p]
def State.modPort (s : State) (p : EthPort) (f : Port → Port) : State :=
  { s with ports := s.ports.set (portIx p) (f (s.port p)) }

/-- The configured budgets of a descriptor on a port: minimum and cap of each class (Table 2.1). -/
def Desc.budgetOn (d : Desc) (p : EthPort) : List Nat := ((d.budget.drop (6 * (portIx p).val)).take 6).map BitVec.toNat
/-- The configured minima of a descriptor on a port. -/
def Desc.minimaOn (d : Desc) (p : EthPort) : List Nat := [0, 2, 4].map (fun i => (d.budgetOn p).getD i 0)
/-- The budgets in force of a context on a port. -/
def State.inForce (s : State) (p : EthPort) (n : Nat) : List Nat := ((s.port p).minima.lookup n).getD ((s.ctx n).desc.budgetOn p)
/-- Bytes counted in the window for a context and class (R48). -/
def State.usedBytes (s : State) (p : EthPort) (n k : Nat) : Nat :=
  (((s.port p).used.lookup n).map (fun v => (v[k]?).getD 0)).getD 0
/-- A context is below its cap in a class (R49); the system context and flow 0 are outside the budgets (R49, R400). -/
def State.underCap (s : State) (p : EthPort) (n : Nat) (cls : Option Nat) : Bool :=
  match cls with
  | none => true
  | some k => decide (n = 0) || decide (s.usedBytes p n k < (s.inForce p n).getD (2 * k + 1) 0)
/-- Payload bytes counted (R48, R400). -/
def State.countBytes (s : State) (p : EthPort) (n : Nat) (cls : Option Nat) (bytes : Nat) : State :=
  match cls with
  | none => s
  | some k =>
    if n = 0 then s
    else
      let old := ((s.port p).used.lookup n).getD (Vector.replicate 3 0)
      s.modPort p (fun q => { q with used := (n, old.set! k (s.usedBytes p n k + bytes)) :: q.used.filter (fun e => decide (e.1 ≠ n)) })

/-- A message leaves on a flow, counted (R389, R392, R400): it takes the next sequence, carries the acknowledgement, and is kept until it
is acknowledged. A flow whose sequence has reached its end carries nothing more (R393). An ACK takes no sequence; it carries the count of ACKs. -/
def State.transmit (s : State) (p : EthPort) (n : BitVec 10) (m : Msg) : State :=
  match s.flow p n with
  | none => s
  | some f =>
    if 0xFFFFFFFF ≤ f.tx ∧ m ≠ .ack then s else
    let o (seq : Nat) : OutMsg :=
      { port := p, flow := n, seq := seq, tag := s.tagOf f.ctx, ack := f.ackField
        sack := sackBits f.rx (f.held.map Prod.fst), msg := m }
    let s := s.countBytes p f.ctx m.cls m.payload
    match m with
    | .ack => ({ s with out := s.out ++ [o (f.acks + 1)] } : State).modFlow p n (fun f => { f with acks := f.acks + 1, pendAck := 0 })
    | _ => ({ s with out := s.out ++ [o f.tx] } : State).modFlow p n (fun f =>
        { f with tx := f.tx + 1, unacked := f.unacked ++ [o f.tx], pendAck := 0 })

/-- A message sent on a flow, with the parts that follow it in sequence (R390): they leave, or wait for their budget (R49, R400). -/
def State.send (s : State) (p : EthPort) (n : BitVec 10) (m : Msg) (rest : List Msg := []) : State :=
  match s.flow p n with
  | none => s
  | some f =>
    if s.underCap p f.ctx m.cls then (m :: rest).foldl (fun s m => s.transmit p n m) s
    else { s with waitOut := s.waitOut ++ [{ port := p, flow := n, msg := m, rest := rest }] }

/-- The parts of a completion's results (R390). -/
def resultParts : Nat → Nat → List Byte → List (Nat × Bool × List Byte)
  | 0, _, _ => []
  | n + 1, off, bs =>
    if bs.length ≤ 1016 then [(off, true, bs)]
    else (off, false, bs.take 1016) :: resultParts n (off + 1016) (bs.drop 1016)

/-- The completion of a command, on the flow that carried it, its parts consecutive in sequence (R37, R390, R394). -/
def State.reply (s : State) (h : CmdHdr) (code : Nat) (status : Nat) (detail : Nat := 0) (results : List Byte := []) :
    State :=
  let part (p : Nat × Bool × List Byte) : Msg :=
    .cmdDone (BitVec.ofNat 8 code) h.target (BitVec.ofNat 8 status) (BitVec.ofNat 8 detail) h.id p.1 p.2.1 p.2.2
  match resultParts (results.length / 1016 + 1) 0 results with
  | [] => s
  | p :: ps => s.send h.hdr.port h.hdr.flow (part p) (ps.map part)

/-- The 64-byte record of an event (R78). -/
def Event.bytes (e : Event) : List Byte :=
  leBytes 2 e.code.toNat ++ leBytes 2 e.tag.toNat ++ leBytes 4 0 ++ leBytes 8 e.seq.toNat ++
    (e.data ++ List.replicate 48 0).take 48

/-- The flow on which a context's events go (R394): for the system context flow 0, port A before port B; for a tenant
its first open flow whose host is evhost. -/
def State.eventFlow (s : State) (ctx : Nat) : Option Flow :=
  let ok (p : EthPort) (f : Flow) : Bool :=
    decide (f.port = p ∧ f.ctx = ctx) &&
      (if ctx = 0 then decide (f.no = 0) else decide (f.ip = (s.ctx ctx).desc.evhost))
  match s.flows.find? (ok .a) with
  | some f => some f
  | none => s.flows.find? (ok .b)

/-- An event sent on the context's flow, or kept for the retry of R59. -/
def State.deliverEvent (s : State) (ctx : Nat) (e : Event) : State :=
  match s.eventFlow ctx with
  | some f => s.send f.port f.no (.event e.bytes)
  | none => s.modCtx ctx (fun c => { c with events := c.events ++ [e] })

/-! ### Rings (R62) -/

/-- The pages of a range of a context as its table maps them for a kind of access: the physical address of the first byte of the range in
each. -/
def State.mapPages (s : State) (n : Nat) (va : Word) (len : Nat) (k : AccKind) : List (Option Nat) :=
  (List.range ((va.toNat + len - 1) / 65536 - va.toNat / 65536 + 1)).map (fun i =>
    let a := if i = 0 then va else BitVec.ofNat 64 ((va.toNat / 65536 + i) * 65536)
    if a.toNat / 2 ^ 52 ≠ 0 ∨ ((s.ctx n).hostWin a).isSome then none
    else
      match s.walk n a k with
      | .ok x => some x.pa
      | .error _ => none)

/-- The mapping of the ring of a queue (R62): its pages, mapped readable and writable (log 140). -/
def State.ringPages (s : State) (n : Nat) (r : QRec) : List (Option Nat) := s.mapPages n r.ring (2 ^ (r.s + 6)) .atomic

/-- A mapping is whole, and every page of it serves the context. -/
def State.pagesServe (s : State) (n : Nat) (l : List (Option Nat)) : Bool :=
  l.all (fun p => (p.map (fun a => decide (s.frameCheck n a = none))).getD false)

/-- The pages of an open ring that have no translation, as after a change of its mapping (R62) or an import (R98), are walked again. -/
def State.mapRing (s : State) (n q : Nat) : State :=
  let r := s.queue n q
  if r.st = .closed ∨ (!r.ringPa.isEmpty && r.ringPa.all Option.isSome) = true then s
  else s.modQueue n q (fun r => { r with ringPa := (s.ringPages n r).zipIdx.map (fun p => (r.ringPa.getD p.2 none).or p.1) })

/-- The physical address of ring slot of a sequence, where its page is translated (R61, R62). -/
def QRec.slotPa (q : QRec) (n : Nat) : Option Nat :=
  let off := n % 2 ^ q.s * 64
  (q.ringPa.getD (off / 65536) none).map (fun a => a + off % 65536)

/-- The slot of a sequence, where its line serves the context (R62, R363). -/
def State.slotAt (s : State) (n q seq : Nat) : Option Nat := ((s.queue n q).slotPa seq).filter (fun a => decide (s.frameCheck n a = none))

/-- Bytes accepted for the slot of a sequence: written, or kept by the queue unit while the slot has no translation or its line refuses the
write (log 123). What was kept for the slot's last use is dropped. -/
def State.ringWrite (s : State) (n q seq : Nat) (bs : List Byte) : State :=
  let s := s.modQueue n q (fun r => { r with kept := r.kept.filter (fun p => decide (p.1 % 2 ^ r.s ≠ seq % 2 ^ r.s)) })
  match (s.slotAt n q seq).filter (fun a => !s.sealed (a / frameBytes)) with
  | some a => s.putMem a bs
  | none => s.modQueue n q (fun r => { r with kept := r.kept ++ [(seq, bs)] })

/-- What the slot of a sequence holds, where it can be read. -/
def State.ringRead (s : State) (n q seq : Nat) : Option (List Byte) :=
  ((s.queue n q).kept.lookup seq).or ((s.slotAt n q seq).map (fun a => s.peek a 64))

/-- What a queue unit kept is written where its slot has come to take it. -/
def State.writeKept (s : State) (n q : Nat) : State :=
  if (s.queue n q).kept.isEmpty then s
  else
    let s := s.mapRing n q
    (s.queue n q).kept.foldl (fun s p => s.ringWrite n q p.1 p.2) s

/-- An event written to the context's event queue when one is open (R78). The first record takes it from EMPTY to ACTIVE, as an APPEND does a work
queue (log 120). -/
def State.eventQueue (s : State) (ctx : Nat) (e : Event) : State :=
  match (List.range 64).find? (fun i => (s.queue ctx i).event && decide ((s.queue ctx i).st ≠ .closed)) with
  | none => s
  | some i =>
    let s := s.mapRing ctx i
    let q := s.queue ctx i
    if q.a - q.consumed = 2 ^ q.s then s.modQueue ctx i (fun q => { q with overflow := q.overflow + 1 })
    else
      (s.ringWrite ctx i q.a e.bytes).modQueue ctx i (fun q => { q with a := q.a + 1, st := if q.st = .empty then .active else q.st })

/-- An event of a context: the next sequence, the event queue, the event host (R59, R78, R394). -/
def State.event (s : State) (ctx code : Nat) (data : List Byte) : State :=
  let sq := (s.ctx ctx).evSeq + 1
  let s := s.modCtx ctx (fun c => { c with evSeq := sq })
  let e : Event := { code := BitVec.ofNat 16 code, tag := s.tagOf ctx, seq := sq, data := data }
  (if ctx = 0 then s else s.eventQueue ctx e).deliverEvent ctx e

/-- Event data: bytes 16 to 63 of the record, from fields at record offsets (R78). -/
def evData (fs : List (Nat × List Byte)) : List Byte :=
  fs.foldl (fun d f => setBytes d (f.1 - 16) f.2) (List.replicate 48 0)

/-- A queue enters ERROR: code and sequence recorded, QUEUE_ERROR sent (Table 3.3, R78). `head` says that the head of
the queue failed a check, rather than an entry that was dispatched. -/
def State.queueError (s : State) (ctx q code seq : Nat) (head : Bool) : State :=
  let s := s.modQueue ctx q (fun r =>
    { r with st := if r.st = .held then .held else .error, heldFrom := .error, errCode := BitVec.ofNat 8 code
             errSeq := seq, errHead := head })
  s.event ctx 0x07 (evData [(16, leBytes 2 q), (18, leBytes 2 code), (24, leBytes 8 seq)])

/-- A state-changed queue re-evaluated: EMPTY when D = A, else ACTIVE (Table 3.3). -/
def QRec.wake (r : QRec) : QRec :=
  if r.st = .empty ∨ r.st = .active ∨ r.st = .blocked then { r with st := if r.d = r.a then .empty else .active }
  else r

/-! ### The head of a queue (R66, R71, R74) -/

/-- The head entry of a queue, where it can be read. -/
def State.headEntry (s : State) (n q : Nat) : Option (List Byte) := s.ringRead n q (s.queue n q).d
/-- Its bytes. -/
def State.headBytes (s : State) (n q : Nat) : List Byte := (s.headEntry n q).getD (List.replicate 64 0)

/-- The counts that a QFENCE at the head of a queue records (R74): every entry before it of its own queue, and A of each open queue that it
names. -/
def State.fenceCounts (s : State) (n q : Nat) (b : List Byte) : List (Nat × Nat) :=
  let m := fieldAt b 8 8
  let named := (List.range 64).filter (fun i => decide (i ≠ q) && m.testBit i && decide (i < (s.ctx n).desc.qmax.toNat) &&
    decide ((s.queue n i).st ≠ .closed))
  (q, (s.queue n q).d) :: named.map (fun i => (i, (s.queue n i).a))

/-- An entry that stands at the head for the first time has reached it (R71): a QFENCE records its counts. -/
def State.headArrives (s : State) (n q : Nat) : State :=
  let r := s.queue n q
  if r.head.isSome ∨ r.d = r.a ∨ r.event ∨ (s.headEntry n q).isNone then s
  else
    let b := s.headBytes n q
    s.modQueue n q (fun r => { r with head := some (if byteAt b 0 = 0x83 then s.fenceCounts n q b else []), headOk := false })

/-- The head has left its place: the next entry, if there is one, has reached it. -/
def State.headLeaves (s : State) (n q : Nat) : State :=
  (s.modQueue n q (fun r => { r with head := none, headOk := false })).headArrives n q

/-- A LAUNCH of a kernel stands at a head, past its check (R87). -/
def State.headLaunch (s : State) (n : Nat) (handle : BitVec 32) : Bool :=
  (List.range 64).any (fun q => (s.queue n q).headOk && decide (byteAt (s.headBytes n q) 0 = 0x80) &&
    decide (BitVec.ofNat 32 (fieldAt (s.headBytes n q) 4 4) = handle))

/-- A queue closes (Table 3.3): its record is cleared, and it counts as met in every join that waits for it (R74). -/
def State.closeQueue (s : State) (n q : Nat) : State :=
  let met (l : List (Nat × Nat)) : List (Nat × Nat) := l.filter (fun p => decide (p.1 ≠ q))
  let s := s.modQueue n q (fun _ => QRec.closed)
  s.modCtx n (fun c => { c with queues := c.queues.map (fun r => { r with join := met r.join, head := r.head.map met }) })

/-- An entry of a queue completes (R70, R72): C advances, its completion add is made, NOTIFY sends ENTRY_DONE. -/
def State.entryDone (s : State) (ctx q : Nat) (e : InFlight) (add : Bool) : State :=
  let s := s.modQueue ctx q (fun r =>
    ({ r with c := r.c + 1, inflight := r.inflight.filter (fun f => decide (f.seq ≠ e.seq)) } : QRec).wake)
  let r := s.queue ctx q
  let s := if r.st = .draining ∧ r.c = r.d then s.closeQueue ctx q else s
  let v := fieldAt e.bytes 54 2
  let s := if add ∧ v ≠ 0 then s.addCounter ctx (byteAt e.bytes 52) (BitVec.ofNat 64 v) else s
  if (byteAt e.bytes 1).getLsbD 1 then
    s.event ctx 0x08 (evData [(16, leBytes 2 q), (24, leBytes 8 e.seq), (32, [if add then 0 else 1])])
  else s

/-- An entry in flight: of a LAUNCH the one that its dispatch order names, so that groups of an earlier dispatch do not act on a retry. -/
def QRec.entry (r : QRec) (seq launch : Nat) : Option InFlight := r.inflight.find? (fun e => decide (e.seq = seq ∧ e.launch = launch))

/-- The dispatched work of an entry ended in a fault (R71): the entry is held as faulted; the queue enters ERROR with
WORKFAULT unless it is already in ERROR; a DRAINING queue counts it complete. -/
def State.workFault (s : State) (ctx q seq launch : Nat) : State :=
  let r := s.queue ctx q
  match (r.entry seq launch).filter (fun e => !e.faulted) with
  | none => s
  | some e =>
    if r.st = .draining then s.entryDone ctx q e false
    else
      let s := s.modQueue ctx q (fun r =>
        { r with inflight := r.inflight.map (fun e => if e.seq = seq then { e with faulted := true } else e) })
      if r.st = .error ∨ (r.st = .held ∧ r.heldFrom = .error) then s else s.queueError ctx q 7 seq false

/-- The code of a kind of access in a record (Table 17.4). -/
def accCode : AccKind → Nat
  | .read => 0
  | .write => 1
  | .fetch => 2
  | .atomic => 3

/-- The 64 bytes of a fault record (Table 17.4). -/
def faultBytes (r : FaultRec) (f : PageFault) (tag : Tag) (coreid : Nat) (whr : Word) : List Byte :=
  leBytes 2 (0x80 + f.detail.toNat) ++ leBytes 1 f.detail.toNat ++ leBytes 1 f.level ++ leBytes 2 tag.toNat ++
    leBytes 1 (accCode f.kind) ++ leBytes 1 r.agent.toNat ++ leBytes 8 f.va.toNat ++ leBytes 8 f.value.toNat ++
    leBytes 2 f.size ++ leBytes 2 coreid ++ leBytes 4 0 ++ leBytes 8 whr.toNat ++ leBytes 8 r.seq ++ leBytes 16 0

/-- The slot that the record of a sequence takes still holds an unanswered record (R374); before a ring is set no record waits. -/
def State.ringFull (s : State) (seq : Nat) : Bool :=
  match s.ring with
  | none => false
  | some (_, k) => s.faults.any (fun r => decide ((r.seq - 1) % 2 ^ k = (seq - 1) % 2 ^ k))

/-- A record written to the fault ring, with the FAULT event (R374, R408). Before FAULT_RING has set one, and in a frame
that context 0 no longer holds (R357), the record has nowhere to be written; its event is sent and it is answered as any other (log 22). -/
def State.writeFault (s : State) (r : FaultRec) (bytes : List Byte) : State :=
  let s := match s.ring with
    | none => s
    | some (pa, k) =>
      let a := pa + (r.seq - 1) % 2 ^ k * 64
      if s.frameCheck 0 a = none then s.putMem a bytes else s
  let s := { s with faults := s.faults ++ [r] }
  s.event 0 0x0C (evData [(16, leBytes 8 r.seq)])

/-- A translation or access-right fault is recorded (R374). With the ring full the record waits and its
agent with it. The answer is the record's sequence. -/
def State.recordFault (s : State) (r : FaultRec) (f : PageFault) (tag : Tag) (coreid : Nat) (whr : Word) : Nat × State :=
  let n := s.faultCount + 1
  let r := { r with seq := n, whr := whr }
  let s := { s with faultCount := n }
  let bytes := faultBytes r f tag coreid whr
  if s.ringFull n ∨ !s.faultWait.isEmpty then (n, { s with faultWait := s.faultWait ++ [(r, bytes)] })
  else (n, s.writeFault r bytes)

/-- The records of held stores that their homes have refused (R363, R374; log 132). -/
def State.recordRefused (s : State) : State :=
  s.refused.foldl (fun s r => (s.recordFault r.1 r.2 (s.tagOf r.1.ctx) ((s.coreid r.1.core).toNat % 65536) r.1.whr).2) { s with refused := [] }

/-- Records that wait for a ring slot are written as slots free (R374). -/
def State.drainFaults (s : State) : State :=
  match s.faultWait with
  | [] => s
  | (r, b) :: rest => if s.ringFull r.seq then s else ({ s with faultWait := rest }.writeFault r b)

/-- A corrected error of a unit (R409): counted by detail; at most one CORRECTED event a unit and millisecond. -/
def State.corrected (s : State) (unit d : Nat) : State :=
  let n := ((s.errCounts.find? (fun e => decide (e.1 = unit ∧ e.2.1 = d))).map (fun e => e.2.2)).getD 0 + 1
  let s := { s with errCounts := (unit, d, n % 2 ^ 32) :: s.errCounts.filter (fun e => decide (¬(e.1 = unit ∧ e.2.1 = d))) }
  if s.errSent.contains unit then s
  else
    ({ s with errSent := unit :: s.errSent } : State).event 0 0x0E
      (evData [(16, leBytes 2 (0x170 + d)), (18, leBytes 2 (unit % 65536)), (24, leBytes 4 n)])

/-! ### Capacity and pro-rata factor (R50, R51) -/

/-- Usable channels of a die (R24, R50): its three reserve channels cover the first three that retire. -/
def Die.channels (d : Die) : Nat := 93 - (d.retired - 3)
/-- Live clusters of a die. -/
def State.liveClusters (s : State) (d : BitVec 2) : Nat :=
  ((List.range 16).filter (fun i => !(s.cluster (BitVec.ofNat 6 (16 * d.toNat + i))).retired)).length
/-- Bits as a number, the first in bit 0. -/
def bitsNat : List Bool → Nat
  | [] => 0
  | b :: bs => b.toNat + 2 * bitsNat bs
/-- Bits of a list, the first in bit 0. -/
def bitsOf (l : List Bool) : Nat := bitsNat l
/-- Bytes 8 to 31 of the capacity record (Table 20.4). -/
def State.capFields (s : State) : List Byte :=
  let free (v : List Bool) : Nat := (v.filter id).length
  allDies.map (fun d => BitVec.ofNat 8 ((s.die d).felt.toNat + 2 * s.liveClusters d)) ++
    allDies.map (fun d => BitVec.ofNat 8 (free (s.die d).spares.toList)) ++
    allDies.flatMap (fun d => leBytes 2 (s.die d).hbmUnits) ++
    allDies.map (fun d => BitVec.ofNat 8 (free (s.die d).reserve.toList)) ++
    [BitVec.ofNat 8 (bitsOf ((List.range 6).map (fun i => (s.link i).st.carries)))] ++
    leBytes 2 (bitsOf ((List.range 12).map (fun i => decide ((s.link (6 + i)).st ≠ .retired)))) ++
    [BitVec.ofNat 8 (bitsOf ((List.range 2).map (fun i => decide ((s.link (18 + i)).st = .up))))]
/-- A change of the package: the generation count of the capacity record advances when a field has altered (R417;
a change of state of a link or port counts as one: log 131). -/
def State.recount (s t : State) : State :=
  if t.capFields = s.capFields then t else { t with boot := { t.boot with capGen := t.boot.capGen + 1 } }

/-- C of R50. -/
def State.capacity (s : State) (p : EthPort) : Nat :=
  min 95000000 (min (95000000 * (s.die (portDie p)).channels / 93) (95000000 * s.liveClusters (portDie p) / 16))
/-- Bound contexts. -/
def State.boundCtxs (s : State) : List Nat := ((List.range 64).map (· + 1)).filter (fun n => (s.ctx n).bound)
/-- S of R51. -/
def State.minimaSum (s : State) (p : EthPort) : Nat := (s.boundCtxs.flatMap (fun n => (s.ctx n).desc.minimaOn p)).sum
/-- The factor min(1, C / S) in 16 fractional bits (R51). -/
def factorOf (c sum : Nat) : BitVec 17 := if sum ≤ c then 0x10000 else BitVec.ofNat 17 (c * 65536 / sum)
/-- An enforced minimum (R51). -/
def enforced (c sum m : Nat) : Nat := if sum ≤ c then m else 64 * (m * c / (64 * sum))
/-- The budgets of a context on a port with its minima enforced under a capacity. -/
def State.budgetAt (s : State) (p : EthPort) (c n : Nat) : List Nat :=
  ((s.ctx n).desc.budgetOn p).mapIdx (fun i v => if i % 2 = 0 then enforced c (s.minimaSum p) v else v)

/-- The port recomputes (R51): the factor is published, the budgets in force stand until a boundary, and DEGRADED or RESTORED is sent to
each bound context (layout of the data: log 15). -/
def State.rebudget (s : State) (p : EthPort) (fell : Bool) : State :=
  let old := (s.port p).factor
  let c := s.capacity p
  let f := factorOf c (s.minimaSum p)
  let ns := s.boundCtxs
  let s := s.modPort p (fun q => { q with
    factor := f
    minima := q.minima ++ (ns.filter (fun n => (q.minima.lookup n).isNone)).map (fun n => (n, s.inForce p n)) })
  ns.foldl (fun s n =>
    let data := evData [(16, [BitVec.ofNat 8 (1 + (portIx p).val)]), (20, leBytes 4 f.toNat),
      (24, [0, 2, 4].flatMap (fun i => leBytes 4 ((s.budgetAt p c n).getD i 0)))]
    if f ≠ 0x10000 ∧ (fell ∨ f.toNat < old.toNat) then s.event n 0x01 data
    else if f = 0x10000 ∧ old ≠ 0x10000 then s.event n 0x02 data
    else s) s
/-- Both ports recompute as a context joins, changes or leaves them. -/
def State.rebudgets (s : State) : State := (s.rebudget .a false).rebudget .b false

/-- A context leaves its ports' budgets. -/
def State.dropBudget (s : State) (n : Nat) : State :=
  let drop (q : Port) : Port := { q with
    used := q.used.filter (fun e => decide (e.1 ≠ n)), minima := q.minima.filter (fun e => decide (e.1 ≠ n)) }
  (s.modPort .a drop).modPort .b drop

/-- The capacity that the port last reckoned with. -/
def Port.lastCap (q : Port) : Nat := (q.capNext.getLast?.map Prod.snd).getD q.cap

/-- A unit of a die has retired: a port there whose C changes recomputes, and the new minima apply from the second boundary (R51). -/
def State.capacityChanged (s : State) (d : BitVec 2) : State :=
  [EthPort.a, EthPort.b].foldl (fun s p =>
    let c := s.capacity p
    let old := (s.port p).lastCap
    if portDie p ≠ d ∨ c = old then s
    else (s.modPort p (fun q => { q with capNext := q.capNext ++ [(2, c)] })).rebudget p (decide (c < old))) s

end Sys2Proof.Machine
end

