-- ==== Sys2Proof/Machine/Groups.lean ====
section
/-! DEFINITION. Groups as the dispatcher and the queue see them (05_group, 15_barrier, R408): barrier phases, the end of
a group, the accounting of its LAUNCH and kernel. -/

namespace Sys2Proof.Machine

/-- Every core of the group is EXITED or has arrived at b (R325). -/
def State.barrierFull (s : State) (g : Group) (b : BitVec 4) : Bool :=
  g.cores.zipIdx.all (fun p => decide ((s.core p.1).ctl.st = .exited) || g.bar.arr.contains (b, p.2))

/-- A phase completed: arrivals cleared, the phase count advanced (R325). -/
def Barrier.complete (r : Barrier) (b : BitVec 4) : Barrier :=
  { r with arr := r.arr.filter (fun a => decide (a.1 ≠ b)), p := r.p.set b.toNat (r.p[b.toNat]'b.isLt + 1) b.isLt }
def Barrier.phase (r : Barrier) (b : BitVec 4) : BitVec 32 := r.p[b.toNat]'b.isLt

/-- complete_check(b) of R325; a BROKEN identifier completes nothing (R327). -/
def State.completeCheck (s : State) (gid : Nat) (b : BitVec 4) : State :=
  match s.group gid with
  | none => s
  | some g =>
    if s.barrierFull g b && !g.bar.broken then s.modGroup gid (fun g => { g with bar := g.bar.complete b }) else s

/-- A barrier state at group start (R324). -/
def Barrier.start : Barrier := { p := Vector.replicate 16 0, arr := [], w := [], broken := false }

/-- Control state of a core that nothing runs on. -/
def Ctl.idle (t : Ctl) : Ctl :=
  { t with st := .idle, inTrap := false, wait := none, pendTrap := none, markNext := false, csyncAt := none
           stall := 0, skip := none }

/-- A core given back by its group: nothing runs on it; its buffers keep their contents (R97). -/
def Core.release (k : Core) : Core :=
  { k with ctl := k.ctl.idle
           rs := Restart.reset, region := Region.none, eng := Vector.replicate 6 [], sigs := [], order := 0
           tissued := [], seqr := none, part := none, grp := none
           grid := { k.grid with giq := [], inflight := [], pkts := [] } }

/-- The number of a request to a host (R397). -/
def Msg.request : Msg → Option (BitVec 32)
  | .readReq _ _ id => some id
  | .writeReq _ id _ => some id
  | _ => none

/-- The requests of some cores to hosts given up: a reply finds none, and a message that still waits for its budget is not sent (R43, R397). -/
def State.dropCoreReqs (s : State) (cs : List CoreIx) : State :=
  let ids := (s.hostReqs.filter (fun r => cs.contains r.core)).map (fun r => r.id)
  { s with hostReqs := s.hostReqs.filter (fun r => !cs.contains r.core)
           waitOut := s.waitOut.filter (fun o => !(o.msg.request.map (fun id => ids.contains id)).getD false) }

/-- The cores of a group freed, with the requests that they had sent to hosts; one that failed, in the lull also (R18), stays marked
failed. -/
def State.freeCores (s : State) (g : Group) : State :=
  g.cores.foldl (fun s c => s.modCore c (fun k =>
    if k.ctl.st = .failed ∨ c ∈ g.lost then { k.release with ctl := { k.release.ctl with st := .failed } } else k.release)) (s.dropCoreReqs g.cores)

/-- A LAUNCH of a kernel has completed (Table 4.4); that of a kernel since unloaded counts nowhere. An UNLOADING kernel that a head still
launches stays (R87). -/
def State.kernelDone (s : State) (ctx i : Nat) (handle : BitVec 32) : State :=
  let waits := s.headLaunch ctx handle
  s.modKernel ctx i (fun k =>
    if k.handle ≠ handle then k
    else
      let k := { k with active := k.active - 1 }
      if k.active = 0 then
        match k.st with
        | .active => { k with st := .loaded }
        | .unloading => if waits then k else KRec.absent
        | _ => k
      else k)

/-- Heads that launch a kernel are to be checked again: it has FAILED (R87). -/
def State.recheckHeads (s : State) (n : Nat) (handle : BitVec 32) : State :=
  (List.range 64).foldl (fun s q =>
    let b := s.headBytes n q
    if byteAt b 0 = 0x80 ∧ BitVec.ofNat 32 (fieldAt b 4 4) = handle then s.modQueue n q (fun r => { r with headOk := false }) else s) s

/-- UNLOADING kernels that nothing runs and no head launches any more are gone (Table 4.4, R87). -/
def State.reapKernels (s : State) (n : Nat) : State :=
  (List.range 64).foldl (fun s i =>
    let k := (s.ctx n).kernel i
    if k.st = .unloading ∧ k.active = 0 ∧ !s.headLaunch n k.handle then s.modKernel n i (fun _ => KRec.absent) else s) s

/-- A group belongs to the LAUNCH of another. -/
def Group.sameLaunch (g h : Group) : Bool := decide (h.ctx = g.ctx ∧ h.order = g.order) && h.tile.isNone

/-- A group of a LAUNCH has ended: with the last one the LAUNCH has completed (R70, R71), and so has its entry unless it is held as
faulted. -/
def State.launchDone (s : State) (g : Group) : State :=
  if s.groups.any (fun h => g.sameLaunch h && decide (h.st ≠ .ended)) then s
  else
    let s := s.kernelDone g.ctx g.kslot g.handle
    match ((s.queue g.ctx g.queue).entry g.seq g.order).filter (fun e => !e.faulted) with
    | some e => s.entryDone g.ctx g.queue e true
    | none => s

/-- A group removed: cores and frame slots freed, state ENDED (Table 5.1). -/
def State.retireGroup (s : State) (g : Group) : State :=
  let s := s.freeCores g
  let s := { s with slotsUsed := s.slotsUsed.filter (fun p => !(decide (p.1 = g.ctx) && g.slots.contains p.2)) }
  s.modGroup g.id (fun g => { g with st := .ended, cores := [], slots := [], saved := [], prog := [] })

/-- Records issued by a group's TISSUEs and their descendants are cancelled (R408, R316). -/
def State.cancelTissues (s : State) (gid : Nat) : State :=
  { s with tiles := s.tiles.map (fun t =>
      match t.src with
      | .tissue _ g _ _ => if g = gid then { t with st := .failed } else t
      | _ => t) }

/-- A fault that ends a group (R408): cores halted without save, barriers broken, groups of its LAUNCH that were never
placed discarded, its queue in ERROR with WORKFAULT, GROUP_FAULT to the context and to the system context; a fault of the system context's
tables, and of a write to a guest table, is not told to a tenant (R355, R375, log 134). A later fault of a group that has ended is counted. -/
def State.endGroup (s : State) (gid : Nat) (cause : BitVec 9) (core : CoreIx) (addr value : Word) : State :=
  match s.group gid with
  | none => s
  | some g =>
    if g.st = .ended then s.modGroup gid (fun g => { g with faults := g.faults + 1 })
    else
      let same (h : Group) : Bool := g.tile.isNone && g.sameLaunch h && decide (h.id ≠ g.id) && !h.started && decide (h.st = .pending)
      let coreid := (s.coreid core).toNat % 65536
      let s := s.modGroup gid (fun g => { g with bar := { g.bar with broken := true } })
      let s := s.cancelTissues gid
      let s := s.retireGroup g
      let s := { s with groups := s.groups.filter (fun h => !same h) }
      let data := evData [(16, leBytes 2 cause.toNat), (18, leBytes 2 coreid),
        (20, leBytes 4 (if g.tile.isSome then 0 else g.handle.toNat)), (24, leBytes 8 addr.toNat),
        (32, leBytes 8 value.toNat), (40, leBytes 4 g.index), (44, leBytes 2 g.queue), (46, leBytes 1 (min g.faults 255)),
        (48, leBytes 8 g.seq)]
      let s := (if cause = 0x083 ∨ cause = 0x087 ∨ cause = 0x08A then s else s.event g.ctx 0x0D data).event 0 0x0D data
      match g.tile with
      | some t =>
        { s with tiles := s.tiles.map (fun n => if n.id = t then { n with
            st := if n.st = .failed then .failed else .faulted, group := none, lost := some (cause.toNat, (inCluster core).toNat) } else n) }
      | none => (s.workFault g.ctx g.queue g.seq g.order).launchDone g

/-- Every operation that a core issued to its engine queues and its signal stage has performed. -/
def Core.enginesIdle (k : Core) : Bool := k.eng.toList.all List.isEmpty && k.sigs.isEmpty

/-- Every core EXITED and every engine operation performed: the group ends (R99). -/
def State.groupFinished (s : State) (g : Group) : Bool :=
  decide (g.st = .resident) && g.cores.all (fun c => decide ((s.core c).ctl.st = .exited) && (s.core c).enginesIdle)

/-- The group of the core ends with a cause, without a trap (R403, R408). -/
def State.endMine (s : State) (c : CoreIx) (cause : BitVec 9) (addr value : Word) : State :=
  match (s.core c).grp with
  | none => s.modCtl c (fun t => { t with st := if t.st = .failed then .failed else .idle })
  | some g => s.endGroup g cause c addr value

/-- A context enters FROZEN (R43, Table 2.2): resident groups halted without save, an executing CTX_LULL or window
command ended with ABORTED, FROZEN sent. -/
def State.freeze (s : State) (ctx : Nat) (byte16 : Nat) : State :=
  let c := s.ctx ctx
  if c.st = .configured ∨ c.st = .ready ∨ c.st = .lulled ∨ c.st = .migrating ∨ c.st = .importing then
    let s := (s.groups.filter (fun g => decide (g.ctx = ctx ∧ g.st ≠ .ended))).foldl (fun s g =>
      if g.st = .resident ∨ g.st = .restoring ∨ g.st = .lulling then
        (s.freeCores g).modGroup g.id (fun g => { g with cores := [], st := .saved }) else s) s
    let s := match c.cmd with
      | some (.lull h) => s.reply h 0x05 4
      | _ => s
    let s := s.modCtx ctx (fun c =>
      { c with st := .frozen, cmd := match c.cmd with
                                     | some (.reset a b) => some (.reset a b)
                                     | _ => none
               queues := c.queues.map (fun r =>
                 if r.st = .empty ∨ r.st = .active ∨ r.st = .blocked ∨ r.st = .error then
                   { r with heldFrom := r.st, st := .held } else r) })
    s.event ctx 0x03 (evData [(16, [BitVec.ofNat 8 byte16])])
  else s

end Sys2Proof.Machine
end

