-- ==== Sys2Proof/Machine/GridOps.lean ====
section
/-! DEFINITION. The grid engine's shared operations: the rank-k step on a cell (R140 to R142, R231), what a write cycle
does, retirement in packet order (R233, R249), and the stop of R111. -/

namespace Sys2Proof.Machine

/-- Elements per cell of a type (R124). -/
def Ty.perCell (t : Ty) : Nat := 32 / t.width
/-- Element `e` of a cell (R124). -/
def Ty.elem (t : Ty) (c : Cell) (e : Nat) : Cell := lowBits t.width (c >>> (t.width * e))

/-- The step length k of a pair (R231). -/
def stepLen (ta tb : Ty) : Nat := max ta.perCell tb.perCell
/-- The ratio of a pair (R231). -/
def ratio (ta tb : Ty) : Nat := max ta.perCell tb.perCell / min ta.perCell tb.perCell
/-- The occupancy t of a pair (R231). -/
def occupancy (ta tb : Ty) : Nat :=
  ratio ta tb * (if (if tb.perCell < ta.perCell then tb else ta).code = 0 then 2 else 1)

/-- Term `l` of one side (R231): from its one entry, or from entry l / e of the entries a wide side pops. -/
def sideElem (t : Ty) (ents : List Row) (cell l : Nat) : Cell :=
  let e := t.perCell
  t.elem ((ents.getD (l / e) (Vector.replicate 64 0)).at cell) (l % e)

/-- The value of a term with the zero point of RKA subtracted (R140). -/
def termVal (t : Ty) (z : Int) (c : Cell) : Val :=
  if t.isInt ∧ z ≠ 0 then Val.ofInt ((t.val c).dy.1 - z) else t.val c

/-- A rank-k step of `k` terms on one cell (R140 to R142). -/
def RkWork.cellN (w : RkWork) (k : Nat) (i j : Nat) (old : Cell) : Cell × Flags :=
  let prods := (List.range k).map (fun l =>
    let a := termVal w.ta w.za (sideElem w.ta w.aEnt i l)
    let b := termVal w.tb w.zb (sideElem w.tb w.bEnt j l)
    let (p, f) := a.mul b
    ((if w.neg then p.negate else p), f ||| a.sigFlag ||| b.sigFlag))
  let ca := match w.scale with
    | some (a, _) => (a[i % 64]'(Nat.mod_lt _ (by decide))).toNat
    | none => 0
  let cb := match w.scale with
    | some (_, b) => (b[j % 64]'(Nat.mod_lt _ (by decide))).toNat
    | none => 0
  if w.scale.isSome ∧ (ca = 255 ∨ cb = 255) then (w.td.nan, 0)
  else
    let sh : Int := if w.scale.isSome then (ca : Int) + cb - 254 else 0
    let terms := prods.map (fun p => p.1.scale sh)
    let acc := w.td.val old
    let f := prods.foldl (fun f p => f ||| p.2) acc.sigFlag
    let (c, g) :=
      if w.td.code = 11 ∧ w.ta.isInt ∧ w.tb.isInt then
        wrapOrClamp w.rc.sat ((acc.dy.1 : Int) + (terms.map (fun v => v.dy.1)).sum)
      else
        let draw := match w.gens.lookup i with
          | some g => srDraw g j 0
          | none => 0
        sumRound w.td w.rc draw (acc :: terms)
    (c, f ||| g)

/-- One rank-k step on one cell: the step length of its types. -/
def RkWork.cell (w : RkWork) (i j : Nat) (old : Cell) : Cell × Flags := w.cellN (stepLen w.ta w.tb) i j old

/-- A row with the cells of a column range replaced. -/
def Row.mapCols (r : Row) (cols : Nat) (f : Nat → Cell → Cell) : Row :=
  Vector.ofFn (fun j => if j.val < cols then f j.val (r.at j.val) else r.at j.val)

/-- The flags that the cells of a row raise. -/
def rowFlags (cols : Nat) (f : Nat → Flags) : Flags := (List.range cols).foldl (fun a j => a ||| f j) 0

/-- A step of `k` terms on the grid as it stands. -/
def RkWork.applyN (w : RkWork) (k : Nat) (g : Grid) : Grid × Flags :=
  (List.range w.rows).foldl (fun (p : Grid × Flags) r =>
    let i := w.row0 + r
    let old := g.row i
    ((p.1.setRow i (old.mapCols w.cols (fun j c => (w.cellN k i j c).1))),
      p.2 ||| rowFlags w.cols (fun j => (w.cellN k i j (old.at j)).2))) (g, 0)

/-- The write cycle of a rank-k step (R233). -/
def RkWork.apply (w : RkWork) (g : Grid) : Grid × Flags := w.applyN (stepLen w.ta w.tb) g

/-- The rows a flight writes. -/
def Flight.rowSet (f : Flight) : List Nat :=
  f.rows.map Prod.fst ++ (match f.rk with
    | some w => (List.range w.rows).map (fun r => w.row0 + r)
    | none => [])

/-- The write cycle of a flight (R215, R233, R249): rows and registers are written, dirty bits set; an M slot's flags
are set now. -/
def Core.applyFlight (k : Core) (f : Flight) : Core :=
  if f.written then k
  else
    let g := k.grid
    let g := f.rows.foldl (fun g p => g.setRow p.1 p.2) g
    let g := match f.vld with
      | some a => (f.rows.headD (0, Row.zero)).1 |> fun r => g.setRow r (rowOfBytes (k.gb.bytes a 256))
      | none => g
    let (g, fl) := match f.rk with
      | some w => w.apply g
      | none => (g, 0)
    let g := f.rowSet.foldl Grid.markDirty g
    let g := f.regs.foldl Grid.wreg g
    let g := if f.kind = .m then { g with flags := g.flags ||| f.flags ||| fl } else g
    { k with grid := { g with inflight := g.inflight.map (fun h => if h = f then { h with written := true } else h) } }

/-- Every flight of one kind whose write cycle has passed is written. -/
def Core.applyDue (k : Core) (kind : FlKind) : Core :=
  (k.grid.inflight.filter (fun f => decide (f.kind = kind) && !f.written && decide (f.due < k.grid.cyc))).foldl
    Core.applyFlight k

/-- Packets retire in order: one whose flights have all written leaves, its V flags are set, its history entries freed
(R249). -/
def Grid.retireGo : Nat → Grid → Grid
  | 0, g => g
  | n + 1, g =>
    match g.pkts with
    | [] => g
    | p :: ps =>
      let mine := g.inflight.filter (fun f => decide (f.fwd = p.fwd))
      if mine.all (fun f => f.written) then
        let fl := mine.foldl (fun a f => if f.kind = .v then a ||| f.flags else a) 0
        Grid.retireGo n { g with pkts := ps, flags := g.flags ||| fl
                                 inflight := g.inflight.filter (fun f => decide (f.fwd ≠ p.fwd)) }
      else g
def Core.retire (k : Core) : Core := { k with grid := k.grid.retireGo k.grid.pkts.length }

/-- A V flight undone from its history entries (R110, R111). -/
def Grid.squash (g : Grid) (f : Flight) : Grid :=
  let g := f.histRows.foldl (fun g h =>
    let (r, old, fd, gd, gen) := h
    let g := (g.setRow r old).setGen r gen
    { g with fdirty := setBit g.fdirty r fd, gdirty := setBit g.gdirty r gd }) g
  f.histRegs.foldl Grid.wreg g

/-- A packet that must drain holds an M slot or a VLD (R111, R215). -/
def GridPkt.drains (p : GridPkt) : Bool := p.m.isSome || p.xfers.any (fun x => !x.st)

/-- The packets up to the youngest that must drain. -/
def drainCount (ps : List GridPkt) : Nat :=
  (ps.zipIdx.filter (fun p => p.1.drains)).foldl (fun n p => max n (p.2 + 1)) 0

/-- A VXFER (R274). -/
def Instr.isXfer : Instr → Bool
  | .vxferElement _ _ _ => true
  | .vxferKcount _ _ => true
  | _ => false

/-- A squashed packet as it stays in the grid instruction queue: its VSTs and VXFERs have performed and are not done again (R215,
R274), nor is a write to a control register; a SEED or a k write is, in packet order (R137, R158). -/
def GridPkt.requeue (p : GridPkt) : GridPkt :=
  { p with xfers := [], v := p.v.filter (fun g => !Instr.isXfer g.instr), log := []
           sw := match p.sw with
             | some (.seed v) => some (.seed v)
             | some (.kreg n v) => some (.kreg n v)
             | _ => none }

/-- The stop of the grid engine (R111): packets up to the youngest M or VLD drain and retire; younger ones hold only V
slots and are squashed youngest first, and go back to the head of the grid instruction queue. With a program couch operation in
progress every older packet drains, so that the operation's packet is the stop packet (R119; log 106). -/
def Core.gridStop (k : Core) : Core :=
  let n := if k.grid.couch.active then k.grid.pkts.length else drainCount k.grid.pkts
  let keep := (k.grid.pkts.take n).map (fun p => p.fwd)
  let k := (k.grid.inflight.filter (fun f => keep.contains f.fwd)).foldl Core.applyFlight k
  let k := k.retire
  let young := k.grid.inflight.reverse
  let g := young.foldl Grid.squash k.grid
  { k with grid := { g with giq := g.pkts.map GridPkt.requeue ++ g.giq, pkts := [], inflight := [], mFree := g.cyc, v0Free := g.cyc
                            v1Free := g.cyc, sfFree := g.cyc } }

/-- The stop index S: the forward index of the oldest packet still to issue (R111). -/
def Grid.stopIndex (g : Grid) : Nat :=
  match g.giq with
  | p :: _ => p.fwd
  | [] => g.fwdCount

/-- Rows with a pending bit (R233, R247). -/
def Grid.pendingRows (g : Grid) : List Nat :=
  (g.inflight.filter (fun f => !f.written)).flatMap Flight.rowSet
/-- Rows pending from something other than the rank-k family (R232). -/
def Grid.pendingNotRk (g : Grid) : List Nat :=
  (g.inflight.filter (fun f => !f.written && f.rk.isNone)).flatMap Flight.rowSet
/-- An e, qs or k register with a pending bit (R247). -/
def Grid.regPending (g : Grid) (p : GReg → Bool) : Bool :=
  g.inflight.any (fun f => !f.written && f.regs.any p)
def isE (n : BitVec 3) : GReg → Bool
  | .e m _ => decide (m = n)
  | _ => false
def isQs (n : BitVec 3) : GReg → Bool
  | .qs m _ => decide (m = n)
  | _ => false
def isK (n : BitVec 3) : GReg → Bool
  | .k m _ => decide (m = n)
  | _ => false
/-- A register that takes a history entry: e and qs (R110). -/
def GReg.takesEntry : GReg → Bool
  | .k _ _ => false
  | _ => true
/-- History entries in use (R110). -/
def Grid.histUsed (g : Grid) : Nat :=
  (g.inflight.map (fun f => f.histRows.length + (f.histRegs.filter GReg.takesEntry).length)).sum

end Sys2Proof.Machine
end

