-- ==== Sys2Proof/Machine/Reads.lean ====
section
/-! DEFINITION. The device reads of a core (R103, R209, R210, R213, R214): which are outstanding, in the order of issue, and how
one settles and delivers. The model lets the reads of one core return in the order of issue, which R210 asks for where
they share bytes and leaves open elsewhere (log 4). -/

namespace Sys2Proof.Machine

/-- The value of loaded bytes (Table 10.2). -/
def LdW.extend (w : LdW) (bs : List Byte) : Word := if w.signed then sextBytes w.bytes (leNat bs) else BitVec.ofNat 64 (leNat bs)

/-- The youngest held byte at an address, if any (R103). -/
def heldByte (gate : List Held) (sp : Space) (a : Nat) : Option Byte :=
  gate.foldl (fun acc h => if h.space = sp ∧ h.addr ≤ a ∧ a < h.addr + h.data.length then h.data[a - h.addr]? else acc) none

/-- A reserved place of the log takes its value. -/
def Core.logFill (k : Core) (i : Nat) (v : Word) : Core := { k with rs := { k.rs with log := k.rs.log.set i (some v) } }

/-- The bytes of an LDG: memory under the held stores older than it, on physical addresses (R103). -/
def State.ldgBytes (s : State) (c : CoreIx) (l : Ldg) (pa : Nat) : List Byte × State :=
  let (bs, s) := s.getMem pa l.w.bytes
  let gate := (s.core c).rs.gate.take l.older
  (bs.mapIdx (fun i b => (heldByte gate .dm (pa + i)).getD b), s)

/-- Cells of a first-fault fill that translate: the pieces, and the fault of the first that does not (R214). -/
def State.ffCells (s : State) (c : CoreIx) (a : Word) : Nat → Nat → List (Nat × Nat) × Option PageFault × State
  | 0, _ => ([], none, s)
  | n + 1, i =>
    match s.translate (s.ctxOf c) (dieOf c) (some c) (a + BitVec.ofNat 64 (4 * i)) .read 4 with
    | (.error f, t) => ([], some f, t)
    | (.ok pa, t) =>
      let (ps, f, t) := State.ffCells t c a n (i + 1)
      ((pa, 4) :: ps, f, t)

/-- An entry settles with its data (R213). -/
def OpQueue.settle (q : OpQueue) (seq : Nat) (data : Row) (src : FillSrc) (due : Nat) : OpQueue :=
  { q with f := q.f + 1
           entries := q.entries.map (fun e => if e.seq = seq then { e with settled := true, data := data, src := src, due := due } else e) }

def State.modQ (s : State) (c : CoreIx) (q : BitVec 3) (f : OpQueue → OpQueue) : State :=
  s.modGrid c (fun g => g.setQueue q (f (g.queue q)))

/-! ### Outstanding reads -/

/-- A device read that has not returned. -/
inductive DevRead
  | ldg (l : Ldg)
  | fill (q : BitVec 3) (e : QEntry)
  deriving DecidableEq, Repr

/-- Its place in the order of issue. -/
def DevRead.ord : DevRead → Nat
  | .ldg l => l.ord
  | .fill _ e => e.ord

/-- A fill from device memory that has not settled. -/
def QEntry.reads (e : QEntry) : Bool := !e.settled && decide (e.src.space = .dm)

/-- The outstanding device reads of a core. -/
def Core.devReads (k : Core) : List DevRead :=
  k.rs.ldgs.map .ldg ++ (List.range 8).flatMap (fun i =>
    ((k.grid.queue (BitVec.ofNat 3 i)).entries.filter QEntry.reads).map (.fill (BitVec.ofNat 3 i)))

/-- The earliest of some reads. -/
def earliest : List DevRead → Option DevRead
  | [] => none
  | r :: rs =>
    match earliest rs with
    | some q => some (if q.ord < r.ord then q else r)
    | none => some r

/-- The read that is to return next (R210). -/
def Core.oldestRead (k : Core) : Option DevRead := earliest k.devReads

/-- How a read ends: it has returned, it faults at its bundle, or its home has no route (R387). -/
inductive ReadOut
  | done (s : State)
  | fault (f : PageFault) (bun : Word) (s : State)
  | cut (ended : Bool) (bun va : Word) (s : State)

/-- A value that a read brings: written at once, or, while its own packet still issues, at the end of that packet (R150). -/
def Core.deliverRead (k : Core) (live : Bool) (r : BitVec 5) (v : Word) : Core := if live then k.wx r v else k.expose (.x r) v 1

/-- An LDG returns (R209). -/
def State.settleLdg (s : State) (c : CoreIx) (live : Bool) (l : Ldg) : ReadOut :=
  match s.translate (s.ctxOf c) (dieOf c) (some c) l.va .read l.w.bytes with
  | (.error f, t) => .fault f l.bun t
  | (.ok pa, t) =>
    match t.cut c pa with
    | some ended => .cut ended l.bun l.va t
    | none =>
      let (bs, t) := t.ldgBytes c l pa
      let v := l.w.extend bs
      .done (t.modCore c (fun k =>
        let k := (k.logFill l.log v).deliverRead live l.d v
        { k with rs := { k.rs with ldgs := k.rs.ldgs.filter (fun m => decide (m ≠ l)) } }))

/-- A fill from device memory settles (R213, R214). A first-fault fill that is performed again in a replay delivers the cells that it now
finds; its count stays the one that the log holds (log 139). -/
def State.settleFill (s : State) (c : CoreIx) (live : Bool) (q : BitVec 3) (e : QEntry) : ReadOut :=
  let now := (s.cyc c).toNat
  match s.cutAt c e.va with
  | some ended => .cut ended e.bun e.va s
  | none =>
    match e.ff with
    | none =>
      match s.translateRange (s.ctxOf c) (dieOf c) (some c) e.va .read 256 with
      | (.error f, t) => .fault f e.bun t
      | (.ok ps, t) =>
        let (bs, t) := t.readPieces ps
        .done (t.modQ c q (fun u => u.settle e.seq (rowOfBytes bs) { space := .dm, transpose := false, pieces := ps } now))
    | some (r, n, i) =>
      match s.ffCells c e.va n 0 with
      | ([], some f, t) => .fault f e.bun t
      | (ps, _, t) =>
        let (bs, t) := t.readPieces ps
        let p := ps.length
        let t := t.modQ c q (fun u =>
          u.settle e.seq (rowOfBytes (bs ++ List.replicate (256 - 4 * p) 0)) { space := .dm, transpose := false, pieces := ps } now)
        .done (t.modCore c (fun k =>
          match k.rs.log.getD i none with
          | some _ => k
          | none => (k.logFill i (BitVec.ofNat 64 p)).deliverRead live r (BitVec.ofNat 64 p)))

/-- A device read settles. -/
def State.settleRead (s : State) (c : CoreIx) (live : Bool) : DevRead → ReadOut
  | .ldg l => s.settleLdg c live l
  | .fill q e => s.settleFill c live q e

end Sys2Proof.Machine
end

