-- ==== Sys2Proof/Machine/Ops.lean ====
section
/-! DEFINITION. The shared operations of the access engine: the store gate and its commit (R103), marks (R102, R105),
rollback (R106, R107), the replay log (R104), waiting, taking an exception (R403) and returning from one (R198, R406). -/

namespace Sys2Proof.Machine

/-! ### Settling, locks and the gate -/

/-- The destination of a VXFER (R274). -/
def Instr.vxferDst : Instr → Option (BitVec 5)
  | .vxferElement d _ _ => some d
  | .vxferKcount d _ => some d
  | _ => none

/-- The x registers that VXFERs still to be performed will write (R164, R274). -/
def Core.vxferOut (k : Core) : List (BitVec 5) :=
  (k.grid.giq.filter (fun p => decide (p.fwd < k.rs.fwd) && !p.log.isEmpty)).flatMap (fun p =>
    p.v.filterMap (fun g => Instr.vxferDst g.instr))

/-- Every fill and LDG issued before has settled, and every interlocked value is written (R102). -/
def Core.settled (k : Core) : Bool :=
  k.rs.ldgs.isEmpty && k.vxferOut.isEmpty && k.grid.queues.toList.all (fun q => q.entries.all (fun e => e.settled))

/-- Two byte ranges share a byte. -/
def overlaps (a n b m : Nat) : Bool := decide (a < b + m ∧ b < a + n)

/-- A buffer range of this core: space, first byte, length, written. -/
abbrev BufRange := Space × Nat × Nat × Bool

/-- The rows of an endpoint that lies in the core's own buffers. -/
def EndPt.ranges (e : EndPt) (rows len : Nat) (stride : Word) (w : Bool) : List BufRange :=
  if e.peer.isSome ∨ e.space = .dm then []
  else (List.range rows).map (fun r => (e.space, (e.addr + BitVec.ofNat 64 r * stride).toNat, len, w))

/-- The buffer ranges that an engine operation reads or writes in its core (R280). -/
def EngOp.ranges : EngOp → List BufRange
  | .copy d s rows len ds ss => d.ranges rows len ds true ++ s.ranges rows len ss false
  | .rred src _ n _ sc _ => [(.xb, src.toNat, 4 * n + (if sc then 4 * ((n + 63) / 64) else 0), false)]
  | .scatter l n _ => [(.xb, l.toNat, 8 * n, false)]
  | _ => []

/-- Ranges of unperformed operations (R280). -/
def Core.engRanges (k : Core) : List BufRange := k.eng.toList.flatMap (fun q => q.flatMap (fun e => e.op.ranges))

/-- The range of a transfer: a VLD reads GB, a VST writes. -/
def Xfer.range (x : Xfer) : BufRange := (if x.gb then .gb else .xb, x.addr, 256, x.st)

/-- Ranges of the outstanding VLD and VST transfers of packets up to a forward index (R217). -/
def Core.xferRangesTo (k : Core) (fwd : Nat) : List BufRange :=
  (k.grid.giq.filter (fun p => decide (p.fwd ≤ fwd))).flatMap (fun p => p.xfers.map Xfer.range) ++
    (k.grid.inflight.filter (fun f => !f.written && decide (f.fwd ≤ fwd))).filterMap (fun f => f.vld.map (fun a => (Space.gb, a, 256, false)))

/-- Ranges of outstanding VLD and VST transfers (R217). -/
def Core.xferRanges (k : Core) : List BufRange :=
  k.grid.giq.flatMap (fun p => p.xfers.map Xfer.range) ++
    (k.grid.inflight.filter (fun f => !f.written)).filterMap (fun f => f.vld.map (fun a => (Space.gb, a, 256, false)))

/-- An access meets a range with either side writing (R217). -/
def BufRange.meets (r : BufRange) (sp : Space) (a n : Nat) (w : Bool) : Bool :=
  decide (r.1 = sp) && overlaps a n r.2.1 r.2.2.1 && (w || r.2.2.2)

/-- An access meets an outstanding transfer with either side writing (R217). -/
def Core.xferBusy (k : Core) (sp : Space) (a n : Nat) (w : Bool) : Bool := k.xferRanges.any (fun r => r.meets sp a n w)

/-- The packet that issues has reached the grid side already (R108). -/
def Core.forwarded (k : Core) : Bool := decide (k.rs.fwd < k.grid.fwdCount)

/-- An access meets a transfer of an earlier slot of its own packet (R150, R217), which is outstanding once it has been forwarded. -/
def State.ownXfer (s : State) (sp : Space) (a n : Nat) (w : Bool) : Bool :=
  !s.me.forwarded && s.slot.pkt.xfers.any (fun x => x.range.meets sp a n w)

/-- A held store cannot commit yet: a lock or an outstanding transfer overlaps it (R217, R280). -/
def Core.heldBlocked (k : Core) (h : Held) : Bool :=
  decide (h.space ≠ .dm) &&
    (k.engRanges.any (fun r => decide (r.1 = h.space) && overlaps h.addr h.data.length r.2.1 r.2.2.1) ||
      k.xferBusy h.space h.addr h.data.length true)

/-- The store gate can commit its oldest `n` stores. -/
def Core.canCommit (k : Core) (n : Nat) : Bool := (k.rs.gate.take n).all (fun h => !k.heldBlocked h)

/-- The home memory unit takes a write of a core's context (R363, R84). -/
def State.homeTakes (s : State) (c : CoreIx) (pa : Nat) : Bool :=
  decide (s.frameCheck (s.ctxOf c) pa = none) && !s.sealed (pa / frameBytes)

/-- The record of a held STG that its home memory unit refuses (R363, R374). -/
def State.refusal (s : State) (c : CoreIx) (h : Held) : FaultRec × PageFault :=
  let d := (s.frameCheck (s.ctxOf c) h.addr).getD 0x05
  ({ seq := 0, ctx := s.ctxOf c, agent := 1, core := c, detail := d, va := h.va, stg := none, group := (s.core c).grp, tile := none
     queue := none, whr := h.bun }, ⟨h.va, d, .write, 0, 0, h.data.length⟩)

/-- One held store performs (R103). An STG whose frame was taken away after its check is refused at its home, and recorded (R363; log 132). -/
def State.performHeld (s : State) (c : CoreIx) (h : Held) : State :=
  if h.space = .dm then
    (if s.homeTakes c h.addr then s.putMem h.addr h.data else { s with refused := s.refused ++ [s.refusal c h] })
  else s.modCore c (fun k => k.setBuf h.space ((k.buf h.space).store h.addr h.data))

/-- The oldest `n` held stores perform, in program order (R102). -/
def State.commitGate (s : State) (c : CoreIx) (n : Nat) : State :=
  let hs := ((s.core c).rs.gate).take n
  let s := hs.foldl (fun s h => s.performHeld c h) s
  s.modRs c (fun r => { r with gate := r.gate.drop n })

/-- The gate commits inside a packet: the bytes that the packet's own stores replace are kept for its loads, as they stood before
the packet under the older held stores (R103, R208). -/
def State.commitKeep (s : State) (c : CoreIx) : State :=
  let gate := (s.core c).rs.gate
  let own := gate.drop s.slot.older
  let kept := own.flatMap (fun h => (List.range h.data.length).map (fun i =>
    (h.space, h.addr + i, (heldByte (gate.take s.slot.older) h.space (h.addr + i)).getD (((s.core c).buf h.space).read (h.addr + i)))))
  let s := s.commitGate c ((s.core c).rs.gate.length)
  s.modSlot (fun t => { t with older := 0, undo := t.undo ++ kept })

/-- The gate commits whole. -/
def State.commitAll (s : State) (c : CoreIx) : State := s.commitGate c ((s.core c).rs.gate.length)

/-! ### Marks and rollback -/

/-- A mark can be taken (R102), and a trap entered (R403): every fill and LDG has settled and the gate can commit. -/
def Core.markReady (k : Core) : Bool := k.settled && k.canCommit k.rs.gate.length

/-- The shadow of a mark (R102): outstanding exposed results enter it with the values they will have when each has landed at its
own count (R164). -/
def Core.mark (k : Core) (pc : Word) : Core :=
  let after := k.landOrder.foldl (fun q e => q.land e.dst e.val) k
  let sh : Shadow :=
    { x := after.x, k := after.k, fmt := after.fmt, shp := after.shp, pc := pc, fwd := k.rs.fwd
      fillN := k.grid.queues.map (fun q => q.fillN), inTrap := k.ctl.inTrap }
  { k with rs := { k.rs with shadow := sh, log := [], logPos := 0 } }

/-- Fills at or above F are cancelled; the issue count returns to the mark's (R106, R108). -/
def OpQueue.rollback (q : OpQueue) (fillN : Nat) : OpQueue :=
  let f := q.entries.foldl (fun f e => if !e.settled ∧ e.seq < f then e.seq else f) q.f
  { q with f := f, fillN := fillN, entries := q.entries.filter (fun e => decide (e.seq < f)) }

/-- An irrevocable operation of a packet that waits part way has performed, so that no rollback reaches behind it (R105; log 136). -/
def Core.keptPart (k : Core) : Bool := (k.part.map (fun p => p.ctx.markNext)).getD false

/-- A packet that waits part way does not go on: its forward index is used up where its grid side was forwarded (log 136). -/
def Core.dropPart (k : Core) : Core :=
  match k.part with
  | none => k
  | some p => { k with part := none, rs := { k.rs with fwd := if p.ctx.ahead then k.rs.fwd + 1 else k.rs.fwd } }

/-- Steps 1 to 3 of a rollback (R106), and where issue resumes (R107). Nothing changes on the grid side. -/
def Core.rollback (k : Core) : Core :=
  let sh := k.rs.shadow
  let qs := Vector.ofFn (fun (i : Fin 8) => (k.grid.queues[i]).rollback sh.fillN[i])
  { k with
    x := sh.x, k := sh.k, fmt := sh.fmt, shp := sh.shp
    grid := { k.grid with queues := qs }
    rs := { k.rs with gate := [], ldgs := [], pend := [], fwd := sh.fwd, logPos := 0 }
    ctl := { k.ctl with pc := sh.pc, inTrap := sh.inTrap, wait := none, pendTrap := none, markNext := false
                        csyncAt := none, stall := 0, st := if k.rs.log.isEmpty then .run else .replay }
    part := none }

/-- The core replays: values come from the log (R107). -/
def Core.replaying (k : Core) : Bool := decide (k.ctl.st = .replay)

/-- After a logged value is taken, an exhausted log ends the replay (Table 5.2). -/
def Core.logAdvance (k : Core) (n : Nat) : Core :=
  let p := k.rs.logPos + n
  { k with rs := { k.rs with logPos := p }
           ctl := { k.ctl with st := if k.ctl.st = .replay ∧ k.rs.log.length ≤ p then .run else k.ctl.st } }

/-- The next value of the log, in replay (R107). -/
def Core.logged (k : Core) (i : Nat := 0) : Option Word := if k.replaying then (k.rs.log.getD (k.rs.logPos + i) none) else none

/-- The replay log has room for `n` more values (R104). -/
def Core.logRoom (k : Core) (n : Nat) : Bool := k.replaying || decide (k.rs.log.length + n ≤ 32)

/-- The next place of the log filled (none: reserved for a value still to come); in replay, a place that was reserved
before. -/
def Core.logPut (k : Core) (v : Option Word) : Core :=
  if k.replaying then { k with rs := { k.rs with log := k.rs.log.set k.rs.logPos v } }.logAdvance 1
  else { k with rs := { k.rs with log := k.rs.log ++ [v] } }
/-- The number of the log's next place. -/
def Core.logNext (k : Core) : Nat := if k.replaying then k.rs.logPos else k.rs.log.length

/-! ### Timed regions -/

/-- The core is inside a timed region (R317). -/
def Core.timed (k : Core) : Bool := k.region.start.isSome

/-- The region cycle of a core (R317). -/
def State.regionCycle (s : State) (c : CoreIx) : Nat :=
  match (s.core c).region.start with
  | some a => (s.cyc c - a).toNat
  | none => 0

/-- A window is open at a region cycle (R220). -/
def Win.openAt (w : Win) (cycle : Nat) : Bool := decide (cycle ≤ w.t + w.n - 1)

/-- The timed region of a core ends (R319): its lines are unlocked; an open window is the timing fault 0x04, which ends
the group (R220). -/
def State.endRegion (s : State) (c : CoreIx) : State :=
  let k := s.core c
  let now := s.regionCycle c
  let s := s.modCore c (fun k => { k with region := Region.none })
  match (k.region.sends ++ k.region.recvs).find? (fun w => w.openAt now) with
  | some w => s.endMine c 0x0B4 w.bundle (BitVec.ofNat 64 now)
  | none => s

/-! ### Taking an exception and returning -/

/-- Trap entry (R403 to R405): a double trap ends the group, and so does a handler address of 0 once the gate has committed; else the gate commits, the
handler's first packet takes an implicit mark, sr.epc, sr.cause and sr.tval are written, issue continues at sr.tvec
in TRAP, the timed region ends, and the grid engine stops and goes on from S (R404). -/
def State.trapEntry (s : State) (c : CoreIx) (t : TrapReq) : State :=
  let k := s.core c
  if k.ctl.inTrap then s.endMine c 0x0E2 t.addr 0
  else if k.ctl.tvec = 0 then (s.commitAll c).endMine c t.cause t.addr t.tval
  else
    let s := s.commitAll c
    let s := s.modCore c (fun k => { k.gridStop.dropPart with
      ctl := { k.ctl with epc := t.epc, cause := t.cause.setWidth 64, tval := t.tval, pc := k.ctl.tvec, inTrap := true
                          st := .run, wait := none, pendTrap := none, markNext := true } })
    if k.timed then s.endRegion c else s

/-- A precise trap: entered at once when every fill and LDG has settled and the gate can commit (R280), else kept until then
(R403 step 2). -/
def State.takeTrap (s : State) (c : CoreIx) (t : TrapReq) : State :=
  if (s.core c).markReady then s.trapEntry c t
  else s.modCtl c (fun q => { q with pendTrap := some t, wait := some .settle })

/-- The return from an exception (R198, R406): trap handling ends and issue resumes at sr.epc, in REPLAY while the log
is not exhausted. -/
def Core.trapReturn (k : Core) : Core :=
  { k with ctl := { k.ctl with inTrap := false, pc := k.ctl.epc
                               st := if k.rs.logPos < k.rs.log.length ∧ k.replaying then .replay else .run } }

/-- A fault record of an access of the core (R374), for which the core then waits. -/
def State.coreFault (s : State) (c : CoreIx) (agent : BitVec 8) (f : PageFault) (whr : Word) (stg : Option (Nat × Word)) :
    Nat × State :=
  let n := s.ctxOf c
  s.recordFault { seq := 0, ctx := n, agent := agent, core := c, detail := f.detail, va := f.va, stg := stg
                  group := (s.core c).grp, tile := none, queue := none } f (s.tagOf n)
    ((s.coreid c).toNat % 65536) whr

/-- A rollback fault (R106): rollback, the record, and the core in ROLLBACK until the answer. -/
def State.rollbackFault (s : State) (c : CoreIx) (f : PageFault) (whr : Word) : State :=
  let s := s.modCore c Core.rollback
  let (n, s) := s.coreFault c 0 f whr none
  s.modCtl c (fun t => { t with st := .rollback, wait := some (.fault n) })

/-- The arrival that a BARW records when its core has not arrived, and the start of its wait (R325). -/
def State.barwArrive (s : State) (c : CoreIx) (b : BitVec 4) : State :=
  match (s.core c).grp.bind s.group with
  | none => s
  | some g =>
    let r := g.rankOf c
    if g.bar.w.any (fun w => decide (w.1 = r ∧ w.2.1 = b)) then s
    else
      let s := s.modGroup g.id (fun g =>
        { g with bar := { g.bar with
            arr := if g.bar.arr.contains (b, r) then g.bar.arr else g.bar.arr ++ [(b, r)]
            w := (r, b, g.bar.phase b) :: g.bar.w.filter (fun w => decide (w.1 ≠ r)) } })
      s.completeCheck g.id b

/-- A core that arrives at a CSYNC inside a timed region leaves the region (R199, R319; log 128); the CSYNC's packet takes a mark, so that no
rollback re-enters the region. -/
def State.csyncArrive (s : State) (c : CoreIx) : State :=
  if !(s.core c).timed then s
  else
    let s := s.endRegion c
    if (s.core c).grp.isNone then s else s.modCtl c (fun t => { t with markNext := true })

/-- A wait of an irrevocable operation, begun after the store gate has committed (R105). -/
def Wait.committed : Wait → Bool
  | .fwait _ _ => true
  | .barw _ => true
  | .csync => true
  | .qfence _ => true
  | .wfence => true
  | .engineQueue _ => true
  | .tissue => true
  | .texec => true
  | .calender => true
  | _ => false

/-- What becomes of a packet whose slot did not perform, on the state before the packet (R151). -/
def State.settleOut (s : State) (o : SlotOut) : State :=
  match o with
  | .none => s
  | .trap t => s.takeTrap s.cur t
  | .fault f =>
    let stg := if f.kind = .write ∧ f.detail = 0x07 then some (s.me.rs.fwd, s.slot.bunAddr) else none
    let (n, s) := s.coreFault s.cur 1 f s.slot.bunAddr stg
    s.modCtl s.cur (fun t => { t with wait := some (.fault n) })
  | .hold w =>
    let s := if w.committed then s.commitAll s.cur else s
    let s := match w with
      | .barw b => s.barwArrive s.cur b
      | .csync => s.csyncArrive s.cur
      | _ => s
    if s.me.grp.isNone then s else s.modCtl s.cur (fun t => { t with wait := some w })
  | .roll f bun => s.rollbackFault s.cur f bun

/-- A trap or fault of an earlier slot stands over a later one, and over a wait (R151, R179). -/
def SlotOut.join (a b : SlotOut) : SlotOut :=
  match a, b with
  | .none, b => b
  | .hold w, .none => .hold w
  | .hold w, .hold _ => .hold w
  | .hold _, b => b
  | a, _ => a

/-- A slot does not perform: the state settles as `settleOut` says, and the slot context carries why. -/
def State.stop (s : State) (o : SlotOut) : State :=
  (s.settleOut o).modSlot (fun c => { c with out := s.slot.out.join o })

/-- A precise trap of the slot, at its bundle. -/
def State.raise (s : State) (cause : BitVec 9) (tval : Word) : State :=
  s.stop (.trap ⟨cause, tval, s.slot.pktAddr, s.slot.bunAddr⟩)

/-- A wait of the slot. -/
def State.hold (s : State) (w : Wait) : State := s.stop (.hold w)

/-- The illegal-instruction class with a detail (Table 19.1, R402). -/
def State.illegal (s : State) (d : Detail) : State :=
  s.raise (BitVec.ofNat 9 (0x010 + d.code)) (s.slot.word.setWidth 64)

/-- The timing class with a detail (Table 15.1): sr.tval is the region cycle. -/
def State.timing (s : State) (d : Nat) : State :=
  s.raise (BitVec.ofNat 9 (0x0B0 + d)) (BitVec.ofNat 64 (s.regionCycle s.cur))

/-- A precise page fault of the slot. -/
def State.pageFault (s : State) (f : PageFault) : State := s.stop (.fault f)

/-- The device reads that slots of the packet itself have issued settle now, oldest first: the state after them, or the state
that a fault or a missing route leaves (R105, R106, R387). -/
def State.settleOwn : Nat → State → Except State State
  | 0, s => .ok s
  | n + 1, s =>
    match s.me.oldestRead with
    | none => .ok s
    | some r =>
      match s.settleRead s.cur false r with
      | .done t => State.settleOwn n t
      | .fault f bun t => .error (t.stop (.roll f bun))
      | .cut ended bun va t => .error (if ended then t.endMine t.cur 0x150 bun va else t.hold (.route va))

/-- A slot waits for a transfer of its own packet, whose grid side is to be forwarded meanwhile (R150, R217; log 136). -/
def State.holdOwn (s : State) : State := (s.modSlot (fun c => { c with early := true })).hold .transfer

/-- A store of the packet must follow a transfer of the packet, and the packet has not been forwarded (R150, R208). -/
def State.gateBehind (s : State) : Bool := s.slot.behind && !s.me.forwarded

/-- An irrevocable operation (R105): it waits until every earlier fill and LDG has settled, those of its own packet among them,
and the gate has committed, performs, and the next packet takes an implicit mark. -/
def State.irrevocable (s : State) (f : State → State) : State :=
  if !s.slot.settled then s.hold .settle
  else
    match State.settleOwn s.me.devReads.length s with
    | .error t => t
    | .ok s =>
      if s.gateBehind then s.holdOwn
      else if !s.me.canCommit s.me.rs.gate.length then s.hold .transfer
      else f ((s.commitKeep s.cur).modSlot (fun c => { c with markNext := true }))

/-- A device read that follows an irrevocable operation of its own packet settles as it issues, so that no rollback reaches
behind that operation (R105). -/
def State.settleAfter (s : State) : State :=
  if s.slot.markNext then
    match State.settleOwn s.me.devReads.length s with
    | .ok t => t
    | .error t => t
  else s

/-- The bit of fmask that masks a feature is set for the group (R177). -/
def State.masked (s : State) (bit : Nat) : Bool := (s.env s.cur).fmask.getLsbD bit

/-- A scope of span is masked under fmask[3] (R177). -/
def State.scopeMasked (s : State) (scope : BitVec 3) : Bool := decide (scope = 4) && s.masked 3

end Sys2Proof.Machine
end

