-- ==== Sys2Proof/Machine/Operands.lean ====
section
/-! DEFINITION. Operand forms (R154 to R156, R180, R205): the second operand and the immediates of S slots, transfer
targets, A-form addresses, and the x registers that a slot reads and writes (R462). -/

namespace Sys2Proof.Machine

/-! ### S slots -/

/-- The literal of the slot's bundle, sign-extended to 64 bits (R156); the decoder refuses a slot that needs a literal
its bundle lacks. -/
def State.litS (s : State) : Word := sext32 (s.slot.lit.getD 0)
/-- The literal, zero-extended (C slots, Table 7.4). -/
def State.litZ (s : State) : Word := (s.slot.lit.getD 0).setWidth 64

/-- x[r] of the core that issues. -/
def State.rx (s : State) (r : BitVec 5) : Word := s.me.rx r
/-- k[f] of the core that issues. -/
def State.rk (s : State) (f : BitVec 5) : Word := s.me.rk (kIdx f)

/-- Operand b of the S register form (R180). -/
def State.opB (s : State) (b : BitVec 5) (l : Bool) : Word := if l then s.litS else s.rx b
/-- imm15, or the literal under its marker (R180). -/
def State.imm (s : State) (i : BitVec 15) : Word := if immIsLit i then s.litS else i.signExtend 64
/-- xc of a C slot, or the literal (Table 7.4). -/
def State.opC (s : State) (c : BitVec 5) (l : Bool) : Word := if l then s.litZ else s.rx c

/-- The target of a branch or LOOP, relative to the bundle (R155). -/
def State.target12 (s : State) (o : BitVec 12) : Word := s.slot.bunAddr + (o.signExtend 64 <<< 1)
/-- The target of J or CALL (R155). -/
def State.target25 (s : State) (o : BitVec 25) : Word := s.slot.bunAddr + (o.signExtend 64 <<< 1)

/-- A transfer taken after the packet; it costs one cycle unless it is a repeat (R153). -/
def State.jump (s : State) (t : Word) (lost : Bool) : State := s.modSlot (fun c => { c with npc := t, lost := lost })

/-! ### A slots -/

/-- The address of an A-form access, modulo 2^64 (R155, R205): the offset scaled by the size, or the literal unscaled. -/
def State.ea (s : State) (b : BitVec 5) (o : BitVec 13) (size : Nat) : Word :=
  s.rx b + (if offIsLit o then s.litS else o.signExtend 64 * BitVec.ofNat 64 size)

/-- The fault of a buffer access at issue (R205): bounds first, then alignment. -/
def State.bufFault (s : State) (sp : Space) (a : Word) (len align : Nat) : Option (BitVec 9) :=
  if (s.env s.cur).extent sp < a.toNat + len then some 0x050
  else if a.toNat % align ≠ 0 then some 0x060
  else none

/-- A felt address: XB or WB at 1 MiB and above (R13, R205). -/
def felt (sp : Space) (a n : Nat) : Bool := (decide (sp = .xb) || decide (sp = .wb)) && decide (1048576 < a + n)

/-! ### The registers of a slot -/

/-- The register reads of a slot (R462): x0, unused fields and operands that the literal replaces are left out. -/
def regs (l : List (BitVec 5)) : List (BitVec 5) := l.filter (fun r => decide (r ≠ 0))

/-- Operand b read when the literal does not replace it. -/
def unlessLit (l : Bool) (b : BitVec 5) : List (BitVec 5) := if l then [] else [b]

/-- The x registers that a slot reads (R462). -/
def Instr.xReads : Instr → List (BitVec 5)
  | .add _ a b l | .sub _ a b l | .and _ a b l | .or _ a b l | .xor _ a b l | .andn _ a b l | .shl _ a b l
  | .shr _ a b l | .sar _ a b l | .rot _ a b l | .min _ a b l | .max _ a b l | .minu _ a b l | .maxu _ a b l
  | .slt _ a b l | .sltu _ a b l | .seq _ a b l | .mul _ a b l | .mulh _ a b l | .mulhu _ a b l | .div _ a b l
  | .divu _ a b l | .rem _ a b l | .remu _ a b l | .bext _ a b l _ | .bins _ a b l _ => regs (a :: unlessLit l b)
  | .sel _ a b l s => regs (s :: a :: unlessLit l b)
  | .clz _ a _ | .ctz _ a _ | .ffs _ a _ | .popc _ a _ | .brev _ a _ | .kmovKX _ a => regs [a]
  | .addi _ a _ | .andi _ a _ | .ori _ a _ | .xori _ a _ | .shli _ a _ | .shri _ a _ | .sari _ a _ => regs [a]
  | .bEq a b _ | .bNe a b _ | .bLt a b _ | .bGe a b _ | .bLtu a b _ | .bGeu a b _ => regs [a, b]
  | .ret a | .loop a _ | .csrw a _ | .csrs a _ | .csrc a _ | .setfmt a | .seed a => regs [a]
  | .setshape _ a b => regs [a, b]
  | .settile _ a => regs [a, a + 1, a + 2]
  | .fwait a _ l _ => regs (unlessLit l a)
  | .ldB _ b _ _ | .ldH _ b _ _ | .ldW _ b _ _ | .ldD _ b _ _ | .ldBu _ b _ _ | .ldHu _ b _ _ | .ldWu _ b _ _ => regs [b]
  | .stB s b _ _ | .stH s b _ _ | .stW s b _ _ | .stD s b _ _ => regs [s, b]
  | .ldgB _ b _ | .ldgH _ b _ | .ldgW _ b _ | .ldgD _ b _ | .ldgBu _ b _ | .ldgHu _ b _ | .ldgWu _ b _ => regs [b]
  | .stgB s b _ | .stgH s b _ | .stgW s b _ | .stgD s b _ => regs [s, b]
  | .qfill _ b _ _ | .qfillt _ b _ _ | .qfillg _ b _ | .vld _ b _ | .vst _ b _ _ | .pref b _ => regs [b]
  | .qfillgFf _ b c => regs [b, c]
  | .send d b _ | .recv d b _ => regs [d, b]
  | .amoAdd _ b s _ _ _ | .amoMin _ b s _ _ _ | .amoMax _ b s _ _ _ | .amoXchg _ b s _ _ _ | .amoAnd _ b s _ _ _
  | .amoOr _ b s _ _ _ => regs [b, s]
  | .amoCas d b s _ _ _ _ => regs [d, b, s]
  | .amoscAdd _ b s _ | .amoscMin _ b s _ | .amoscMax _ b s _ | .amoscXchg _ b s _ | .amoscAnd _ b s _
  | .amoscOr _ b s _ => regs [b, s]
  | .amoscCas d b s _ => regs [d, b, s]
  | .cpy _ a b c l _ _ | .cpyb _ a b c l _ _ => regs (a :: b :: unlessLit l c)
  | .cpy2d _ a b c l _ _ => regs (a :: b :: unlessLit l c)
  | .strm a | .texec a | .tissue a _ => regs [a]
  | .sctr a b c l | .rred a b c l => regs (a :: b :: unlessLit l c)
  | .qpush a b => regs [a, b]
  | .fsig a c l _ | .cwait _ a c l _ => regs (a :: unlessLit l c)
  | _ => []

/-- The x registers that a slot writes (R462). -/
def Instr.xWrites : Instr → List (BitVec 5)
  | .add d _ _ _ | .sub d _ _ _ | .and d _ _ _ | .or d _ _ _ | .xor d _ _ _ | .andn d _ _ _ | .shl d _ _ _
  | .shr d _ _ _ | .sar d _ _ _ | .rot d _ _ _ | .min d _ _ _ | .max d _ _ _ | .minu d _ _ _ | .maxu d _ _ _
  | .slt d _ _ _ | .sltu d _ _ _ | .seq d _ _ _ | .mul d _ _ _ | .mulh d _ _ _ | .mulhu d _ _ _ | .div d _ _ _
  | .divu d _ _ _ | .rem d _ _ _ | .remu d _ _ _ | .sel d _ _ _ _ | .bext d _ _ _ _ | .bins d _ _ _ _ => regs [d]
  | .clz d _ _ | .ctz d _ _ | .ffs d _ _ | .popc d _ _ | .brev d _ _ | .kmovXK d _ | .kpopc d _ | .kfirst d _ => regs [d]
  | .addi d _ _ | .andi d _ _ | .ori d _ _ | .xori d _ _ | .shli d _ _ | .shri d _ _ | .sari d _ _ | .li d _ => regs [d]
  | .call _ => [31]
  | .loop a _ => regs [a]
  | .csrr d _ => regs [d]
  | .setshape d _ _ => regs [d, d + 1]
  | .settile d _ => regs [d, d + 1, d + 2]
  | .ldB d _ _ _ | .ldH d _ _ _ | .ldW d _ _ _ | .ldD d _ _ _ | .ldBu d _ _ _ | .ldHu d _ _ _ | .ldWu d _ _ _ => regs [d]
  | .ldgB d _ _ | .ldgH d _ _ | .ldgW d _ _ | .ldgD d _ _ | .ldgBu d _ _ | .ldgHu d _ _ | .ldgWu d _ _ => regs [d]
  | .qfillgFf _ _ c => regs [c]
  | .amoAdd d _ _ _ _ _ | .amoMin d _ _ _ _ _ | .amoMax d _ _ _ _ _ | .amoXchg d _ _ _ _ _ | .amoAnd d _ _ _ _ _
  | .amoOr d _ _ _ _ _ | .amoCas d _ _ _ _ _ _ => regs [d]
  | .amoscAdd d _ _ _ | .amoscMin d _ _ _ | .amoscMax d _ _ _ | .amoscXchg d _ _ _ | .amoscAnd d _ _ _
  | .amoscOr d _ _ _ | .amoscCas d _ _ _ => regs [d]
  | .vxferElement d _ _ => regs [d]
  | .vxferKcount d _ => regs [d]
  | _ => []

/-- The registers that outstanding interlocked results will write (R164, R462): LDG, QFILLG.FF and VXFER. A count of QFILLG.FF that the
log holds has been delivered (R107). -/
def Core.interlocked (k : Core) : List (BitVec 5) :=
  k.rs.ldgs.map (fun l => l.d) ++ k.vxferOut ++
    k.grid.queues.toList.flatMap (fun q => (q.entries.filter (fun e => !e.settled)).filterMap (fun e =>
      (e.ff.filter (fun f => (k.rs.log.getD f.2.2 none).isNone)).map (fun f => f.1)))

/-- The destinations of felt loads past issue count 4 that have not arrived (R91). -/
def Core.feltHeld (k : Core) (cyc : Word) : List (BitVec 5) :=
  (k.rs.pend.filter (fun e => decide (e.due ≤ k.rs.issue) && decide (cyc.toNat < e.arr.toNat))).filterMap (fun e =>
    match e.dst with
    | .x r => some r
    | _ => none)

end Sys2Proof.Machine
end

