-- ==== Sys2Proof/Machine/Flags.lean ====
section
/-! DEFINITION. Flag and control-register computations: sr.flags and its explicit writes (R145, R146), the numbers of
Table 7.7 (R159, R160, R191), the couch registers (R119), and fmt (R122, R123). The flags of arithmetic stand with the
arithmetic (Numbers); masked lanes raise none and they are set at retirement (R145). -/

namespace Sys2Proof.Machine

/-- The value a control write gives: CSRW writes, CSRS sets, CSRC clears (R191). -/
def csrValue (op : BitVec 2) (old v : Word) : Word :=
  match op.toNat with
  | 0 => v
  | 1 => old ||| v
  | _ => old &&& ~~~v

/-- sr.flags after an explicit write (R146). -/
def flagsWrite (op : BitVec 2) (f : Flags) (v : Word) : Flags := (csrValue op (f.setWidth 64) v).setWidth 7

/-- A number of Table 7.7 (R159). -/
def csrListed (c : BitVec 12) : Bool :=
  [0x000, 0x001, 0x002, 0x003, 0x004, 0x005, 0x010, 0x011, 0x012, 0x020, 0x021, 0x030, 0x031, 0x032, 0x033].contains c.toNat
/-- A register that Table 7.7 marks read, write. -/
def csrWritable (c : BitVec 12) : Bool := [0x010, 0x020, 0x021, 0x030, 0x031].contains c.toNat
/-- The reserved bits of a writable register (Tables 5.4, 6.8). -/
def csrReserved (c : BitVec 12) : Word :=
  match c.toNat with
  | 0x010 => ~~~0x7F
  | 0x020 => 0xFFFFFFFFFF00FE00
  | _ => 0

/-- sr.couch as it reads (Table 5.4): GO reads 0, BUSY is 1 while an operation is unfinished. -/
def Couch.word (c : Couch) : Word :=
  BitVec.ofNat 64 (c.base.toNat * 65536 + (if c.op then 128 else 0) + (if c.active then 64 else 0) + c.next % 64)

/-- The fields of sr.couch written (R119); GO starts an operation. -/
def Couch.write (c : Couch) (op : BitVec 2) (v : Word) : Couch :=
  let w := csrValue op c.word v
  { c with base := w.extractLsb' 16 8, op := w.getLsbD 7, next := (w.extractLsb' 0 6).toNat
           active := c.active || w.getLsbD 8 }

/-- sr.couch as the forwarded writes before the read leave it. -/
def Grid.couchAhead (g : Grid) : Couch :=
  g.giq.foldl (fun c p =>
    match p.sw with
    | some (.couch op v) => c.write op v
    | _ => c) g.couch

/-- The value of a register that CSRR reads (Table 7.7). -/
def State.csrRead (s : State) (c : BitVec 12) : Word :=
  let k := s.me
  match c.toNat with
  | 0x000 => s.cyc s.cur
  | 0x001 => s.cyc s.cur
  | 0x002 => s.coreid s.cur
  | 0x003 => s.srCtx s.cur
  | 0x004 => k.bufcap
  | 0x005 => BitVec.ofNat 64 ((s.ports[0]).factor.toNat + 2 ^ 32 * (s.ports[1]).factor.toNat)
  | 0x010 => k.grid.flags.setWidth 64
  | 0x011 => k.fmt
  | 0x012 => k.shp
  | 0x020 => k.grid.couch.word
  | 0x021 => k.grid.couch.mask
  | 0x030 => k.ctl.tvec
  | 0x031 => k.ctl.epc
  | 0x032 => k.ctl.cause
  | _ => k.ctl.tval

/-! ### fmt (Table 6.1) -/

def fmtTA (f : Word) : Ty := ⟨f.extractLsb' 0 4, f.extractLsb' 12 3, f.getLsbD 21⟩
def fmtTB (f : Word) : Ty := ⟨f.extractLsb' 4 4, f.extractLsb' 15 3, f.getLsbD 22⟩
def fmtTD (f : Word) : Ty := ⟨f.extractLsb' 8 4, f.extractLsb' 18 3, f.getLsbD 23⟩
def fmtRc (f : Word) : Rc := ⟨f.extractLsb' 24 3, f.getLsbD 27⟩
def fmtBSE (f : Word) : Bool := f.getLsbD 28
/-- A value SETFMT accepts (R123): reserved fields zero, RND not 6 or 7. -/
def fmtOk (f : Word) : Bool := decide (f.extractLsb' 29 35 = 0) && decide ((f.extractLsb' 24 3).toNat < 6)

/-- The details of the illegal-format trap (Table 8.9): 1 reserved type, 2 reserved precision, 3 type not accepted,
4 block scale disabled. -/
abbrev FmtDetail := Nat

/-- The first failing format check of a slot in the order of Table 8.9 (R123, R179): the types it reads, whether it
accepts them, and whether it needs BSE. -/
def fmtCheck (tys : List Ty) (accepted : Bool) (needBse : Bool) (fmt : Word) : Option FmtDetail :=
  if tys.any (fun t => decide (13 ≤ t.code.toNat)) then some 1
  else if tys.any (fun t => t.isB8 && decide (t.prec = 0)) then some 2
  else if !accepted then some 3
  else if needBse && !fmtBSE fmt then some 4
  else none

end Sys2Proof.Machine
end

