-- ==== Sys2Proof/Machine/Scalar.lean ====
section
/-! DEFINITION. S slots that compute on x and k registers (R180 to R187). One definition per instruction. -/

namespace Sys2Proof.Machine

/-! ### Shared operations -/

/-- x[d] := f (x[a], b) at a latency (R180, R182, R184). -/
def State.regOp (s : State) (d a b : BitVec 5) (l : Bool) (lat : Nat) (f : Word → Word → Word) :
    Host.Outcome State Fault Refusal :=
  .next (s.result d (f (s.rx a) (s.opB b l)) lat)

/-- x[d] := f (x[a], imm) at latency 1 (R183). -/
def State.immOp (s : State) (d a : BitVec 5) (i : BitVec 15) (f : Word → Word → Word) :
    Host.Outcome State Fault Refusal :=
  .next (s.result d (f (s.rx a) (s.imm i)) 1)

/-- The shift amount: bits [5:0] (R182). -/
def shamt (b : Word) : Nat := (b.extractLsb' 0 6).toNat
/-- A truth value as a register value. -/
def boolWord (b : Bool) : Word := if b then 1 else 0

/-- DIV (R184). -/
def divS (a b : Word) : Word :=
  if b = 0 then BitVec.allOnes 64 else BitVec.ofInt 64 (a.toInt.tdiv b.toInt)
/-- DIVU (R184). -/
def divU (a b : Word) : Word := if b = 0 then BitVec.allOnes 64 else BitVec.ofNat 64 (a.toNat / b.toNat)
/-- REM (R184): the sign of x[a]. -/
def remS (a b : Word) : Word := if b = 0 then a else BitVec.ofInt 64 (a.toInt.tmod b.toInt)
/-- REMU (R184). -/
def remU (a b : Word) : Word := if b = 0 then a else BitVec.ofNat 64 (a.toNat % b.toNat)
/-- Bits [127:64] of the signed product (R184). -/
def mulHigh (a b : Word) : Word := BitVec.ofInt 64 ((a.toInt * b.toInt).fdiv (2 ^ 64))
/-- Bits [127:64] of the unsigned product (R184). -/
def mulHighU (a b : Word) : Word := BitVec.ofNat 64 (a.toNat * b.toNat / 2 ^ 64)

/-! ### Integer register operations (R182, R184, R185) -/

def execNop (s : State) : Host.Outcome State Fault Refusal := .next s
def execAdd (d a b : BitVec 5) (l : Bool) (s : State) := s.regOp d a b l 1 (fun x y => x + y)
def execSub (d a b : BitVec 5) (l : Bool) (s : State) := s.regOp d a b l 1 (fun x y => x - y)
def execAnd (d a b : BitVec 5) (l : Bool) (s : State) := s.regOp d a b l 1 (fun x y => x &&& y)
def execOr (d a b : BitVec 5) (l : Bool) (s : State) := s.regOp d a b l 1 (fun x y => x ||| y)
def execXor (d a b : BitVec 5) (l : Bool) (s : State) := s.regOp d a b l 1 (fun x y => x ^^^ y)
def execAndn (d a b : BitVec 5) (l : Bool) (s : State) := s.regOp d a b l 1 (fun x y => x &&& ~~~y)
def execShl (d a b : BitVec 5) (l : Bool) (s : State) := s.regOp d a b l 1 (fun x y => x <<< shamt y)
def execShr (d a b : BitVec 5) (l : Bool) (s : State) := s.regOp d a b l 1 (fun x y => x >>> shamt y)
def execSar (d a b : BitVec 5) (l : Bool) (s : State) := s.regOp d a b l 1 (fun x y => x.sshiftRight (shamt y))
def execRot (d a b : BitVec 5) (l : Bool) (s : State) := s.regOp d a b l 1 (fun x y => x.rotateLeft (shamt y))
def execMin (d a b : BitVec 5) (l : Bool) (s : State) := s.regOp d a b l 1 (fun x y => if x.slt y then x else y)
def execMax (d a b : BitVec 5) (l : Bool) (s : State) := s.regOp d a b l 1 (fun x y => if x.slt y then y else x)
def execMinu (d a b : BitVec 5) (l : Bool) (s : State) := s.regOp d a b l 1 (fun x y => if x.ult y then x else y)
def execMaxu (d a b : BitVec 5) (l : Bool) (s : State) := s.regOp d a b l 1 (fun x y => if x.ult y then y else x)
def execSlt (d a b : BitVec 5) (l : Bool) (s : State) := s.regOp d a b l 1 (fun x y => boolWord (x.slt y))
def execSltu (d a b : BitVec 5) (l : Bool) (s : State) := s.regOp d a b l 1 (fun x y => boolWord (x.ult y))
def execSeq (d a b : BitVec 5) (l : Bool) (s : State) := s.regOp d a b l 1 (fun x y => boolWord (x == y))
def execMul (d a b : BitVec 5) (l : Bool) (s : State) := s.regOp d a b l 3 (fun x y => x * y)
def execMulh (d a b : BitVec 5) (l : Bool) (s : State) := s.regOp d a b l 3 mulHigh
def execMulhu (d a b : BitVec 5) (l : Bool) (s : State) := s.regOp d a b l 3 mulHighU
def execDiv (d a b : BitVec 5) (l : Bool) (s : State) := s.regOp d a b l 20 divS
def execDivu (d a b : BitVec 5) (l : Bool) (s : State) := s.regOp d a b l 20 divU
def execRem (d a b : BitVec 5) (l : Bool) (s : State) := s.regOp d a b l 20 remS
def execRemu (d a b : BitVec 5) (l : Bool) (s : State) := s.regOp d a b l 20 remU
/-- SEL (R185): x[s] /= 0 picks x[a], else b. -/
def execSel (d a b : BitVec 5) (l : Bool) (c : BitVec 5) (s : State) :=
  s.regOp d a b l 1 (fun x y => if s.rx c ≠ 0 then x else y)

/-! ### Packed bit operations (R186) -/

/-- The low `w` bits of a number, lowest first. -/
def bitList (w n : Nat) : List Bool := (List.range w).map n.testBit
/-- The number of a bit list, lowest first. -/
def bitNat : List Bool → Nat
  | [] => 0
  | b :: l => b.toNat + 2 * bitNat l
/-- BINS: low bits of the source at the places where the mask is 1. -/
def deposit : List Bool → List Bool → List Bool
  | _, [] => []
  | s, false :: m => false :: deposit s m
  | [], true :: m => false :: deposit [] m
  | b :: s, true :: m => b :: deposit s m

/-- One field of the result from the same fields of the sources. -/
def packed (w : BitVec 2) (f : Nat → List Bool → List Bool → Nat) (a m : Word) : Word :=
  let n := 8 * 2 ^ w.toNat
  BitVec.ofNat 64 ((List.range (64 / n)).foldl (fun acc i =>
    acc + f n (bitList n (a.toNat / 2 ^ (n * i))) (bitList n (m.toNat / 2 ^ (n * i))) % 2 ^ n * 2 ^ (n * i)) 0)

def clzField (_ : Nat) (s _ : List Bool) : Nat := (s.reverse.takeWhile (fun b => !b)).length
def ctzField (_ : Nat) (s _ : List Bool) : Nat := (s.takeWhile (fun b => !b)).length
def ffsField (n : Nat) (s m : List Bool) : Nat := if s.any id then ctzField n s m + 1 else 0
def popcField (_ : Nat) (s _ : List Bool) : Nat := (s.filter id).length
def brevField (_ : Nat) (s _ : List Bool) : Nat := bitNat s.reverse
def bextField (_ : Nat) (s m : List Bool) : Nat := bitNat (((s.zip m).filter (fun p => p.2)).map Prod.fst)
def binsField (_ : Nat) (s m : List Bool) : Nat := bitNat (deposit s m)

/-- x[d] := the packed operation of x[a], at latency 1. -/
def State.bitOp (s : State) (d a : BitVec 5) (w : BitVec 2) (f : Nat → List Bool → List Bool → Nat) :
    Host.Outcome State Fault Refusal :=
  .next (s.result d (packed w f (s.rx a) 0) 1)

def execClz (d a : BitVec 5) (w : BitVec 2) (s : State) := s.bitOp d a w clzField
def execCtz (d a : BitVec 5) (w : BitVec 2) (s : State) := s.bitOp d a w ctzField
def execFfs (d a : BitVec 5) (w : BitVec 2) (s : State) := s.bitOp d a w ffsField
def execPopc (d a : BitVec 5) (w : BitVec 2) (s : State) := s.bitOp d a w popcField
def execBrev (d a : BitVec 5) (w : BitVec 2) (s : State) := s.bitOp d a w brevField
def execBext (d a b : BitVec 5) (l : Bool) (w : BitVec 2) (s : State) := s.regOp d a b l 1 (packed w bextField)
def execBins (d a b : BitVec 5) (l : Bool) (w : BitVec 2) (s : State) := s.regOp d a b l 1 (packed w binsField)

/-! ### Mask operations (R187) -/

/-- k[d] := v, visible after 1 issue cycle and carried to the grid-side copy (R158). -/
def State.kResult (s : State) (d : BitVec 5) (v : Word) : State :=
  (s.modMe (fun k => k.expose (.k (kIdx d)) v 1)).modSlot (fun c =>
    { c with pkt := { c.pkt with sw := some (.kreg (kIdx d) v) } })

def execKand (d a b : BitVec 5) (s : State) : Host.Outcome State Fault Refusal := .next (s.kResult d (s.rk a &&& s.rk b))
def execKor (d a b : BitVec 5) (s : State) : Host.Outcome State Fault Refusal := .next (s.kResult d (s.rk a ||| s.rk b))
def execKxor (d a b : BitVec 5) (s : State) : Host.Outcome State Fault Refusal := .next (s.kResult d (s.rk a ^^^ s.rk b))
def execKnot (d a : BitVec 5) (s : State) : Host.Outcome State Fault Refusal := .next (s.kResult d (~~~(s.rk a)))
def execKmovKK (d a : BitVec 5) (s : State) : Host.Outcome State Fault Refusal := .next (s.kResult d (s.rk a))
def execKmovKX (d a : BitVec 5) (s : State) : Host.Outcome State Fault Refusal := .next (s.kResult d (s.rx a))
def execKmovXK (d a : BitVec 5) (s : State) : Host.Outcome State Fault Refusal := .next (s.result d (s.rk a) 1)
def execKpopc (d a : BitVec 5) (s : State) : Host.Outcome State Fault Refusal :=
  .next (s.result d (BitVec.ofNat 64 (popcField 64 (bitList 64 (s.rk a).toNat) [])) 1)
def execKfirst (d a : BitVec 5) (s : State) : Host.Outcome State Fault Refusal :=
  .next (s.result d (BitVec.ofNat 64 (ctzField 64 (bitList 64 (s.rk a).toNat) [])) 1)

/-! ### Immediate forms (R183) -/

def execAddi (d a : BitVec 5) (i : BitVec 15) (s : State) := s.immOp d a i (fun x y => x + y)
def execAndi (d a : BitVec 5) (i : BitVec 15) (s : State) := s.immOp d a i (fun x y => x &&& y)
def execOri (d a : BitVec 5) (i : BitVec 15) (s : State) := s.immOp d a i (fun x y => x ||| y)
def execXori (d a : BitVec 5) (i : BitVec 15) (s : State) := s.immOp d a i (fun x y => x ^^^ y)
def execShli (d a : BitVec 5) (i : BitVec 15) (s : State) := s.immOp d a i (fun x y => x <<< shamt y)
def execShri (d a : BitVec 5) (i : BitVec 15) (s : State) := s.immOp d a i (fun x y => x >>> shamt y)
def execSari (d a : BitVec 5) (i : BitVec 15) (s : State) := s.immOp d a i (fun x y => x.sshiftRight (shamt y))
def execLi (d : BitVec 5) (i : BitVec 15) (s : State) : Host.Outcome State Fault Refusal :=
  .next (s.result d (s.imm i) 1)

end Sys2Proof.Machine
end

