-- ==== Sys2Proof/Machine/Control.lean ====
section
/-! DEFINITION. S slots that transfer control, touch control registers, synchronise and end (R188 to R203). -/

namespace Sys2Proof.Machine

/-! ### Control transfers (R188 to R190) -/

/-- A taken branch transfers after the packet and costs one cycle (R153, R188). -/
def State.branch (s : State) (taken : Bool) (o : BitVec 12) : Host.Outcome State Fault Refusal :=
  .next (if taken then s.jump (s.target12 o) true else s)

def execBEq (a b : BitVec 5) (o : BitVec 12) (s : State) := s.branch (s.rx a == s.rx b) o
def execBNe (a b : BitVec 5) (o : BitVec 12) (s : State) := s.branch (s.rx a != s.rx b) o
def execBLt (a b : BitVec 5) (o : BitVec 12) (s : State) := s.branch ((s.rx a).slt (s.rx b)) o
def execBGe (a b : BitVec 5) (o : BitVec 12) (s : State) := s.branch (!(s.rx a).slt (s.rx b)) o
def execBLtu (a b : BitVec 5) (o : BitVec 12) (s : State) := s.branch ((s.rx a).ult (s.rx b)) o
def execBGeu (a b : BitVec 5) (o : BitVec 12) (s : State) := s.branch (!(s.rx a).ult (s.rx b)) o
/-- J (R188). -/
def execJ (o : BitVec 25) (s : State) : Host.Outcome State Fault Refusal := .next (s.jump (s.target25 o) true)
/-- CALL (R189): x31 takes the address after the packet. -/
def execCall (o : BitVec 25) (s : State) : Host.Outcome State Fault Refusal :=
  .next ((s.result 31 s.slot.nextAddr 1).jump (s.target25 o) true)

/-- A transfer target lies in the kernel's code range (R189). -/
def State.inCode (s : State) (t : Word) : Bool :=
  let e := s.env s.cur
  decide (e.codeVa.toNat ≤ t.toNat ∧ t.toNat < e.codeVa.toNat + e.codeLen)

/-- RET (R189): an odd target, or one outside the code range, is the fetch-range fault at this bundle. -/
def execRet (a : BitVec 5) (s : State) : Host.Outcome State Fault Refusal :=
  let t := s.rx a
  .next (if t.getLsbD 0 || !s.inCode t then s.raise 0x072 t else s.jump t true)

/-- LOOP (R190): the decrement is visible at latency 1; a fall-through to 0 costs a cycle (R153). -/
def execLoop (a : BitVec 5) (o : BitVec 12) (s : State) : Host.Outcome State Fault Refusal :=
  let v := s.rx a
  .next (if v = 0 then s
    else
      let s := s.result a (v - 1) 1
      if v = 1 then s.modSlot (fun c => { c with lost := true }) else s.jump (s.target12 o) false)

/-! ### Control and status registers (R191, R192) -/

/-- A packet forwarded before has not retired, or not issued on the grid (R146). -/
def Core.gridBusy (k : Core) : Bool := !k.grid.pkts.isEmpty || k.grid.giq.any (fun p => decide (p.fwd < k.rs.fwd))

/-- A couch operation forwarded before has not finished, or the grid engine has not reached its packet (R121). -/
def Core.couchBusy (k : Core) : Bool := k.grid.couch.active || k.grid.giq.any (fun p => decide (p.fwd < k.rs.fwd))

/-- The wait of a CSRR for the grid side; inside a timed region the timing fault (R320; log 138). -/
def State.csrrWait (s : State) (w : Wait) : State := if s.me.timed then s.timing 9 else s.hold w

/-- CSRR (R192): the value is logged; in replay it comes from the log (R107). -/
def execCsrr (d : BitVec 5) (c : BitVec 12) (s : State) : Host.Outcome State Fault Refusal :=
  .next (if !csrListed c then s.illegal .reservedRegister
    else
      match s.me.logged with
      | some v => (s.result d v 1).modMe (fun k => k.logAdvance 1)
      | none =>
        if !s.me.logRoom 1 then s.raise 0x0C2 33
        else if c = 0x010 ∧ s.me.gridBusy then s.csrrWait .flags
        else if (c = 0x020 ∨ c = 0x021) ∧ s.me.couchBusy then s.csrrWait .couch
        else
          let v := s.csrRead c
          (s.result d v 1).modMe (fun k => k.logPut (some v)))

/-- A write performed on the grid side travels with its packet (R119, R146, R192). -/
def State.forwardWrite (s : State) (w : SWrite) : State :=
  s.modSlot (fun c => { c with pkt := { c.pkt with sw := some w } })

/-- The fields a write of sr.couch asks for break the bound of R121: GO with (BASE + 64) * 256 above gbext. -/
def State.couchBound (s : State) (op : BitVec 2) (v : Word) : Option Word :=
  let w := csrValue op s.me.grid.couchAhead.word v
  let a := ((w.extractLsb' 16 8).toNat + 64) * 256
  if w.getLsbD 8 ∧ (s.env s.cur).gbext < a then some (BitVec.ofNat 64 ((w.extractLsb' 16 8).toNat * 256)) else none

/-- CSRW, CSRS and CSRC with code 0, 1, 2 (R160, R191, R192). A write of sr.couch travels with its packet and is performed in packet
order; the fields of one with GO = 0 take effect then without an operation (R119). -/
def State.csrWrite (s : State) (op : BitVec 2) (c : BitVec 12) (v : Word) : State :=
  if !csrListed c then s.illegal .reservedRegister
  else if !csrWritable c then s.illegal .readOnlyRegister
  else if op ≠ 2 ∧ v &&& csrReserved c ≠ 0 then s.illegal .reservedField
  else if op = 0 ∧ (c = 0x030 ∨ c = 0x031) ∧ v.getLsbD 0 then s.illegal .reservedField
  else
    match c.toNat with
    | 0x020 =>
      match s.couchBound op v with
      | some a => s.raise 0x050 a
      | none => s.forwardWrite (.couch op v)
    | 0x010 => s.irrevocable (fun s => s.forwardWrite (.flags op v))
    | 0x021 => s.irrevocable (fun s => s.forwardWrite (.couchm op v))
    | 0x030 => s.irrevocable (fun s => s.modCtl s.cur (fun t => { t with tvec := csrValue op t.tvec v }))
    | _ => s.irrevocable (fun s => s.modCtl s.cur (fun t => { t with epc := csrValue op t.epc v }))

def execCsrw (a : BitVec 5) (c : BitVec 12) (s : State) : Host.Outcome State Fault Refusal := .next (s.csrWrite 0 c (s.rx a))
def execCsrs (a : BitVec 5) (c : BitVec 12) (s : State) : Host.Outcome State Fault Refusal := .next (s.csrWrite 1 c (s.rx a))
def execCsrc (a : BitVec 5) (c : BitVec 12) (s : State) : Host.Outcome State Fault Refusal := .next (s.csrWrite 2 c (s.rx a))

/-! ### Format, deckle and seed (R193 to R196) -/

/-- SETFMT (R193): effect at 4 issue cycles. -/
def execSetfmt (a : BitVec 5) (s : State) : Host.Outcome State Fault Refusal :=
  let v := s.rx a
  .next (if fmtOk v then s.modMe (fun k => k.expose .fmt v 4) else s.illegal .reservedField)

/-- SETSHAPE (R194): granted rows and columns at latency 2. -/
def execSetshape (d a b : BitVec 5) (s : State) : Host.Outcome State Fault Refusal :=
  let q := s.rx a
  let r0 := (q.extractLsb' 16 6).toNat
  let rows := min (q.extractLsb' 0 16).toNat (64 - r0)
  let cols := min (s.rx b).toNat 64
  .next (if q.extractLsb' 22 42 ≠ 0 then s.illegal .reservedField
    else
      let s := (s.result d (BitVec.ofNat 64 rows) 2).result (d + 1) (BitVec.ofNat 64 cols) 2
      if 0 < rows ∧ 0 < cols then s.modMe (fun k => k.expose .shape (mkShp r0 rows cols) 2) else s)

/-- SETTILE (R195): ROW0 as the packet carries it limits the rows and is the ROW0 that the effect keeps, so that ROW0 + ROWS
never exceeds 64 (R161). -/
def execSettile (d a : BitVec 5) (s : State) : Host.Outcome State Fault Refusal :=
  let r0 := shpRow0 s.me.shp
  let m := min (s.rx a).toNat (64 - r0)
  let n := min (s.rx (a + 1)).toNat 64
  let k := min (s.rx (a + 2)).toNat 64
  let s := ((s.result d (BitVec.ofNat 64 m) 2).result (d + 1) (BitVec.ofNat 64 n) 2).result (d + 2) (BitVec.ofNat 64 k) 2
  .next (if 0 < m ∧ 0 < n then s.modMe (fun c => c.expose .shape (mkShp r0 m n) 2) else s)

/-- SEED (R196, R137): carried to the grid side with the packet. -/
def execSeed (a : BitVec 5) (s : State) : Host.Outcome State Fault Refusal := .next (s.forwardWrite (.seed (s.rx a)))

/-! ### Traps (R197, R198) -/

/-- The software trap entered: sr.epc is the address after the packet, sr.tval the number. -/
def State.softTrap (s : State) (n : BitVec 15) : State :=
  let s := s.trapEntry s.cur ⟨0x0D0, n.setWidth 64, s.slot.nextAddr, s.slot.bunAddr⟩
  s.modSlot (fun c => { c with npc := s.me.ctl.pc })

/-- TRAP (R197): irrevocable; every slot of its packet performs, and the step executes this slot after the others. -/
def execTrap (n : BitVec 15) (s : State) : Host.Outcome State Fault Refusal := .next (s.irrevocable (fun s => s.softTrap n))

/-- ERET (R198): outside trap handling the trap-state fault; else handling ends and issue resumes at sr.epc, at the cost of one
cycle as for a RET (log 105: R153 does not name ERET). -/
def execEret (s : State) : Host.Outcome State Fault Refusal :=
  .next (if !s.me.ctl.inTrap then s.raise 0x0E1 0
    else
      let s := s.modMe Core.trapReturn
      s.jump s.me.ctl.epc true)

/-! ### Synchronisation (R199 to R201, R317, R325) -/

/-- The end of the lines of R318 from a CSYNC's packet: 8,192 bytes past it, or the end of the code range. -/
def State.regionEnd (s : State) (c : CoreIx) (pkt : Nat) : Nat :=
  let e := s.env c
  min (pkt + 8192) (e.codeVa.toNat + e.codeLen)

/-- The timed region opens (R317), its lines locked from the CSYNC's packet on (R318). -/
def State.openRegion (s : State) (at_ : Word) : State :=
  let hi := s.regionEnd s.cur s.slot.pktAddr.toNat
  s.modMe (fun k => { k with
    region := { start := some at_, lockLo := s.slot.pktAddr, lockHi := BitVec.ofNat 64 hi, sends := [], recvs := [] }
    ctl := { k.ctl with csyncAt := none } })

/-- CSYNC (R199, R317): it waits until it completes on every participant at one cluster cycle, which is cycle 0 of the
region; one inside a region ends that region as it arrives (log 128). -/
def execCsync (s : State) : Host.Outcome State Fault Refusal :=
  .next (s.irrevocable (fun s =>
    match s.me.ctl.csyncAt with
    | none => s.hold .csync
    | some at_ =>
      if (s.cyc s.cur).toNat < at_.toNat then s.hold .csync else s.openRegion at_))

/-- bit N of bmask is set (R200). -/
def State.barrierOk (s : State) (n : BitVec 4) : Bool := (s.env s.cur).bmask.getLsbD n.toNat

/-- BARA (R200, R325): arrives and does not wait; an early arrival is the barrier fault. -/
def execBara (n : BitVec 4) (s : State) : Host.Outcome State Fault Refusal :=
  .next (if !s.barrierOk n then s.illegal .reservedField
    else
      match s.myGroup with
      | none => s
      | some g =>
        let r := g.rankOf s.cur
        if g.bar.broken then s
        else if g.bar.arr.contains (n, r) then s.raise 0x0F1 (n.setWidth 64)
        else s.irrevocable (fun s =>
          (s.modGroup g.id (fun g => { g with bar := { g.bar with arr := g.bar.arr ++ [(n, r)] } })).completeCheck g.id n))

/-- The wait of a core at a barrier has been released: P has moved past wp (R325). -/
def Group.barPassed (g : Group) (r : Nat) (n : BitVec 4) : Bool :=
  g.bar.w.any (fun w => decide (w.1 = r ∧ w.2.1 = n) && decide (g.bar.phase n ≠ w.2.2))

/-- BARW (R200, R325): arrives once, waits until the phase completes. -/
def execBarw (n : BitVec 4) (s : State) : Host.Outcome State Fault Refusal :=
  .next (if !s.barrierOk n then s.illegal .reservedField
    else if s.me.timed then s.timing 8
    else s.irrevocable (fun s =>
      let t := s.barwArrive s.cur n
      match t.myGroup with
      | none => t
      | some g =>
        let r := g.rankOf s.cur
        if g.bar.broken then t
        else if g.barPassed r n then
          t.modGroup g.id (fun g => { g with bar := { g.bar with w := g.bar.w.filter (fun w => decide (w.1 ≠ r)) } })
        else s.hold (.barw n)))

/-- FWAIT (R201): waits until fc[N] reaches the threshold; the read that meets it is the acquire. -/
def execFwait (a : BitVec 5) (sc : BitVec 3) (l : Bool) (n : BitVec 8) (s : State) : Host.Outcome State Fault Refusal :=
  let t := if l then s.litS else s.rx a
  .next (if s.scopeMasked sc then s.illegal .featureMasked
    else if s.me.timed then s.timing 8
    else s.irrevocable (fun s =>
      if t.toNat ≤ ((s.ctx (s.ctxOf s.cur)).counter n).toNat then s else s.hold (.fwait n t)))

/-! ### Ending (R202) -/

/-- EXIT (R202, R325): the gate commits, the core enters EXITED, its region ends, and its barriers are checked. -/
def State.exitCore (s : State) : State :=
  let s := s.commitAll s.cur
  let s := s.modCtl s.cur (fun t => { t with st := .exited, wait := none })
  let s := if s.me.timed then s.endRegion s.cur else s
  match s.me.grp with
  | none => s
  | some g => (List.range 16).foldl (fun s b => s.completeCheck g (BitVec.ofNat 4 b)) s

/-- EXIT (R202): irrevocable; every slot of its packet performs, and the step executes this slot after the others. -/
def execExit (s : State) : Host.Outcome State Fault Refusal := .next (s.irrevocable State.exitCore)

/-- A null bundle has no effect; a literal it carries is skipped (R148). -/
def execNullBundle (_ _ _ : Bool) (s : State) : Host.Outcome State Fault Refusal := .next s

end Sys2Proof.Machine
end

