-- ==== Sys2Proof/Machine/Access.lean ====
section
/-! DEFINITION. A slots but for atomics (R205 to R220, R226): loads, stores, fills, grid transfers, SEND and RECV. -/

namespace Sys2Proof.Machine

/-! ### Shared operations -/

/-- One byte as a load of the packet reads it (R103, R208): the buffer before the packet, under the held stores that are
older than the packet. -/
def State.loadByte (s : State) (sp : Space) (a : Nat) : Byte :=
  match s.slot.undo.find? (fun u => decide (u.1 = sp ∧ u.2.1 = a)) with
  | some u => u.2.2
  | none => (heldByte (s.me.rs.gate.take s.slot.older) sp a).getD ((s.me.buf sp).read a)

/-- A wait for an outstanding VLD or VST; inside a timed region the timing fault (R217). -/
def State.xferWait (s : State) : State := if s.me.timed then s.timing 9 else s.hold .transfer

/-- The latency of an LD in the run mode (R89, R91, R92). -/
def State.ldLatency (s : State) (sp : Space) : Nat :=
  if (s.env s.cur).mode = .feltTimed ∧ (sp = .xb ∨ sp = .wb) then 6 else 4

/-- LD (R207): checks of R205, the timing fault of R94, the log (R104), the wait of R217, then the merged bytes. -/
def State.load (s : State) (w : LdW) (d b : BitVec 5) (p : BitVec 2) (o : BitVec 13) : Host.Outcome State Fault Refusal :=
  let sp := spaceOf p
  let a := s.ea b o w.bytes
  .next (match s.bufFault sp a w.bytes w.bytes with
    | some c => s.raise c a
    | none =>
      if s.me.timed ∧ felt sp a.toNat w.bytes then s.timing 0x0A
      else
        match s.me.logged with
        | some v => (s.result d v (s.ldLatency sp)).modMe (fun k => k.logAdvance 1)
        | none =>
          if !s.me.logRoom 1 then s.raise 0x0C2 33
          else if s.me.xferBusy sp a.toNat w.bytes false then s.xferWait
          else
            let v := w.extend ((List.range w.bytes).map (fun i => s.loadByte sp (a.toNat + i)))
            let arr : Word := if (s.env s.cur).mode = .interlocked ∧ felt sp a.toNat w.bytes then s.cyc s.cur + 6 else 0
            s.modMe (fun k => (k.expose (.x d) v (s.ldLatency sp) arr).logPut (some v)))

/-- The low bytes of a register. -/
def lowBytes (n : Nat) (v : Word) : List Byte := leBytes n v.toNat

/-- A store enters the gate, behind a transfer of its own packet that it meets; the 33rd of a region is the restart-overflow trap (R103). -/
def State.gatePut (s : State) (h : Held) : State :=
  if !s.me.timed ∧ 32 ≤ s.me.rs.gate.length then s.raise 0x0C1 33
  else
    (s.modSlot (fun t => { t with behind := t.behind || s.ownXfer h.space h.addr h.data.length true })).modRs s.cur (fun r =>
      { r with gate := r.gate ++ [h] })

/-- ST (R207). -/
def State.store (s : State) (n : Nat) (r b : BitVec 5) (p : BitVec 2) (o : BitVec 13) : Host.Outcome State Fault Refusal :=
  let sp := spaceOf p
  let a := s.ea b o n
  .next (match s.bufFault sp a n n with
    | some c => s.raise c a
    | none =>
      if s.me.timed ∧ (s.me.xferBusy sp a.toNat n true ∨ s.ownXfer sp a.toNat n true) then s.timing 9
      else s.gatePut { space := sp, addr := a.toNat, va := a, bun := s.slot.bunAddr, data := lowBytes n (s.rx r) })

/-- LDG (R209): it is outstanding until LDG_RETURN; its place in the log is taken now. -/
def State.loadG (s : State) (w : LdW) (d b : BitVec 5) (o : BitVec 13) : Host.Outcome State Fault Refusal :=
  let a := s.ea b o w.bytes
  .next (if s.me.timed then s.timing 8
    else if a.toNat % w.bytes ≠ 0 then s.raise 0x060 a
    else
      match s.me.logged with
      | some v => (s.result d v 1).modMe (fun k => k.logAdvance 1)
      | none =>
        if !s.me.logRoom 1 then s.raise 0x0C2 33
        else
          (s.modMe (fun k =>
            let l : Ldg := { bun := s.slot.bunAddr, ord := k.order, d := d, va := a, w := w, log := k.logNext, older := k.rs.gate.length }
            let k := k.logPut none
            { k with rs := { k.rs with ldgs := k.rs.ldgs ++ [l] }, order := k.order + 1 })).settleAfter)

/-- A slot's access to a physical address: with no route to its home the slot waits, and after 100 ms the group ends (R387). -/
def State.routed (s : State) (pa : Nat) (va : Word) (act : State → State) : State :=
  match s.cut s.cur pa with
  | none => act s
  | some ended => if ended then s.endMine s.cur 0x150 s.slot.bunAddr va else s.hold (.route va)

/-- STG (R209): translated and checked as it enters the gate; a store that FAULT_ANSWER completed has performed
(R376). -/
def State.storeG (s : State) (n : Nat) (r b : BitVec 5) (o : BitVec 13) : Host.Outcome State Fault Refusal :=
  let a := s.ea b o n
  let data := lowBytes n (s.rx r)
  .next (if s.me.timed then s.timing 8
    else if a.toNat % n ≠ 0 then s.raise 0x060 a
    else if s.me.ctl.skip = some (s.me.rs.fwd, s.slot.bunAddr) then s
    else if 32 ≤ s.me.rs.gate.length then s.raise 0x0C1 33
    else
      match s.translate (s.ctxOf s.cur) (dieOf s.cur) (some s.cur) a .write n with
      | (.error f, t) =>
        t.pageFault (if f.detail = 0x07 then { f with value := BitVec.ofNat 64 (leNat data) } else f)
      | (.ok pa, t) => t.routed pa a (fun t => t.gatePut { space := .dm, addr := pa, va := a, bun := s.slot.bunAddr, data := data }))

/-! ### LD, ST, LDG, STG -/

def ldb : LdW := ⟨1, true⟩
def ldh : LdW := ⟨2, true⟩
def ldw : LdW := ⟨4, true⟩
def ldd : LdW := ⟨8, false⟩
def ldbu : LdW := ⟨1, false⟩
def ldhu : LdW := ⟨2, false⟩
def ldwu : LdW := ⟨4, false⟩

def execLdB (d b : BitVec 5) (p : BitVec 2) (o : BitVec 13) (s : State) := s.load ldb d b p o
def execLdH (d b : BitVec 5) (p : BitVec 2) (o : BitVec 13) (s : State) := s.load ldh d b p o
def execLdW (d b : BitVec 5) (p : BitVec 2) (o : BitVec 13) (s : State) := s.load ldw d b p o
def execLdD (d b : BitVec 5) (p : BitVec 2) (o : BitVec 13) (s : State) := s.load ldd d b p o
def execLdBu (d b : BitVec 5) (p : BitVec 2) (o : BitVec 13) (s : State) := s.load ldbu d b p o
def execLdHu (d b : BitVec 5) (p : BitVec 2) (o : BitVec 13) (s : State) := s.load ldhu d b p o
def execLdWu (d b : BitVec 5) (p : BitVec 2) (o : BitVec 13) (s : State) := s.load ldwu d b p o
def execStB (r b : BitVec 5) (p : BitVec 2) (o : BitVec 13) (s : State) := s.store 1 r b p o
def execStH (r b : BitVec 5) (p : BitVec 2) (o : BitVec 13) (s : State) := s.store 2 r b p o
def execStW (r b : BitVec 5) (p : BitVec 2) (o : BitVec 13) (s : State) := s.store 4 r b p o
def execStD (r b : BitVec 5) (p : BitVec 2) (o : BitVec 13) (s : State) := s.store 8 r b p o
def execLdgB (d b : BitVec 5) (o : BitVec 13) (s : State) := s.loadG ldb d b o
def execLdgH (d b : BitVec 5) (o : BitVec 13) (s : State) := s.loadG ldh d b o
def execLdgW (d b : BitVec 5) (o : BitVec 13) (s : State) := s.loadG ldw d b o
def execLdgD (d b : BitVec 5) (o : BitVec 13) (s : State) := s.loadG ldd d b o
def execLdgBu (d b : BitVec 5) (o : BitVec 13) (s : State) := s.loadG ldbu d b o
def execLdgHu (d b : BitVec 5) (o : BitVec 13) (s : State) := s.loadG ldhu d b o
def execLdgWu (d b : BitVec 5) (o : BitVec 13) (s : State) := s.loadG ldwu d b o
def execStgB (r b : BitVec 5) (o : BitVec 13) (s : State) := s.storeG 1 r b o
def execStgH (r b : BitVec 5) (o : BitVec 13) (s : State) := s.storeG 2 r b o
def execStgW (r b : BitVec 5) (o : BitVec 13) (s : State) := s.storeG 4 r b o
def execStgD (r b : BitVec 5) (o : BitVec 13) (s : State) := s.storeG 8 r b o

/-! ### Queue fills (R211 to R214) -/

/-- A fill takes the next sequence of its queue (R108). -/
def OpQueue.issue (q : OpQueue) : OpQueue := { q with fillN := q.fillN + 1 }
/-- A fill takes an entry. -/
def OpQueue.put (q : OpQueue) (e : QEntry) : OpQueue := { q with entries := q.entries ++ [e], fillN := q.fillN + 1 }

/-- The wait for an entry; inside a timed region the timing fault (R211). -/
def State.entryWait (s : State) (q : BitVec 3) : State := if s.me.timed then s.timing 9 else s.hold (.queueEntry q)

/-- The bytes of a fill from a buffer: a row, or for QFILLT a column of 64 rows of 256 bytes (R212). -/
def fillBytes (m : Memory) (src : FillSrc) : List Byte :=
  match src.pieces with
  | [] => []
  | (a, _) :: _ => if src.transpose then (List.range 64).flatMap (fun i => m.bytes (a + 256 * i) 4) else m.bytes a 256

/-- The bytes a fill from a buffer spans (R212). -/
def FillSrc.span (src : FillSrc) : Nat := if src.transpose then 16132 else 256

/-- A fill from a buffer (R212): discarded below F (R108); it settles at issue, its entry is present 6 cycles later. One that
meets a VST of its own packet reads once that has performed (R150, R217). -/
def State.fillBuf (s : State) (tr : Bool) (q : BitVec 3) (b : BitVec 5) (p : BitVec 2) (o : BitVec 13) :
    Host.Outcome State Fault Refusal :=
  let sp := spaceOf p
  let a := s.ea b o 256
  let len := if tr then 16132 else 256
  let qu := s.me.grid.queue q
  .next (match s.bufFault sp a len 4 with
    | some c => s.raise c a
    | none =>
      if qu.fillN < qu.f then s.modQ s.cur q OpQueue.issue
      else if 8 ≤ qu.entries.length then s.entryWait q
      else if s.me.xferBusy sp a.toNat len false then s.xferWait
      else
        let src : FillSrc := { space := sp, transpose := tr, pieces := [(a.toNat, 256)] }
        let e : QEntry := { seq := qu.fillN, ord := 0, bun := s.slot.bunAddr, va := a, ff := none, settled := false, data := Row.zero
                            src := src, due := 0, present := false }
        if s.ownXfer sp a.toNat len false then
          if s.me.timed then s.timing 9 else s.modQ s.cur q (fun qu => qu.put e)
        else
          let row := rowOfBytes (fillBytes (s.me.buf sp) src)
          let e := { e with settled := true, data := row, due := (s.cyc s.cur).toNat + 6 }
          s.modQ s.cur q (fun qu => { qu.put e with f := qu.f + 1 }))

def execQfill (q : BitVec 3) (b : BitVec 5) (p : BitVec 2) (o : BitVec 13) (s : State) := s.fillBuf false q b p o
def execQfillt (q : BitVec 3) (b : BitVec 5) (p : BitVec 2) (o : BitVec 13) (s : State) := s.fillBuf true q b p o

/-- An entry of a device-memory fill that has not settled. -/
def QEntry.waiting (seq ord : Nat) (bun va : Word) (ff : Option (BitVec 5 × Nat × Nat)) : QEntry :=
  { seq := seq, ord := ord, bun := bun, va := va, ff := ff, settled := false, data := Row.zero, src := { space := .dm, transpose := false, pieces := [] }
    due := 0, present := false }

/-- A fill from device memory takes an entry, its place among the device reads its own (R210). -/
def State.putFill (s : State) (q : BitVec 3) (a : Word) (ff : Option (BitVec 5 × Nat × Nat)) : State :=
  let n := s.me.order
  (((s.modQ s.cur q (fun qu => qu.put (QEntry.waiting qu.fillN n s.slot.bunAddr a ff))).modMe (fun k =>
    { k with order := n + 1 })).settleAfter)

/-- QFILLG (R213): it settles by FILL_SETTLE. -/
def execQfillg (q : BitVec 3) (b : BitVec 5) (o : BitVec 13) (s : State) : Host.Outcome State Fault Refusal :=
  let a := s.ea b o 256
  let qu := s.me.grid.queue q
  .next (if s.me.timed then s.timing 8
    else if a.toNat % 4 ≠ 0 then s.raise 0x060 a
    else if qu.fillN < qu.f then s.modQ s.cur q OpQueue.issue
    else if 8 ≤ qu.entries.length then s.entryWait q
    else s.putFill q a none)

/-- QFILLG.FF (R214): x[C] holds the cells requested; the count is interlocked and logged. A discarded fill still writes
its logged count. -/
def execQfillgFf (q : BitVec 3) (b c : BitVec 5) (s : State) : Host.Outcome State Fault Refusal :=
  let a := s.rx b
  let n := (s.rx c).toNat
  let qu := s.me.grid.queue q
  .next (if n = 0 ∨ 64 < n then s.illegal .reservedField
    else if s.me.timed then s.timing 8
    else if a.toNat % 4 ≠ 0 then s.raise 0x060 a
    else if !s.me.logRoom 1 then s.raise 0x0C2 33
    else if !decide (qu.fillN < qu.f) ∧ 8 ≤ qu.entries.length then s.entryWait q
    else
      let i := s.me.logNext
      let t :=
        match s.me.logged with
        | some v => (s.result c v 1).modMe (fun k => k.logAdvance 1)
        | none => s.modMe (fun k => k.logPut none)
      if qu.fillN < qu.f then t.modQ s.cur q OpQueue.issue
      else t.putFill q a (some (c, n, i)))

/-! ### Grid transfers (R215 to R217) -/

/-- VLD and VST: checked at issue, forwarded with the packet; the step marks the packet (R216). -/
def State.transfer (s : State) (st : Bool) (r : BitVec 6) (b : BitVec 5) (sp : Space) (o : BitVec 13) :
    Host.Outcome State Fault Refusal :=
  let a := s.ea b o 256
  .next (match s.bufFault sp a 256 4 with
    | some c => s.raise c a
    | none => s.modSlot (fun c => { c with pkt := { c.pkt with
        xfers := c.pkt.xfers ++ [{ row := r, st := st, gb := decide (sp = .gb), addr := a.toNat }] } }))

def execVld (r : BitVec 6) (b : BitVec 5) (o : BitVec 13) (s : State) := s.transfer false r b .gb o
def execVst (r : BitVec 6) (b : BitVec 5) (p : BitVec 2) (o : BitVec 13) (s : State) := s.transfer true r b (spaceOf p) o

/-! ### SEND and RECV (R218 to R220) -/

/-- A bit of a crossbar mask joins two cores (R16, R39). -/
def State.joined (s : State) (a b : CoreIx) : Bool :=
  s.parts.toList.any (fun p =>
    match p with
    | some p => p.xbar.any (fun e => decide (e = (a, b) ∨ e = (b, a)))
    | none => false)

/-- Windows of two timed transfers overlap (R220). -/
def Win.overlaps (w v : Win) : Bool := decide (w.t < v.t + v.n ∧ v.t < w.t + w.n)

/-- SEND and RECV: the checks at issue, then the window opens. -/
def State.timedXfer (s : State) (recv : Bool) (d b : BitVec 5) (o : BitVec 13) : Host.Outcome State Fault Refusal :=
  let desc := s.rx d
  let t := (desc.extractLsb' 16 32).toNat
  let n := (desc.extractLsb' 8 8).toNat
  let peer := desc.extractLsb' 0 3
  let a := s.ea b o 64
  let w : Win := { addr := a.toNat, t := t, n := n, peer := peer, bundle := s.slot.bunAddr, latch := none }
  .next (if desc.extractLsb' 48 16 ≠ 0 ∨ desc.extractLsb' 3 5 ≠ 0 ∨ n = 0 ∨ peer = inCluster s.cur then s.illegal .reservedField
    else
      match s.bufFault .xb a (64 * n) 64 with
      | some c => s.raise c a
      | none =>
        if !s.joined s.cur (coreIn (clusterOf s.cur) peer) then s.raise 0x0A0 (peer.setWidth 64)
        else if !s.me.timed then s.timing 1
        else if t < s.regionCycle s.cur + 2 then s.timing 2
        else if (if recv then s.me.region.recvs else s.me.region.sends).any (fun v => v.overlaps w) then s.timing 3
        else if s.me.xferBusy .xb a.toNat (64 * n) recv ∨ s.ownXfer .xb a.toNat (64 * n) recv then s.timing 9
        else s.irrevocable (fun s => s.modMe (fun k => { k with region :=
          if recv then { k.region with recvs := k.region.recvs ++ [w] } else { k.region with sends := k.region.sends ++ [w] } })))

def execSend (d b : BitVec 5) (o : BitVec 13) (s : State) := s.timedXfer false d b o
def execRecv (d b : BitVec 5) (o : BitVec 13) (s : State) := s.timedXfer true d b o

/-- PREF (R226): no visible state changes and nothing faults. -/
def execPref (_ : BitVec 5) (_ : BitVec 13) (s : State) : Host.Outcome State Fault Refusal := .next s

end Sys2Proof.Machine
end

