-- ==== Sys2Proof/Machine/Atomics.lean ====
section
/-! DEFINITION. Atomics and fences (R221 to R225): AMO, AMO.CAS, AMOSC at calender positions, FENCE. Accesses of the
step perform one at a time, so every order and scope is met at once (log 4). -/

namespace Sys2Proof.Machine

/-- The width of an atomic in bytes. -/
def amoBytes (w : Bool) : Nat := if w then 8 else 4

/-- The value an AMO writes, in the width `w` of `8 * n` bits (R221); code 6 is CAS (R222, R223), none when it fails. -/
def amoNew (op : BitVec 3) (n : Nat) (old sv cmp : Nat) : Option Nat :=
  let m := 2 ^ (8 * n)
  let o := sextBytes n old
  let t := sextBytes n (sv % m)
  match op.toNat with
  | 0 => some ((old + sv) % m)
  | 1 => some (if o.slt t then old else sv % m)
  | 2 => some (if o.slt t then sv % m else old)
  | 3 => some (sv % m)
  | 4 => some (old &&& (sv % m))
  | 5 => some (old ||| (sv % m))
  | _ => if old = cmp % m then some (sv % m) else none

/-- The indivisible read-modify-write at a physical address (R221, R222): the old value and the state after it. -/
def State.amoAt (s : State) (op : BitVec 3) (w : Bool) (pa : Nat) (sv cmp : Word) : Word × State :=
  let n := amoBytes w
  let (bs, s) := s.getMem pa n
  let old := leNat bs
  let s := match amoNew op n old sv.toNat cmp.toNat with
    | some v => s.putMem pa (leBytes n v)
    | none => s
  (sextBytes n old, s)

/-- The checks an atomic makes before it performs (R205, R206, R224), then its action on the physical address. -/
def State.atomic (s : State) (b : BitVec 5) (w : Bool) (act : Nat → State → State) : State :=
  let a := s.rx b
  if s.me.timed then s.timing 8
  else if a.toNat % amoBytes w ≠ 0 then s.raise 0x060 a
  else s.irrevocable (fun s =>
    match s.translate (s.ctxOf s.cur) (dieOf s.cur) (some s.cur) a .atomic (amoBytes w) with
    | (.error f, t) => t.pageFault f
    | (.ok pa, t) => t.routed pa a (act pa))

/-- AMO and AMO.CAS (R221, R222): x[d] takes the old value, present for the next packet. -/
def State.amo (s : State) (op : BitVec 3) (d b r : BitVec 5) (sc : BitVec 3) (w : Bool) :
    Host.Outcome State Fault Refusal :=
  let sv := s.rx r
  let cmp := s.rx d
  .next (if s.scopeMasked sc then s.illegal .featureMasked
    else s.atomic b w (fun pa s =>
      let (old, s) := s.amoAt op w pa sv cmp
      s.result d old 1))

def execAmoAdd (d b r : BitVec 5) (_ c : BitVec 3) (w : Bool) (s : State) := s.amo 0 d b r c w
def execAmoMin (d b r : BitVec 5) (_ c : BitVec 3) (w : Bool) (s : State) := s.amo 1 d b r c w
def execAmoMax (d b r : BitVec 5) (_ c : BitVec 3) (w : Bool) (s : State) := s.amo 2 d b r c w
def execAmoXchg (d b r : BitVec 5) (_ c : BitVec 3) (w : Bool) (s : State) := s.amo 3 d b r c w
def execAmoAnd (d b r : BitVec 5) (_ c : BitVec 3) (w : Bool) (s : State) := s.amo 4 d b r c w
def execAmoOr (d b r : BitVec 5) (_ c : BitVec 3) (w : Bool) (s : State) := s.amo 5 d b r c w
def execAmoCas (d b r : BitVec 5) (_ _ c : BitVec 3) (w : Bool) (s : State) := s.amo 6 d b r c w

/-! ### The calender (R28, R223) -/

/-- The wheel stands at a position that a core owns: g or g + 512 (R28). -/
def State.atPosition (s : State) (c : CoreIx) : Bool := decide (s.wheel % 512 = c.toNat)

/-- A calender operation: it performs at the next owned position, which it waits for; a second one of the packet takes the
position after the first one's (R223), and the slots after it wait with it. -/
def State.calender (s : State) (f : State → State) : State :=
  if !s.slot.scUsed && s.atPosition s.cur then (f s).modSlot (fun c => { c with scUsed := true })
  else s.hold .calender

/-- AMOSC (R223). -/
def State.amosc (s : State) (op : BitVec 3) (d b r : BitVec 5) (w : Bool) : Host.Outcome State Fault Refusal :=
  let sv := s.rx r
  let cmp := s.rx d
  .next (if s.masked 0 then s.illegal .featureMasked
    else s.atomic b w (fun pa s =>
      s.calender (fun s =>
        let (old, s) := s.amoAt op w pa sv cmp
        s.result d old 1)))

def execAmoscAdd (d b r : BitVec 5) (w : Bool) (s : State) := s.amosc 0 d b r w
def execAmoscMin (d b r : BitVec 5) (w : Bool) (s : State) := s.amosc 1 d b r w
def execAmoscMax (d b r : BitVec 5) (w : Bool) (s : State) := s.amosc 2 d b r w
def execAmoscXchg (d b r : BitVec 5) (w : Bool) (s : State) := s.amosc 3 d b r w
def execAmoscAnd (d b r : BitVec 5) (w : Bool) (s : State) := s.amosc 4 d b r w
def execAmoscOr (d b r : BitVec 5) (w : Bool) (s : State) := s.amosc 5 d b r w
def execAmoscCas (d b r : BitVec 5) (w : Bool) (s : State) := s.amosc 6 d b r w

/-! ### FENCE (R225) -/

/-- A fence waits for earlier fills, LDGs and held stores as every irrevocable operation does; then every earlier access
has performed. -/
def State.fence (s : State) (c : BitVec 3) (f : State → State) : Host.Outcome State Fault Refusal :=
  .next (if s.scopeMasked c then s.illegal .featureMasked
    else if s.me.timed then s.timing 8
    else if !s.slot.settled || !s.me.canCommit s.me.rs.gate.length then s.hold .fence
    else s.irrevocable f)

def execFenceAcq (c : BitVec 3) (s : State) := s.fence c (fun s => s)
def execFenceRel (c : BitVec 3) (s : State) := s.fence c (fun s => s)
def execFenceAcqrel (c : BitVec 3) (s : State) := s.fence c (fun s => s)
/-- FENCE with order sc also takes a calender position. -/
def execFenceSc (s : State) := s.fence 3 (fun s => s.calender (fun s => s))

end Sys2Proof.Machine
end

