-- ==== Sys2Proof/Machine/Matrix.lean ====
section
/-! DEFINITION. M slots (R229 to R242). On the access side a slot is checked and joins the packet; on the grid side it
performs: pops, pending rows, generator advance at issue, results at its write cycle. -/

namespace Sys2Proof.Machine

/-! ### Targets and types -/

/-- The cells of a target (Table 11.1): first row, rows, columns. -/
def mTarget (shp : Word) (t : BitVec 2) : Nat × Nat × Nat :=
  match t.toNat with
  | 0 => (0, 32, 64)
  | 1 => (32, 32, 64)
  | 2 => (shpRow0 shp, shpRows shp, shpCols shp)
  | _ => (0, 64, 64)
/-- The rows of a target. -/
def mRows (shp : Word) (t : BitVec 2) : List Nat :=
  let (r, n, _) := mTarget shp t
  (List.range n).map (fun i => r + i)

/-- A source type that Table 11.2 names. -/
def rkSource (t : Ty) : Bool := decide (t.code.toNat ≤ 10)
/-- FP32 with a type that its rows of Table 11.2 do not name: INT16, the 8-bit and the 4-bit types. -/
def fp32With (a b : Ty) : Bool := decide (a.code = 0) && decide (3 ≤ b.code.toNat)
/-- A pair that Table 11.2 accepts. -/
def rkPair (a b : Ty) : Bool := rkSource a && rkSource b && !fp32With a b && !fp32With b a && decide (occupancy a b ≤ 4)
/-- TD of RK, RKN and RKA (Table 11.4). -/
def rkDest (a b d : Ty) : Bool := decide (d.code = 0) || (decide (d.code = 11) && a.isInt && b.isInt)

/-- The format check of the rank-k family (R230, Table 11.4). -/
def rkCheck (fmt : Word) : Option FmtDetail :=
  let a := fmtTA fmt
  let b := fmtTB fmt
  let d := fmtTD fmt
  fmtCheck [a, b, d] (rkPair a b && rkDest a b d) false fmt
/-- The format check of RKS. -/
def rksCheck (fmt : Word) : Option FmtDetail :=
  let a := fmtTA fmt
  let b := fmtTB fmt
  let d := fmtTD fmt
  fmtCheck [a, b, d] (rkPair a b && decide (a.code ≠ 0) && decide (b.code ≠ 0) && decide (d.code = 0)) true fmt
/-- The format check of GSCALE (R238). -/
def gscaleCheck (fmt : Word) : Option FmtDetail :=
  let a := fmtTA fmt
  let d := fmtTD fmt
  fmtCheck [a, d] ((decide (a.code = 0) || decide (a.code = 11)) && (decide (d.code = 0) || decide (d.code = 11))) false fmt

/-! ### What an M slot needs of the grid -/

/-- The queues of a rank-k slot and the entries popped of each (R231): qa n is queue n, qb n is queue 4 + n. -/
def rkPops (fmt : Word) (qa qb : BitVec 2) : List (BitVec 3 × Nat) :=
  let a := fmtTA fmt
  let b := fmtTB fmt
  [(0#1 ++ qa, if a.perCell < b.perCell then ratio a b else 1), (1#1 ++ qb, if b.perCell < a.perCell then ratio a b else 1)]

/-- Entries popped by a slot. -/
def Instr.mPops (fmt : Word) : Instr → List (BitVec 3 × Nat)
  | .rk a b _ => rkPops fmt a b
  | .rks a b _ _ _ => rkPops fmt a b
  | .rka a b _ _ _ => rkPops fmt a b
  | .rkn a b _ => rkPops fmt a b
  | .mpop a b p => (if p.getLsbD 0 then [(0#1 ++ a, 1)] else []) ++ (if p.getLsbD 1 then [(1#1 ++ b, 1)] else [])
  | _ => []

/-- A slot of the RK family (R232). -/
def Instr.isRk : Instr → Bool
  | .rk _ _ _ | .rks _ _ _ _ _ | .rka _ _ _ _ _ | .rkn _ _ _ => true
  | _ => false

/-- The rows an M slot reads or writes (R232). -/
def Instr.mTouch (shp : Word) : Instr → List Nat
  | .rk _ _ t | .rks _ _ t _ _ | .rka _ _ t _ _ | .rkn _ _ t | .gzero t | .gscaleQs t _ | .gscaleLiteral t => mRows shp t
  | .gcopy _ _ | .gxpose => List.range 64
  | _ => []

/-- The rows an M slot writes (Table 11.3). -/
def Instr.mWrites (shp : Word) : Instr → List Nat
  | .rk _ _ t | .rks _ _ t _ _ | .rka _ _ t _ _ | .rkn _ _ t | .gzero t | .gscaleQs t _ | .gscaleLiteral t
  | .gcopy t _ => mRows shp t
  | .gxpose => List.range 64
  | _ => []

/-- The e and qs registers an M slot reads (R247). -/
def Instr.mRegs : Instr → List (Bool × BitVec 3)
  | .rks _ _ _ m n => [(true, m), (true, n)]
  | .rka _ _ _ m n => [(false, m), (false, n)]
  | .gscaleQs _ m => [(false, m)]
  | _ => []

/-- Occupancy and write cycle (Table 11.3). -/
def Instr.mTime (fmt : Word) : Instr → Nat × Nat
  | .rk _ _ _ | .rks _ _ _ _ _ | .rka _ _ _ _ _ | .rkn _ _ _ =>
    (occupancy (fmtTA fmt) (fmtTB fmt), occupancy (fmtTA fmt) (fmtTB fmt) + 3)
  | .gcopy _ _ => (2, 4)
  | .gxpose => (4, 7)
  | .gscaleQs _ _ | .gscaleLiteral _ => (1, 4)
  | _ => (1, 1)

/-! ### Performing -/

/-- The oldest entries popped of a queue (R233). -/
def OpQueue.pop (q : OpQueue) (n : Nat) : OpQueue := { q with entries := q.entries.drop n, p := q.p + n }
/-- Entries popped of several queues. -/
def Grid.popAll (g : Grid) (l : List (BitVec 3 × Nat)) : Grid :=
  l.foldl (fun g p => g.setQueue p.1 ((g.queue p.1).pop p.2)) g
/-- The rows of the entries about to be popped. -/
def Grid.front (g : Grid) (q : BitVec 3) (n : Nat) : List Row := ((g.queue q).entries.take n).map (fun e => e.data)

/-- Row generators advanced (R136). -/
def Grid.advance (g : Grid) (rows : List Nat) : Grid := rows.foldl (fun g r => g.setGen r (srAdvance (g.gen r))) g
/-- The states of rows. -/
def Grid.genList (g : Grid) (rows : List Nat) : List (Nat × Word) := rows.map (fun r => (r, g.gen r))

/-- An M slot issues (R233): the array is busy for its occupancy, its flight takes its write cycle. -/
def Grid.mIssue (g : Grid) (pkt : GridPkt) (i : Instr) (rows : List (Nat × Row)) (rk : Option RkWork) (fl : Flags) : Grid :=
  let (occ, w) := Instr.mTime pkt.fmt i
  { g with
    mFree := g.cyc + occ
    inflight := g.inflight ++ [{ fwd := pkt.fwd, kind := .m, due := g.cyc + w, rows := rows, rk := rk, vld := none, regs := []
                                 flags := fl, histRows := [], histRegs := [], written := false }] }

/-- An M slot on the side that executes it: the access engine checks it and the packet takes it; the grid engine performs
it. -/
def State.mSlot (s : State) (i : Instr) (err : Word → Option FmtDetail) (perform : GridPkt → Option Cell → Grid → Grid) :
    Host.Outcome State Fault Refusal :=
  .next (match s.slot.side with
    | .access =>
      match err s.slot.pkt.fmt with
      | some d => s.raise (BitVec.ofNat 9 (0x040 + d)) s.slot.pkt.fmt
      | none => s.modSlot (fun c => { c with pkt := { c.pkt with m := some ⟨i, c.word, c.lit⟩ } })
    | .grid => s.modGrid s.cur (perform s.slot.pkt s.slot.lit))

/-- A step of the rank-k family issued (R231 to R234). -/
def Grid.rkIssue (g : Grid) (pkt : GridPkt) (i : Instr) (qa qb t : BitVec 2) (neg : Bool) (za zb : Int)
    (scale : Option (Vector Byte 64 × Vector Byte 64)) : Grid :=
  let pops := rkPops pkt.fmt qa qb
  let rc := fmtRc pkt.fmt
  let rows := mRows pkt.shp t
  let (r0, n, c) := mTarget pkt.shp t
  let a := (pops.head?.map (fun p => g.front p.1 p.2)).getD []
  let b := ((pops.drop 1).head?.map (fun p => g.front p.1 p.2)).getD []
  let g := g.popAll pops
  let g := if rc.rnd = 5 then g.advance rows else g
  let w : RkWork :=
    { row0 := r0, rows := n, cols := c, ta := fmtTA pkt.fmt, tb := fmtTB pkt.fmt, td := fmtTD pkt.fmt, rc := rc, aEnt := a
      bEnt := b, neg := neg, za := za, zb := zb, scale := scale, gens := if rc.rnd = 5 then g.genList rows else [] }
  g.mIssue pkt i [] (some w) 0

/-- The zero point a side subtracts in RKA: that of its qs register when the side's type is an integer type (R234). -/
def Grid.zeroOf (g : Grid) (t : Ty) (n : BitVec 3) : Int := if t.isInt then (g.rq n).zp.toInt else 0

def execRk (a b t : BitVec 2) (s : State) :=
  s.mSlot (.rk a b t) rkCheck (fun p _ g => g.rkIssue p (.rk a b t) a b t false 0 0 none)
def execRkn (a b t : BitVec 2) (s : State) :=
  s.mSlot (.rkn a b t) rkCheck (fun p _ g => g.rkIssue p (.rkn a b t) a b t true 0 0 none)
/-- RKS (R141, R234): the scale codes as the e registers stand. -/
def execRks (a b t : BitVec 2) (m n : BitVec 3) (s : State) :=
  s.mSlot (.rks a b t m n) rksCheck (fun p _ g => g.rkIssue p (.rks a b t m n) a b t false 0 0 (some (g.re m, g.re n)))
/-- RKA (R234): zero points subtracted from integer sides. -/
def execRka (a b t : BitVec 2) (m n : BitVec 3) (s : State) :=
  s.mSlot (.rka a b t m n) rkCheck (fun p _ g =>
    g.rkIssue p (.rka a b t m n) a b t false (g.zeroOf (fmtTA p.fmt) m) (g.zeroOf (fmtTB p.fmt) n) none)

/-- GZERO (R235). -/
def execGzero (t : BitVec 2) (s : State) :=
  s.mSlot (.gzero t) (fun _ => none) (fun p _ g =>
    let (_, _, c) := mTarget p.shp t
    g.mIssue p (.gzero t) ((mRows p.shp t).map (fun r => (r, (g.row r).mapCols c (fun _ _ => 0)))) none 0)

/-- GCOPY (R236): the source half to the destination half, bit for bit. -/
def execGcopy (t : BitVec 2) (h : BitVec 1) (s : State) :=
  s.mSlot (.gcopy t h) (fun _ => none) (fun p _ g =>
    g.mIssue p (.gcopy t h) ((List.range 32).map (fun i => (32 * t.toNat + i, g.row (32 * h.toNat + i)))) none 0)

/-- GXPOSE (R237). -/
def execGxpose (s : State) :=
  s.mSlot .gxpose (fun _ => none) (fun p _ g =>
    g.mIssue p .gxpose ((List.range 64).map (fun i => (i, Vector.ofFn (fun j => g.cell j.val i)))) none 0)

/-- The scaled cell of GSCALE: exact product, one rounding (R238). -/
def gscaleCell (fmt : Word) (f : Cell) (draw : Nat) (c : Cell) : Cell × Flags :=
  let x := (fmtTA fmt).val c
  let fv := tyFP32.val f
  let (v, e) := x.mul fv
  let (r, e') := deliver (fmtTD fmt) (fmtRc fmt) draw v
  (r, x.sigFlag ||| fv.sigFlag ||| e ||| e')

/-- GSCALE by a factor (R238): the generator of every written row advances once under SR (R136). -/
def Grid.gscale (g : Grid) (pkt : GridPkt) (i : Instr) (t : BitVec 2) (f : Cell) : Grid :=
  let rows := mRows pkt.shp t
  let (_, _, c) := mTarget pkt.shp t
  let sr := (fmtRc pkt.fmt).rnd = 5
  let g := if sr then g.advance rows else g
  let one (r j : Nat) (old : Cell) : Cell × Flags := gscaleCell pkt.fmt f (if sr then srDraw (g.gen r) j 0 else 0) old
  let out := rows.map (fun r => (r, (g.row r).mapCols c (fun j old => (one r j old).1)))
  let fl := rows.foldl (fun a r => a ||| rowFlags c (fun j => (one r j ((g.row r).at j)).2)) 0
  g.mIssue pkt i out none fl

def execGscaleQs (t : BitVec 2) (m : BitVec 3) (s : State) :=
  s.mSlot (.gscaleQs t m) gscaleCheck (fun p _ g => g.gscale p (.gscaleQs t m) t (g.rq m).scale)
def execGscaleLiteral (t : BitVec 2) (s : State) :=
  s.mSlot (.gscaleLiteral t) gscaleCheck (fun p l g => g.gscale p (.gscaleLiteral t) t (l.getD 0))

/-- MPOP (R239): the entries are discarded and counted; no cell is written. -/
def execMpop (a b p : BitVec 2) (s : State) :=
  s.mSlot (.mpop a b p) (fun _ => none) (fun pkt _ g =>
    let g := g.popAll (Instr.mPops pkt.fmt (.mpop a b p))
    { g with mFree := g.cyc + 1 })

end Sys2Proof.Machine
end

