-- ==== Sys2Proof/Machine/SpecialFn.lean ====
section
/-! DEFINITION. The special functions (R258 to R260): the tables of Taylor coefficients with a 40-bit significand,
the exact reference values, and the results in FP32. The coefficients are formed from fixed-point values of 400
fraction bits (log 5). -/

namespace Sys2Proof.Machine

/-- Fraction bits of the working values. -/
def fxS : Nat := 400
def fxOne : Int := (2 ^ fxS : Nat)
/-- The product of two fixed-point values. -/
def fxMul (a b : Int) : Int := a * b / fxOne
/-- The quotient of two fixed-point values. -/
def fxDiv (a b : Int) : Int := a * fxOne / b
/-- The fixed-point value of `n` / `d`. -/
def fxRat (n : Int) (d : Nat) : Int := n * fxOne / d

/-- A sum of a power series: term k+1 is `f k` of term k. -/
def fxSeries (f : Nat → Int → Int) : Nat → Nat → Int → Int
  | 0, _, t => t
  | n + 1, k, t => t + fxSeries f n (k + 1) (f k t)

/-- atanh(y) of a fixed-point `y` with |y| ≤ 1/3: a sum over odd powers. -/
def fxAtanhGo (y2 : Int) : Nat → Nat → Int → Int
  | 0, _, _ => 0
  | n + 1, k, p => p / (2 * k + 1 : Nat) + fxAtanhGo y2 n (k + 1) (fxMul p y2)
def fxAtanh (y : Int) : Int := fxAtanhGo (fxMul y y) 140 0 y
/-- ln 2 = 2 atanh(1/3). -/
def fxLn2 : Int := 2 * fxAtanh (fxRat 1 3)
/-- ln of a fixed-point value between 1/2 and 2. -/
def fxLn (x : Int) : Int := 2 * fxAtanh (fxDiv (x - fxOne) (x + fxOne))

/-- atan(1/q) for the Machin formula. -/
def fxAtanInvGo (q2 : Int) : Nat → Nat → Int → Int
  | 0, _, _ => 0
  | n + 1, k, p => (if k % 2 = 0 then p / (2 * k + 1 : Nat) else -(p / (2 * k + 1 : Nat))) + fxAtanInvGo q2 n (k + 1) (p / q2)
def fxAtanInv (q : Nat) : Int := fxAtanInvGo ((q * q : Nat) : Int) 100 0 (fxOne / q)
/-- pi = 16 atan(1/5) - 4 atan(1/239). -/
def fxPi : Int := 16 * fxAtanInv 5 - 4 * fxAtanInv 239

/-- Squared `n` times. -/
def fxSqN : Nat → Int → Int
  | 0, x => x
  | n + 1, x => fxSqN n (fxMul x x)
/-- e^x of a fixed-point `x` with |x| ≤ 128: a Taylor sum at x / 512, squared 9 times. -/
def fxExp (x : Int) : Int := fxSqN 9 (fxSeries (fun k t => fxMul t (x / 512) / (k + 1 : Nat)) 70 0 fxOne)
/-- sin and cos of a fixed-point value up to 2. -/
def fxSin (x : Int) : Int := fxSeries (fun k t => -(fxMul (fxMul t x) x) / ((2 * k + 2) * (2 * k + 3) : Nat)) 60 0 x
def fxCos (x : Int) : Int := fxSeries (fun k t => -(fxMul (fxMul t x) x) / ((2 * k + 1) * (2 * k + 2) : Nat)) 60 0 fxOne

/-- A working value rounded to nearest, ties to even, to a 40-bit significand (R259). What lies below 2^-340 is an
exact zero. -/
def coef40 (v : Int) : Int × Int :=
  if v.natAbs < 2 ^ (fxS - 340) then (0, 0)
  else
    let u : Int := (Nat.log2 v.natAbs : Int) - 39
    let (a, r, d) := Mag.over ⟨v.natAbs, 0, 1⟩ u
    let a' : Nat := if roundUp 0 0 false (decide (a % 2 = 1)) r d then a + 1 else a
    (if v < 0 then -(a' : Int) else a', u - (fxS : Int))

/-- The functions that have a table (R260). -/
inductive TabFn | exp2 | log2 | sinp | tanh | sigm
  deriving DecidableEq, Repr

/-- The coefficients m = 0 to 4 of a function at the table point `n` / `d` (R259). -/
def tabCoefs (f : TabFn) (n : Int) (d : Nat) : List Int :=
  let x := fxRat n d
  match f with
  | .exp2 =>
    let c0 := fxExp (fxMul x fxLn2)
    let c1 := fxMul c0 fxLn2
    let c2 := fxMul c1 fxLn2 / 2
    let c3 := fxMul c2 fxLn2 / 3
    [c0, c1, c2, c3, fxMul c3 fxLn2 / 4]
  | .log2 =>
    let i := fxDiv fxOne x
    let c1 := fxDiv i fxLn2
    let p2 := fxMul c1 i
    let p3 := fxMul p2 i
    [fxDiv (fxLn x) fxLn2, c1, -p2 / 2, p3 / 3, -(fxMul p3 i) / 4]
  | .sinp =>
    let a := fxMul fxPi x
    let s := if n = 0 then 0 else fxSin a
    let c := if 2 * n = d then 0 else fxCos a
    let p2 := fxMul fxPi fxPi
    let p3 := fxMul p2 fxPi
    [s, fxMul c fxPi, -(fxMul s p2) / 2, -(fxMul c p3) / 6, fxMul s (fxMul p3 fxPi) / 24]
  | .tanh =>
    let e := fxExp (2 * x)
    let t := if n = 0 then 0 else fxDiv (e - fxOne) (e + fxOne)
    let s := fxOne - fxMul t t
    let t2 := fxMul t t
    [t, s, -(fxMul t s), fxMul s (3 * t2 - fxOne) / 3, fxMul (fxMul s t) (2 * fxOne - 3 * t2) / 3]
  | .sigm =>
    let e := fxExp x
    let g := fxDiv e (fxOne + e)
    let s := fxMul g (fxOne - g)
    let h := if n = 0 then 0 else fxMul s (fxOne - 2 * g)
    [g, s, h / 2, fxMul s (fxOne - 6 * s) / 6, fxMul h (fxOne - 12 * s) / 24]

/-- A product of two signed dyadics. -/
def mulDy (a b : Int × Int) : Int × Int := (a.1 * b.1, a.2 + b.2)

/-- P(f, x0, r) by Horner's rule, exactly (R259). -/
def tabP (f : TabFn) (n : Int) (d : Nat) (r : Int × Int) : Int × Int :=
  (tabCoefs f n d).foldr (fun c acc => addDy (coef40 c) (mulDy acc r)) (0, 0)

/-- floor of a signed dyadic. -/
def floorDy (a : Int × Int) : Int :=
  if 0 ≤ a.2 then a.1 * (2 ^ a.2.toNat : Nat) else a.1 / (2 ^ (-a.2).toNat : Nat)
def negDy (a : Int × Int) : Int × Int := (-a.1, a.2)
def subDy (a b : Int × Int) : Int × Int := addDy a (negDy b)
def absDy (a : Int × Int) : Int × Int := ((a.1.natAbs : Int), a.2)
/-- a < b of signed dyadics. -/
def ltDy (a b : Int × Int) : Bool := decide ((subDy a b).1 < 0)
/-- |a| mod 2. -/
def mod2Dy (a : Int × Int) : Int × Int :=
  let b := absDy a
  if 1 ≤ b.2 then (0, 0) else (b.1 % (2 ^ (1 - b.2).toNat : Nat), b.2)

/-- SINREF of R260. -/
def sinref (z : Int × Int) : Int × Int :=
  let y := mod2Dy z
  let s0 : Int := if z.1 < 0 then -1 else 1
  let (y, s) := if ltDy y (1, 0) then (y, s0) else (subDy y (1, 0), -s0)
  let y := if ltDy (1, -1) y then subDy (1, 0) y else y
  let j := floorDy (addDy (mulDy (128, 0) y) (1, -1))
  mulDy (s, 0) (tabP .sinp j 128 (subDy y (j, -7)))

/-- The reference value of VEXP2 (R260). -/
def exp2Ref (x : Int × Int) : Int × Int :=
  let n := floorDy x
  let f := subDy x (n, 0)
  let j := floorDy (mulDy (64, 0) f)
  mulDy (1, n) (tabP .exp2 j 64 (subDy f (j, -6)))

/-- The reference value of VLOG2 for x > 0 (R260): x = 2^n m with 0.75 ≤ m < 1.5. -/
def log2Ref (m : Nat) (e : Int) : Int × Int :=
  let k := Nat.log2 m
  let big := decide (3 * 2 ^ k ≤ 2 * m)
  let sh : Int := if big then (k : Int) + 1 else k
  let mm : Int × Int := ((m : Int), -sh)
  let j := floorDy (addDy (mulDy (64, 0) (subDy mm (1, 0))) (1, -1))
  addDy (e + sh, 0) (tabP .log2 (64 + j) 64 (subDy mm (64 + j, -6)))

/-- The reference value of VTANH (R260). -/
def tanhRef (x : Int × Int) : Int × Int :=
  let a := absDy x
  let v :=
    if !ltDy a (10, 0) then (2 ^ 40 - 1, -40)
    else
      let j := floorDy (addDy (mulDy (64, 0) a) (1, -1))
      tabP .tanh j 64 (subDy a (j, -6))
  if x.1 < 0 then negDy v else v

/-- The reference value of VSIGM (R260). -/
def sigmRef (x : Int × Int) : Int × Int :=
  if !ltDy x (20, 0) then (2 ^ 40 - 1, -40)
  else if ltDy x (-104, 0) then (1, -152)
  else
    let j := floorDy (addDy (mulDy (64, 0) x) (1, -1))
    tabP .sigm j 64 (subDy x (j, -6))

/-- The integer square root by bits: `b` is the weight of the next bit. -/
def isqrtGo (n : Nat) : Nat → Nat → Nat
  | 0, r => r
  | b + 1, r => let c := r + 2 ^ b; isqrtGo n b (if c * c ≤ n then c else r)
def isqrt (n : Nat) : Nat := isqrtGo n (Nat.log2 n / 2 + 1) 0

/-- A dyadic with an even exponent. -/
def evenExp (m : Nat) (e : Int) : Nat × Int := if e % 2 = 0 then (m, e) else (2 * m, e - 1)

/-- √x; an irrational root is held as the midpoint of a 2^-100 interval that contains it, which rounds alike. -/
def sqrtMag (m : Nat) (e : Int) : Mag :=
  let (m, e) := evenExp m e
  let s := isqrt m
  if s * s = m then ⟨s, e / 2, 1⟩
  else ⟨2 * isqrt (m * 4 ^ 100) + 1, e / 2 - 101, 1⟩
/-- 1 / √x, likewise. -/
def rsqrtMag (m : Nat) (e : Int) : Mag :=
  let (m, e) := evenExp m e
  let s := isqrt m
  if s * s = m then ⟨1, -(e / 2), s⟩
  else ⟨2 * isqrt (4 ^ 100 / m) + 1, -(e / 2) - 101, 1⟩

/-- The special functions of Table 12.5. -/
inductive SpFn | exp2 | log2 | rcp | rsq | sqrt | sinp | cosp | tanh | sigm
  deriving DecidableEq, Repr

/-- FP32 codes of the table. -/
def fpZero (neg : Bool) : Cell := if neg then 0x80000000 else 0
def fpInf (neg : Bool) : Cell := tyFP32.infCode neg
def fpOne : Cell := 0x3F800000

/-- A signed dyadic rounded into FP32; an exact zero has the given sign. -/
def roundDy (rc : Rc) (draw : Nat) (zneg : Bool) (v : Int × Int) : Cell × Flags :=
  if v.1 = 0 then (fpZero zneg, 0)
  else roundMag tyFP32 rc draw (decide (v.1 < 0)) ⟨v.1.natAbs, v.2, 1⟩

/-- One special function of one element (R258, Table 12.5). -/
def specialFn (f : SpFn) (rc : Rc) (draw : Nat) (c : Cell) : Cell × Flags :=
  let x := tyFP32.val c
  let nan := tyFP32.nan
  match f, x with
  | _, .nan s => (nan, flagIf s fNV)
  | .exp2, .inf n => (if n then 0 else fpInf false, 0)
  | .log2, .inf n => if n then (nan, fNV) else (fpInf false, 0)
  | .rcp, .inf n => (fpZero n, 0)
  | .rsq, .inf n => if n then (nan, fNV) else (0, 0)
  | .sqrt, .inf n => if n then (nan, fNV) else (fpInf false, 0)
  | .sinp, .inf _ => (nan, fNV)
  | .cosp, .inf _ => (nan, fNV)
  | .tanh, .inf n => (if n then 0xBF800000 else fpOne, 0)
  | .sigm, .inf n => (if n then 0 else fpOne, 0)
  | f, .fin n m e =>
    let dy : Int × Int := (if n then -(m : Int) else m, e)
    if m = 0 then
      match f with
      | .exp2 => (fpOne, 0)
      | .log2 => (fpInf true, fDZ)
      | .rcp => (fpInf n, fDZ)
      | .rsq => (fpInf n, fDZ)
      | .sqrt => (fpZero n, 0)
      | .sinp => (fpZero n, 0)
      | .cosp => (fpOne, 0)
      | .tanh => (fpZero n, 0)
      | .sigm => (0x3F000000, 0)
    else
      match f with
      | .exp2 => roundDy rc draw false (exp2Ref dy)
      | .log2 => if n then (nan, fNV) else roundDy rc draw false (log2Ref m e)
      | .rcp => roundMag tyFP32 rc draw n ⟨1, -e, m⟩
      | .rsq => if n then (nan, fNV) else roundMag tyFP32 rc draw false (rsqrtMag m e)
      | .sqrt => if n then (nan, fNV) else roundMag tyFP32 rc draw false (sqrtMag m e)
      | .sinp => roundDy rc draw n (sinref dy)
      | .cosp => roundDy rc draw false (sinref (subDy (1, -1) (mod2Dy dy)))
      | .tanh => roundDy rc draw n (tanhRef dy)
      | .sigm => roundDy rc draw false (sigmRef dy)

end Sys2Proof.Machine
end

