-- ==== Sys2Proof/Machine/Vector.lean ====
section
/-! DEFINITION. V slots: register groups, the scoreboard facts of a slot, and what every V instruction does on either side
(R243 to R251). The instructions stand in VectorArith, VectorConv and VectorMove. -/

namespace Sys2Proof.Machine

/-! ### Specifiers and groups (R157, R243) -/

def specView (x : BitVec 8) : Nat := (x.extractLsb' 6 2).toNat
def specIdx (x : BitVec 8) : Nat := (x.extractLsb' 0 6).toNat

/-- The vectors of a group, its first lane and its lane count (Table 12.1). -/
def grpVecs (x : BitVec 8) (shp : Word) : Nat := if specView x = 0 then shpRows shp else shpCols shp
def laneLo (x : BitVec 8) (shp : Word) : Nat := if specView x = 0 then 0 else shpRow0 shp
def laneCnt (x : BitVec 8) (shp : Word) : Nat := if specView x = 0 then shpCols shp else shpRows shp
def inLanes (x : BitVec 8) (shp : Word) (l : Nat) : Bool := decide (laneLo x shp ≤ l ∧ l < laneLo x shp + laneCnt x shp)
/-- The lanes of a range, in increasing position. -/
def lanesOf (x : BitVec 8) (shp : Word) : List Nat := (List.range (laneCnt x shp)).map (fun p => laneLo x shp + p)

/-- The cell of element (r, lane) (Table 12.1). -/
def cellOf (x : BitVec 8) (r l : Nat) : Nat × Nat :=
  match specView x with
  | 0 => ((specIdx x + r) % 64, l % 64)
  | 1 => (l % 64, (specIdx x + r) % 64)
  | _ => (l % 64, (l + specIdx x + r) % 64)
/-- The vector and lane of a cell under a view, the inverse of `cellOf`. -/
def vecOf (x : BitVec 8) (i j : Nat) : Nat × Nat :=
  match specView x with
  | 0 => ((i + 64 - specIdx x) % 64, j)
  | 1 => ((j + 64 - specIdx x) % 64, i)
  | _ => ((j + 128 - i - specIdx x) % 64, i)

/-- The rows that `n` vectors of a group touch in the given lanes. -/
def touchRows (x : BitVec 8) (n : Nat) (lanes : List Nat) : List Nat :=
  if isSpecial x ∨ n = 0 then []
  else if specView x = 0 then (List.range n).map (fun r => (specIdx x + r) % 64)
  else lanes.map (fun l => l % 64)
/-- The rows of a group. -/
def groupRows (x : BitVec 8) (n : Nat) (shp : Word) : List Nat := touchRows x n (lanesOf x shp)

/-- A source element: the cell, or the literal (+0.0 without one) under the special view. -/
def Grid.src (g : Grid) (lit : Option Cell) (x : BitVec 8) (r l : Nat) : Cell :=
  if isSpecial x then lit.getD 0 else let (i, j) := cellOf x r l; g.cell i j

/-- A lane is active (R244). -/
def Grid.active (g : Grid) (m : Bool) (l : Nat) : Bool := !m || (g.rk 0).getLsbD l
/-- The active lanes of a range. -/
def Grid.activeLanes (g : Grid) (m : Bool) (x : BitVec 8) (shp : Word) : List Nat := (lanesOf x shp).filter (g.active m)

/-! ### What a V slot reads and writes (R110, R247, R250) -/

/-- Vectors of `t`-typed packed cells for `n` elements: ceil (n * w / 32) (R265, R266). -/
def packVecs (t : Ty) (n : Nat) : Nat := (n * t.width + 31) / 32

/-- What the scoreboard needs of a V slot: rows read and written, e, qs and k registers read and written, the
special-function array, and L of Table 12.2. -/
structure VUse where
  rr : List Nat := []
  rw : List Nat := []
  er : List (BitVec 3) := []
  ew : List (BitVec 3) := []
  qr : List (BitVec 3) := []
  qw : List (BitVec 3) := []
  kr : List (BitVec 3) := []
  kw : List (BitVec 3) := []
  sf : Bool := false
  lat : Nat := 2
  deriving DecidableEq, Repr

def allLanes : List Nat := List.range 64
/-- k0, when the slot is masked. -/
def k0If (m : Bool) : List (BitVec 3) := if m then [0] else []
/-- The e registers that a group of `g` vectors uses from N (R263, R264). -/
def eUsed (n : BitVec 3) (g : Nat) : List (BitVec 3) := (List.range ((g - 1) / 32 + 1)).map (fun b => n + BitVec.ofNat 3 b)

/-- An elementwise slot: group d written, the sources of d's shape read. -/
def useElem (shp : Word) (d : BitVec 8) (srcs : List (BitVec 8)) (m : Bool) (lat : Nat) : VUse :=
  let n := grpVecs d shp
  { rr := srcs.flatMap (fun x => groupRows x n shp), rw := groupRows d n shp, kr := k0If m, lat := lat }
/-- A special-function slot. -/
def useSf (shp : Word) (d a : BitVec 8) (m : Bool) : VUse := { useElem shp d [a] m 8 with sf := true }
/-- A reduction. -/
def useRed (shp : Word) (d a : BitVec 8) (m : Bool) : VUse :=
  { rr := groupRows a (grpVecs a shp) shp, rw := groupRows d 1 shp, kr := k0If m, lat := 10 }
/-- The lanes whose bits a comparison writes (R255): ga's, gb's when ga is special, else the columns. -/
def cmpLanes (a b : BitVec 8) (shp : Word) : List Nat :=
  if !isSpecial a then lanesOf a shp else if !isSpecial b then lanesOf b shp else List.range (shpCols shp)
/-- A comparison: both operands are read at every lane position of its range, past an operand's own range too (R255). -/
def useCmp (shp : Word) (k : BitVec 3) (a b : BitVec 8) (m : Bool) : VUse :=
  let n := (cmpLanes a b shp).length
  let rows (x : BitVec 8) : List Nat := touchRows x 1 ((List.range n).map (fun p => laneLo x shp + p))
  { rr := rows a ++ rows b, kw := [k], kr := k0If m }

/-- The facts of a slot; an instruction of another slot kind uses nothing. -/
def Instr.vUse (shp fmt : Word) : Instr → VUse
  | .vadd d a b m | .vsub d a b m | .vmul d a b m | .vimul d a b m | .vimulh d a b m | .vmulw d a b m =>
    useElem shp d [a, b] m 4
  | .vfma d a b m | .vfms d a b m | .vfnma d a b m => useElem shp d [a, b, d] m 4
  | .vmin d a b m | .vmax d a b m | .vcpys d a b m | .viadd d a b m | .visub d a b m | .vimin d a b m | .vimax d a b m
  | .vand d a b m | .vor d a b m | .vxor d a b m | .vshl d a b m | .vshr d a b m | .vsar d a b m | .vperm d a b m =>
    useElem shp d [a, b] m 2
  | .vabs d a m | .vneg d a m | .vclass d a m => useElem shp d [a] m 2
  | .vrot d a _ m => useElem shp d [a] m 2
  | .vcmpEq k a b m | .vcmpNe k a b m | .vcmpLt k a b m | .vcmpLe k a b m | .vcmpGt k a b m | .vcmpGe k a b m
  | .vcmpUn k a b m => useCmp shp k a b m
  | .vsel d a b => { useElem shp d [a, b] false 2 with kr := [0] }
  | .vexp2 d a m | .vlog2 d a m | .vrcp d a m | .vrsq d a m | .vsqrt d a m | .vsinp d a m | .vcosp d a m | .vtanh d a m
  | .vsigm d a m => useSf shp d a m
  | .vcvt d a m => useElem shp d [a] m 4
  | .vqnt d a q m | .vdqnt d a q m => { useElem shp d [a] m 4 with qr := [q] }
  | .vqntLoad a q => { rr := touchRows a 1 [0, 1], qw := [q] }
  | .vdqntStore d q => { rw := touchRows d 1 [0, 1], qr := [q] }
  | .vbscLoad a e => { rr := touchRows a 1 allLanes, ew := [e] }
  | .vbscStore d e => { rw := touchRows d 1 allLanes, er := [e] }
  | .vbscApply d a e m => { useElem shp d [a] m 4 with er := eUsed e (grpVecs d shp) }
  | .vbqnt d a e m => { useElem shp d [a] m 6 with er := eUsed e (grpVecs d shp), ew := eUsed e (grpVecs d shp) }
  | .vpack d a b m =>
    let g := grpVecs d shp
    { rr := groupRows a g shp ++ groupRows b g shp, rw := groupRows d (packVecs (fmtTD fmt) (2 * g)) shp, kr := k0If m, lat := 4 }
  | .vunpk d a m =>
    let g := grpVecs d shp
    { rr := groupRows a (packVecs (fmtTA fmt) g) shp, rw := groupRows d g shp, kr := k0If m, lat := 4 }
  | .vredSum d a m | .vredMax d a m | .vredMin d a m | .vredAmax d a m => useRed shp d a m
  | .vscanSum d a m | .vscanMax d a m | .vscanMin d a m => useElem shp d [a] m 8
  | .vmov d a m => { useElem shp d [] m 2 with rr := groupRows a (grpVecs a shp) shp }
  | .vfill d a m =>
    { useElem shp d [] m 2 with
      rr := touchRows a 1 ((List.range (grpVecs d shp)).map (fun r => (laneLo a shp + r) % 64)) }
  | .vrand d => useElem shp d [] false 2
  | .vxferElement _ a l => { rr := touchRows a 1 [l.toNat] }
  | .vxferKcount _ k => { kr := [k] }
  | _ => {}

/-! ### Issuing a V slot (R248, R249) -/

/-- The results of a V slot: rows and registers it writes, its flags, the elements that set its occupancy, and the grid
with the generators it advances. -/
structure VOut where
  g : Grid
  rows : List (Nat × Row) := []
  regs : List GReg := []
  flags : Flags := 0
  n : Nat := 0
  deriving DecidableEq, Repr

/-- The old value of a register that a slot writes, for its history entry. -/
def Grid.old (g : Grid) : GReg → GReg
  | .e n _ => .e n (g.re n)
  | .qs n _ => .qs n (g.rq n)
  | .k n _ => .k n (g.rk n)

/-- The history entries of the rows of a slot, on the grid before the slot (R110). -/
def Grid.history (g : Grid) (rows : List Nat) : List (Nat × Row × Bool × Bool × Word) :=
  rows.map (fun r => (r, g.row r, g.fdirty.getLsbD (r % 64), g.gdirty.getLsbD (r % 64), g.gen r))

/-- A V slot issues: a unit is busy for o cycles, a special-function slot starts when the array is free, and the flight
takes its write cycle o + L - 1. -/
def Grid.vIssue (g : Grid) (pkt : GridPkt) (i : Instr) (o : VOut) : Grid :=
  let u := Instr.vUse pkt.shp pkt.fmt i
  let start := if u.sf then max g.cyc g.sfFree else g.cyc
  let occ := max 1 (if u.sf then (o.n + 15) / 16 else (o.n + 63) / 64)
  let f : Flight :=
    { fwd := pkt.fwd, kind := .v, due := start + occ + u.lat - 1, rows := o.rows, rk := none, vld := none, regs := o.regs
      flags := o.flags, histRows := g.history u.rw, histRegs := o.regs.map g.old, written := false }
  let h := o.g
  let free := start + occ
  { h with
    inflight := h.inflight ++ [f]
    v0Free := if g.v0Free ≤ g.cyc then free else h.v0Free
    v1Free := if g.v0Free ≤ g.cyc then h.v1Free else free
    sfFree := if u.sf then free else h.sfFree }

/-- A V slot on the side that executes it: the access engine checks it, against run-time reserved fields and then its
formats (R179), and the packet takes it; the grid engine performs it. -/
def State.vSlot (s : State) (i : Instr) (fieldOk : Word → Bool) (err : Word → Option FmtDetail)
    (perform : GridPkt → Option Cell → Grid → VOut) : Host.Outcome State Fault Refusal :=
  .next (match s.slot.side with
    | .access =>
      if !fieldOk s.slot.pkt.shp then s.illegal .reservedField
      else
        match err s.slot.pkt.fmt with
        | some d => s.raise (BitVec.ofNat 9 (0x040 + d)) s.slot.pkt.fmt
        | none => s.modSlot (fun c => { c with pkt := { c.pkt with v := c.pkt.v ++ [⟨i, c.word, c.lit⟩] } })
    | .grid => s.modGrid s.cur (fun g => g.vIssue s.slot.pkt i (perform s.slot.pkt s.slot.lit g)))

/-- No run-time field rule. -/
def anyField (_ : Word) : Bool := true
/-- No type field is read. -/
def noFormat (_ : Word) : Option FmtDetail := none

/-! ### Writing groups -/

/-- The new contents of rows: each cell that `sel` gives an element is the value of `f`, with flags; the rest keep. -/
def Grid.rebuild (g : Grid) (rows : List Nat) (sel : Nat → Nat → Option (Nat × Nat))
    (f : Nat → Nat → Nat → Nat → Cell → Cell × Flags) : List (Nat × Row) × Flags :=
  rows.foldl (fun acc i =>
    let ps : Vector (Cell × Flags) 64 := Vector.ofFn (fun j =>
      match sel i j.val with
      | some (r, l) => f r l i j.val (g.cell i j.val)
      | none => (g.cell i j.val, 0))
    (acc.1 ++ [(i, ps.map Prod.fst)], ps.foldl (fun a p => a ||| p.2) acc.2)) ([], 0)

/-- The elements of `n` vectors of group d in its active lanes. -/
def Grid.selGroup (g : Grid) (d : BitVec 8) (n : Nat) (shp : Word) (m : Bool) (i j : Nat) : Option (Nat × Nat) :=
  let (r, l) := vecOf d i j
  if r < n ∧ inLanes d shp l ∧ g.active m l then some (r, l) else none

/-- A slot that writes `n` vectors of group d, rounding or not: the generators of the rows it writes advance once under
SR, or whatever RND holds when `force` is set, and each element draws for its cell and element index 0 (R136). -/
def Grid.vWrite (g : Grid) (pkt : GridPkt) (d : BitVec 8) (n : Nat) (m rounds force : Bool)
    (f : Grid → Nat → Nat → Nat → Nat → Cell → Cell × Flags) : VOut :=
  let rows := groupRows d n pkt.shp
  let sr := (rounds && decide ((fmtRc pkt.fmt).rnd = 5)) || force
  let h := if sr then g.advance rows else g
  let (out, fl) := g.rebuild rows (g.selGroup d n pkt.shp m) (f h)
  { g := h, rows := out, flags := fl, n := n * (g.activeLanes m d pkt.shp).length }

/-- An elementwise slot: element (r, lane) from the draw of its cell and the sources. -/
def Grid.vMap (g : Grid) (pkt : GridPkt) (d : BitVec 8) (m rounds : Bool)
    (f : Nat → Nat → Nat → Cell → Cell × Flags) : VOut :=
  g.vWrite pkt d (grpVecs d pkt.shp) m rounds false (fun h r l i j old =>
    f (if rounds && decide ((fmtRc pkt.fmt).rnd = 5) then srDraw (h.gen i) j 0 else 0) r l old)

/-- A two-source elementwise operation on cells. -/
def Grid.vBin (g : Grid) (pkt : GridPkt) (lit : Option Cell) (d a b : BitVec 8) (m rounds : Bool)
    (f : Rc → Nat → Cell → Cell → Cell → Cell × Flags) : VOut :=
  g.vMap pkt d m rounds (fun draw r l old => f (fmtRc pkt.fmt) draw (g.src lit a r l) (g.src lit b r l) old)

/-- A one-source elementwise operation on cells. -/
def Grid.vUn (g : Grid) (pkt : GridPkt) (lit : Option Cell) (d a : BitVec 8) (m rounds : Bool)
    (f : Rc → Nat → Cell → Cell × Flags) : VOut :=
  g.vMap pkt d m rounds (fun draw r l _ => f (fmtRc pkt.fmt) draw (g.src lit a r l))

end Sys2Proof.Machine
end

