-- ==== Sys2Proof/Machine/VectorArith.lean ====
section
/-! DEFINITION. V slots: floating-point and integer arithmetic, products, comparisons, selection, classification and
special functions (R252 to R260). -/

namespace Sys2Proof.Machine

/-! ### Formats -/

def isFP32 (t : Ty) : Bool := decide (t.code = 0)
def isI32 (t : Ty) : Bool := decide (t.code = 11)
/-- TA, TB and TD must be FP32 (R252). -/
def fpCheck (fmt : Word) : Option FmtDetail :=
  let a := fmtTA fmt
  let b := fmtTB fmt
  let d := fmtTD fmt
  fmtCheck [a, b, d] (isFP32 a && isFP32 b && isFP32 d) false fmt
/-- VMULW (R254). -/
def mulwCheck (fmt : Word) : Option FmtDetail :=
  let a := fmtTA fmt
  let b := fmtTB fmt
  let d := fmtTD fmt
  fmtCheck [a, b, d] (decide (a.code.toNat ≤ 11) && decide (b.code.toNat ≤ 11) &&
    (isFP32 d || (isI32 d && a.isInt && b.isInt))) false fmt
/-- VCMP (R255). -/
def cmpCheck (fmt : Word) : Option FmtDetail :=
  let a := fmtTA fmt
  let b := fmtTB fmt
  fmtCheck [a, b] ((isFP32 a && isFP32 b) || (isI32 a && isI32 b)) false fmt
/-- Special functions (R258). -/
def sfCheck (fmt : Word) : Option FmtDetail :=
  let a := fmtTA fmt
  let d := fmtTD fmt
  fmtCheck [a, d] (isFP32 a && isFP32 d) false fmt

/-! ### The floating group (R252) -/

def fpv (c : Cell) : Val := tyFP32.val c
/-- A sum of FP32 terms rounded once, with the invalid flags of the values read (R126, R142). -/
def fpSum (rc : Rc) (draw : Nat) (fl : Flags) (ts : List Val) : Cell × Flags :=
  let (c, f) := sumRound tyFP32 rc draw ts
  (c, fl ||| f)
def fpAdd (rc : Rc) (draw : Nat) (a b _ : Cell) : Cell × Flags := fpSum rc draw (fpSig a ||| fpSig b) [fpv a, fpv b]
def fpSub (rc : Rc) (draw : Nat) (a b _ : Cell) : Cell × Flags := fpSum rc draw (fpSig a ||| fpSig b) [fpv a, (fpv b).negate]
def fpMul (rc : Rc) (draw : Nat) (a b _ : Cell) : Cell × Flags :=
  let (p, f) := (fpv a).mul (fpv b)
  let (c, g) := deliver tyFP32 rc draw p
  (c, fpSig a ||| fpSig b ||| f ||| g)
/-- round (±(a * b) ± d), one rounding. -/
def fpFma (np nd : Bool) (rc : Rc) (draw : Nat) (a b d : Cell) : Cell × Flags :=
  let (p, f) := (fpv a).mul (fpv b)
  fpSum rc draw (fpSig a ||| fpSig b ||| fpSig d ||| f)
    [if np then p.negate else p, if nd then (fpv d).negate else fpv d]

/-- A floating slot. -/
def State.fpSlot (s : State) (i : Instr) (d a b : BitVec 8) (m rounds : Bool)
    (f : Rc → Nat → Cell → Cell → Cell → Cell × Flags) : Host.Outcome State Fault Refusal :=
  s.vSlot i anyField fpCheck (fun p l g => g.vBin p l d a b m rounds f)

def execVadd (d a b : BitVec 8) (m : Bool) (s : State) := s.fpSlot (.vadd d a b m) d a b m true fpAdd
def execVsub (d a b : BitVec 8) (m : Bool) (s : State) := s.fpSlot (.vsub d a b m) d a b m true fpSub
def execVmul (d a b : BitVec 8) (m : Bool) (s : State) := s.fpSlot (.vmul d a b m) d a b m true fpMul
def execVfma (d a b : BitVec 8) (m : Bool) (s : State) := s.fpSlot (.vfma d a b m) d a b m true (fpFma false false)
def execVfms (d a b : BitVec 8) (m : Bool) (s : State) := s.fpSlot (.vfms d a b m) d a b m true (fpFma false true)
def execVfnma (d a b : BitVec 8) (m : Bool) (s : State) := s.fpSlot (.vfnma d a b m) d a b m true (fpFma true false)
def execVmin (d a b : BitVec 8) (m : Bool) (s : State) :=
  s.fpSlot (.vmin d a b m) d a b m false (fun _ _ x y _ => fpMinMax false x y)
def execVmax (d a b : BitVec 8) (m : Bool) (s : State) :=
  s.fpSlot (.vmax d a b m) d a b m false (fun _ _ x y _ => fpMinMax true x y)

/-- A slot that works on bits: no type field, no flag. -/
def State.bitSlot (s : State) (i : Instr) (d a b : BitVec 8) (m : Bool) (f : Cell → Cell → Cell) :
    Host.Outcome State Fault Refusal :=
  s.vSlot i anyField noFormat (fun p l g => g.vBin p l d a b m false (fun _ _ x y _ => (f x y, 0)))

def execVabs (d a : BitVec 8) (m : Bool) (s : State) := s.bitSlot (.vabs d a m) d a a m (fun x _ => x &&& 0x7FFFFFFF)
def execVneg (d a : BitVec 8) (m : Bool) (s : State) := s.bitSlot (.vneg d a m) d a a m (fun x _ => x ^^^ 0x80000000)
def execVcpys (d a b : BitVec 8) (m : Bool) (s : State) :=
  s.bitSlot (.vcpys d a b m) d a b m (fun x y => (x &&& 0x7FFFFFFF) ||| (y &&& 0x80000000))

/-! ### The integer group (R253) -/

/-- An exact integer result: modulo 2^32, or clamped under SAT. -/
def State.intSlot (s : State) (i : Instr) (d a b : BitVec 8) (m : Bool) (f : Int → Int → Int) :
    Host.Outcome State Fault Refusal :=
  s.vSlot i anyField noFormat (fun p l g =>
    g.vBin p l d a b m false (fun rc _ x y _ => wrapOrClamp rc.sat (f x.toInt y.toInt)))

def execViadd (d a b : BitVec 8) (m : Bool) (s : State) := s.intSlot (.viadd d a b m) d a b m (fun x y => x + y)
def execVisub (d a b : BitVec 8) (m : Bool) (s : State) := s.intSlot (.visub d a b m) d a b m (fun x y => x - y)
def execVimul (d a b : BitVec 8) (m : Bool) (s : State) := s.intSlot (.vimul d a b m) d a b m (fun x y => x * y)
def execVimulh (d a b : BitVec 8) (m : Bool) (s : State) :=
  s.bitSlot (.vimulh d a b m) d a b m (fun x y => BitVec.ofInt 32 ((x.toInt * y.toInt).fdiv (2 ^ 32)))
def execVimin (d a b : BitVec 8) (m : Bool) (s : State) :=
  s.bitSlot (.vimin d a b m) d a b m (fun x y => if x.slt y then x else y)
def execVimax (d a b : BitVec 8) (m : Bool) (s : State) :=
  s.bitSlot (.vimax d a b m) d a b m (fun x y => if x.slt y then y else x)
def execVand (d a b : BitVec 8) (m : Bool) (s : State) := s.bitSlot (.vand d a b m) d a b m (fun x y => x &&& y)
def execVor (d a b : BitVec 8) (m : Bool) (s : State) := s.bitSlot (.vor d a b m) d a b m (fun x y => x ||| y)
def execVxor (d a b : BitVec 8) (m : Bool) (s : State) := s.bitSlot (.vxor d a b m) d a b m (fun x y => x ^^^ y)
/-- The shift amount b[4:0] (R253). -/
def sh5 (b : Cell) : Nat := b.toNat % 32
def execVshl (d a b : BitVec 8) (m : Bool) (s : State) := s.bitSlot (.vshl d a b m) d a b m (fun x y => x <<< sh5 y)
def execVshr (d a b : BitVec 8) (m : Bool) (s : State) := s.bitSlot (.vshr d a b m) d a b m (fun x y => x >>> sh5 y)
def execVsar (d a b : BitVec 8) (m : Bool) (s : State) := s.bitSlot (.vsar d a b m) d a b m (fun x y => x.sshiftRight (sh5 y))

/-- VMULW (R254): the exact product of low elements rounded once into TD. -/
def mulw (ta tb td : Ty) (rc : Rc) (draw : Nat) (a b : Cell) : Cell × Flags :=
  let x := ta.val a
  let y := tb.val b
  let (p, f) := x.mul y
  let (c, g) := deliver td rc draw p
  (c, x.sigFlag ||| y.sigFlag ||| f ||| g)
def execVmulw (d a b : BitVec 8) (m : Bool) (s : State) :=
  s.vSlot (.vmulw d a b m) anyField mulwCheck (fun p l g =>
    g.vBin p l d a b m true (fun rc draw x y _ => mulw (fmtTA p.fmt) (fmtTB p.fmt) (fmtTD p.fmt) rc draw x y))

/-! ### Compare, select and classify (R255 to R257) -/

/-- The conditions of VCMP. -/
inductive Cond | eq | ne | lt | le | gt | ge | un
  deriving DecidableEq, Repr

/-- One comparison: FP32 with the zeros equal, or signed INT32 (R255). -/
def compare (int : Bool) (c : Cond) (a b : Cell) : Bool × Flags :=
  if int then
    let x := a.toInt
    let y := b.toInt
    (match c with
     | .eq => decide (x = y)
     | .ne => decide (x ≠ y)
     | .lt => decide (x < y)
     | .le => decide (x ≤ y)
     | .gt => decide (y < x)
     | .ge => decide (y ≤ x)
     | .un => false, 0)
  else
    let nan := fpNan a || fpNan b
    let sig := fpSig a ||| fpSig b
    let x := fpKey0 a
    let y := fpKey0 b
    match c with
    | .eq => (!nan && decide (x = y), sig)
    | .ne => (nan || decide (x ≠ y), sig)
    | .lt => (!nan && decide (x < y), flagIf nan fNV)
    | .le => (!nan && decide (x ≤ y), flagIf nan fNV)
    | .gt => (!nan && decide (y < x), flagIf nan fNV)
    | .ge => (!nan && decide (y ≤ x), flagIf nan fNV)
    | .un => (nan, sig)

/-- VCMP: each operand is read at the same lane position of its own vector 0. -/
def Grid.vcmp (g : Grid) (pkt : GridPkt) (lit : Option Cell) (c : Cond) (k : BitVec 3) (a b : BitVec 8) (m : Bool) : VOut :=
  let ls := cmpLanes a b pkt.shp
  let int := isI32 (fmtTA pkt.fmt)
  let one (p : Nat) : Bool × Flags :=
    compare int c (g.src lit a 0 (laneLo a pkt.shp + p)) (g.src lit b 0 (laneLo b pkt.shp + p))
  let res := ls.zipIdx.foldl (fun (acc : Word × Flags) e =>
    if g.active m e.1 then
      let (t, f) := one e.2
      (setBit acc.1 e.1 t, acc.2 ||| f)
    else (setBit acc.1 e.1 false, acc.2)) (g.rk k, 0)
  { g := g, regs := [.k k res.1], flags := res.2, n := (ls.filter (g.active m)).length }

/-- A comparison slot. -/
def State.cmpSlot (s : State) (i : Instr) (c : Cond) (k : BitVec 3) (a b : BitVec 8) (m : Bool) :
    Host.Outcome State Fault Refusal :=
  s.vSlot i anyField cmpCheck (fun p l g => g.vcmp p l c k a b m)

def execVcmpEq (k : BitVec 3) (a b : BitVec 8) (m : Bool) (s : State) := s.cmpSlot (.vcmpEq k a b m) .eq k a b m
def execVcmpNe (k : BitVec 3) (a b : BitVec 8) (m : Bool) (s : State) := s.cmpSlot (.vcmpNe k a b m) .ne k a b m
def execVcmpLt (k : BitVec 3) (a b : BitVec 8) (m : Bool) (s : State) := s.cmpSlot (.vcmpLt k a b m) .lt k a b m
def execVcmpLe (k : BitVec 3) (a b : BitVec 8) (m : Bool) (s : State) := s.cmpSlot (.vcmpLe k a b m) .le k a b m
def execVcmpGt (k : BitVec 3) (a b : BitVec 8) (m : Bool) (s : State) := s.cmpSlot (.vcmpGt k a b m) .gt k a b m
def execVcmpGe (k : BitVec 3) (a b : BitVec 8) (m : Bool) (s : State) := s.cmpSlot (.vcmpGe k a b m) .ge k a b m
def execVcmpUn (k : BitVec 3) (a b : BitVec 8) (m : Bool) (s : State) := s.cmpSlot (.vcmpUn k a b m) .un k a b m

/-- VSEL (R256): k0 picks ga or gb in every lane of the range. -/
def execVsel (d a b : BitVec 8) (s : State) :=
  s.vSlot (.vsel d a b) anyField noFormat (fun p l g =>
    g.vMap p d false false (fun _ r j _ => (if (g.rk 0).getLsbD j then g.src l a r j else g.src l b r j, 0)))

/-- The class bit of an FP32 code (R257). -/
def classOf (c : Cell) : Cell :=
  let e := (c.toNat / 2 ^ 23) % 256
  let f := c.toNat % 2 ^ 23
  let bit : Nat :=
    if e = 255 then
      if f = 0 then (if c.msb then 0 else 7) else if f < 2 ^ 22 then 8 else 9
    else if e = 0 then
      if f = 0 then (if c.msb then 3 else 4) else (if c.msb then 2 else 5)
    else if c.msb then 1 else 6
  1#32 <<< bit
def execVclass (d a : BitVec 8) (m : Bool) (s : State) := s.bitSlot (.vclass d a m) d a a m (fun x _ => classOf x)

/-! ### Special functions (R258 to R260) -/

def State.sfSlot (s : State) (i : Instr) (f : SpFn) (d a : BitVec 8) (m : Bool) : Host.Outcome State Fault Refusal :=
  s.vSlot i anyField sfCheck (fun p l g => g.vUn p l d a m true (specialFn f))

def execVexp2 (d a : BitVec 8) (m : Bool) (s : State) := s.sfSlot (.vexp2 d a m) .exp2 d a m
def execVlog2 (d a : BitVec 8) (m : Bool) (s : State) := s.sfSlot (.vlog2 d a m) .log2 d a m
def execVrcp (d a : BitVec 8) (m : Bool) (s : State) := s.sfSlot (.vrcp d a m) .rcp d a m
def execVrsq (d a : BitVec 8) (m : Bool) (s : State) := s.sfSlot (.vrsq d a m) .rsq d a m
def execVsqrt (d a : BitVec 8) (m : Bool) (s : State) := s.sfSlot (.vsqrt d a m) .sqrt d a m
def execVsinp (d a : BitVec 8) (m : Bool) (s : State) := s.sfSlot (.vsinp d a m) .sinp d a m
def execVcosp (d a : BitVec 8) (m : Bool) (s : State) := s.sfSlot (.vcosp d a m) .cosp d a m
def execVtanh (d a : BitVec 8) (m : Bool) (s : State) := s.sfSlot (.vtanh d a m) .tanh d a m
def execVsigm (d a : BitVec 8) (m : Bool) (s : State) := s.sfSlot (.vsigm d a m) .sigm d a m

end Sys2Proof.Machine
end

