-- ==== Sys2Proof/Machine/VectorConv.lean ====
section
/-! DEFINITION. V slots: conversions, quantisation, block scales, packing, reductions and scans (R261 to R268). -/

namespace Sys2Proof.Machine

/-! ### Conversions -/

/-- A magnitude is tiny in E8, whose smallest normal is 2^-127 (R135). -/
def tinyE8 (rnd : BitVec 3) (neg : Bool) (v : Mag) : Bool :=
  let u := v.log2
  let (_, r, d) := v.over u
  decide (u + (roundUp (noSR rnd) 0 neg (decide ((u + 127) % 2 = 1)) r d).toNat < -127)

/-- A value rounded into E8 (R132, R133, R135), of which 2^-127 is the smallest value; no code where E8 has no value for the result, a zero or a
negative one. Between zero and 2^-127 the even code is that of 2^-127 (log 10). Above 2^127 it overflows, clamped or not as SAT says (R134). -/
def roundE8 (rc : Rc) (draw : Nat) : Val → Option Cell × Flags
  | .nan _ => (some 0xFF, 0)
  | .fin neg m e =>
    if m = 0 then (none, 0)
    else
      let v : Mag := ⟨m, e, 1⟩
      let u := max v.log2 (-127)
      let (a, r, d) := v.over u
      let a := if roundUp rc.rnd draw neg (decide (a = 0 ∨ (u + 127) % 2 = 1)) r d then a + 1 else a
      let code := u + 126 + a
      if 254 < code then (none, (if rc.sat then fSA else fOF) ||| fNX)
      else
        (if neg ∨ a = 0 then none else some (BitVec.ofInt 32 code),
          flagIf (decide (0 < r)) fNX ||| flagIf (decide (0 < r) && tinyE8 rc.rnd neg v) fUF)
  | _ => (none, 0)

/-- One element converted between types, both in low-element form (R246, R261). -/
def conv (ta td : Ty) (rc : Rc) (draw : Nat) (c : Cell) : Cell × Flags :=
  let v := ta.val c
  let (r, f) :=
    if td.code = 12 then
      let (code, f) := roundE8 rc draw v
      (code.getD ((Config.packE8 (lowBits ta.width c) rc.rnd rc.sat).setWidth 32), f)
    else deliver td rc draw v
  (r, v.sigFlag ||| f)

/-- VCVT accepts codes 0 to 11 (R261). -/
def cvtCheck (fmt : Word) : Option FmtDetail :=
  let a := fmtTA fmt
  let d := fmtTD fmt
  fmtCheck [a, d] (decide (a.code.toNat ≤ 11) && decide (d.code.toNat ≤ 11)) false fmt
def execVcvt (d a : BitVec 8) (m : Bool) (s : State) :=
  s.vSlot (.vcvt d a m) anyField cvtCheck (fun p l g =>
    g.vUn p l d a m true (conv (fmtTA p.fmt) (fmtTD p.fmt)))

/-! ### Quantisation (R262) -/

/-- VQNT: TA FP32, TD an integer type. -/
def qntCheck (fmt : Word) : Option FmtDetail :=
  let a := fmtTA fmt
  let d := fmtTD fmt
  fmtCheck [a, d] (isFP32 a && d.isInt) false fmt
/-- VDQNT: TA an integer type, TD FP32. -/
def dqntCheck (fmt : Word) : Option FmtDetail :=
  let a := fmtTA fmt
  let d := fmtTD fmt
  fmtCheck [a, d] (a.isInt && isFP32 d) false fmt

def execVqnt (d a : BitVec 8) (q : BitVec 3) (m : Bool) (s : State) :=
  s.vSlot (.vqnt d a q m) anyField qntCheck (fun p l g =>
    g.vUn p l d a m true (fun rc draw c => quantise (fmtTD p.fmt) rc.rnd draw (g.rq q) (fpv c)))
/-- Load mode: the scale from lane 0 and the zero point from lane 1 of vector 0, whatever the deckle. -/
def execVqntLoad (a : BitVec 8) (q : BitVec 3) (s : State) :=
  s.vSlot (.vqntLoad a q) anyField noFormat (fun _ l g =>
    { g := g, regs := [.qs q ⟨g.src l a 0 0, (g.src l a 0 1).setWidth 16⟩], n := 2 })
def execVdqnt (d a : BitVec 8) (q : BitVec 3) (m : Bool) (s : State) :=
  s.vSlot (.vdqnt d a q m) anyField dqntCheck (fun p l g =>
    g.vUn p l d a m true (fun rc draw c => dequantise rc draw (fmtTA p.fmt) (g.rq q) c))

/-- A store mode: lanes of vector 0 of gd, whatever the deckle. -/
def Grid.storeLanes (g : Grid) (d : BitVec 8) (vals : List Cell) : VOut :=
  let rows := touchRows d 1 (List.range vals.length)
  let sel (i j : Nat) : Option (Nat × Nat) :=
    let (r, l) := vecOf d i j
    if r = 0 ∧ l < vals.length then some (r, l) else none
  let (out, _) := g.rebuild rows sel (fun _ l _ _ old => (vals.getD l old, 0))
  { g := g, rows := out, n := vals.length }

def execVdqntStore (d : BitVec 8) (q : BitVec 3) (s : State) :=
  s.vSlot (.vdqntStore d q) anyField noFormat (fun _ _ g =>
    g.storeLanes d [(g.rq q).scale, (g.rq q).zp.signExtend 32])

/-! ### Block scales (R263, R264) -/

/-- Every mode needs BSE; the load and store modes read no type. -/
def bscCheck (fmt : Word) : Option FmtDetail := fmtCheck [] true true fmt
/-- The apply mode: TA any of 0 to 11, TD FP32. -/
def bscApplyCheck (fmt : Word) : Option FmtDetail :=
  let a := fmtTA fmt
  let d := fmtTD fmt
  fmtCheck [a, d] (decide (a.code.toNat ≤ 11) && isFP32 d) true fmt
/-- VBQNT: TA FP32, TD one of codes 3 to 10. -/
def bqntCheck (fmt : Word) : Option FmtDetail :=
  let a := fmtTA fmt
  let d := fmtTD fmt
  fmtCheck [a, d] (isFP32 a && decide (3 ≤ d.code.toNat ∧ d.code.toNat ≤ 10)) true fmt
/-- N + floor ((g - 1) / 32) is at most 7 (R263, R264). -/
def eBound (d : BitVec 8) (e : BitVec 3) (shp : Word) : Bool := decide (e.toNat + (grpVecs d shp - 1) / 32 ≤ 7)
/-- Element of an e register. -/
def Grid.eAt (g : Grid) (n : BitVec 3) (l : Nat) : Byte := (g.re n)[l % 64]'(Nat.mod_lt _ (by decide))

def execVbscLoad (a : BitVec 8) (e : BitVec 3) (s : State) :=
  s.vSlot (.vbscLoad a e) anyField bscCheck (fun _ l g =>
    { g := g, regs := [.e e (Vector.ofFn (fun j => (g.src l a 0 j.val).setWidth 8))], n := 64 })
def execVbscStore (d : BitVec 8) (e : BitVec 3) (s : State) :=
  s.vSlot (.vbscStore d e) anyField bscCheck (fun _ _ g => g.storeLanes d ((g.re e).toList.map (fun b => b.setWidth 32)))

/-- An element scaled by an E8 code (R263): exact, rounded once; 0xFF gives NaN with no flag. -/
def bscElem (ta : Ty) (rc : Rc) (draw : Nat) (code : Byte) (c : Cell) : Cell × Flags :=
  if code = 0xFF then (tyFP32.nan, 0)
  else
    let v := ta.val c
    let (r, f) := deliver tyFP32 rc draw (v.scale ((code.toNat : Int) - 127))
    (r, v.sigFlag ||| f)
def execVbscApply (d a : BitVec 8) (e : BitVec 3) (m : Bool) (s : State) :=
  s.vSlot (.vbscApply d a e m) (eBound d e) bscApplyCheck (fun p lit g =>
    g.vMap p d m true (fun draw r l _ =>
      bscElem (fmtTA p.fmt) (fmtRc p.fmt) draw (g.eAt (e + BitVec.ofNat 3 (r / 32)) l) (g.src lit a r l)))

/-- The code of one lane of one block of VBQNT: vectors 32b to min (32b + 31, g - 1) (R264). -/
def Grid.laneCode (g : Grid) (pkt : GridPkt) (lit : Option Cell) (a : BitVec 8) (n b l : Nat) : BitVec 8 × Flags :=
  blockCode (fmtTD pkt.fmt) ((List.range (min 32 (n - 32 * b))).map (fun i => fpv (g.src lit a (32 * b + i) l)))

/-- VBQNT (R264): a code for each active lane and block, and the elements rounded under it. -/
def execVbqnt (d a : BitVec 8) (e : BitVec 3) (m : Bool) (s : State) :=
  s.vSlot (.vbqnt d a e m) (eBound d e) bqntCheck (fun p lit g =>
    let n := grpVecs d p.shp
    let ls := g.activeLanes m d p.shp
    let blocks := List.range ((n - 1) / 32 + 1)
    let code (b l : Nat) : BitVec 8 × Flags := g.laneCode p lit a n b l
    let regs := blocks.map (fun b =>
      let r := e + BitVec.ofNat 3 b
      GReg.e r (Vector.ofFn (fun j => if ls.contains j.val then (code b j.val).1 else (g.re r)[j])))
    let fl := blocks.foldl (fun f b => ls.foldl (fun f l => f ||| (code b l).2) f) 0
    let o := g.vMap p d m true (fun draw r l _ =>
      let c := g.src lit a r l
      let (v, f) := blockElem (fmtTD p.fmt) (fmtRc p.fmt) draw (code (r / 32) l).1 (fpv c)
      (v, f ||| fpSig c))
    { o with regs := regs, flags := o.flags ||| fl })

/-! ### Packing (R265, R266) -/

/-- A type of 16, 8 or 4 bits. -/
def narrow (t : Ty) : Bool := decide (t.width < 32)
/-- VPACK: TA FP32, INT32 or TD itself. -/
def packCheck (fmt : Word) : Option FmtDetail :=
  let a := fmtTA fmt
  let d := fmtTD fmt
  fmtCheck [a, d] (narrow d && (isFP32 a || isI32 a || decide (a.code = d.code))) false fmt
/-- VUNPK: TD TA, FP32 or INT32. -/
def unpkCheck (fmt : Word) : Option FmtDetail :=
  let a := fmtTA fmt
  let d := fmtTD fmt
  fmtCheck [a, d] (narrow a && (decide (d.code = a.code) || isFP32 d || isI32 d)) false fmt

/-- VPACK (R265): 2g vectors packed into h, g of gd's view, which ga shares unless it is special (R245): element e of a destination cell from source vector r * (32 / w) + e. -/
def execVpack (d a b : BitVec 8) (m : Bool) (s : State) :=
  s.vSlot (.vpack d a b m) anyField packCheck (fun p lit g =>
    let ta := fmtTA p.fmt
    let td := fmtTD p.fmt
    let rc := fmtRc p.fmt
    let n := grpVecs d p.shp
    let per := td.perCell
    let same := decide (ta.code = td.code)
    let elem (h : Grid) (i j r l e : Nat) : Cell × Flags :=
      let k := r * per + e
      if 2 * n ≤ k then (0, 0)
      else
        let c := if k < n then g.src lit a k l else g.src lit b (k - n) l
        if same then (lowBits td.width c, 0)
        else conv ta td rc (if rc.rnd = 5 then srDraw (h.gen i) j e else 0) c
    let o := g.vWrite p d (packVecs td (2 * n)) m (!same) false (fun h r l i j _ =>
      (List.range per).foldl (fun acc e =>
        let (c, f) := elem h i j r l e
        (acc.1 ||| (lowBits td.width c <<< (td.width * e)), acc.2 ||| f)) (0, 0))
    { o with n := max o.n (2 * n * (g.activeLanes m d p.shp).length) })

/-- VUNPK (R266): vector r from element r mod (32 / w) of cell (r / (32 / w), lane). -/
def execVunpk (d a : BitVec 8) (m : Bool) (s : State) :=
  s.vSlot (.vunpk d a m) anyField unpkCheck (fun p lit g =>
    let ta := fmtTA p.fmt
    let td := fmtTD p.fmt
    let per := ta.perCell
    let same := decide (ta.code = td.code)
    g.vMap p d m (isI32 td && !ta.isInt) (fun draw r l _ =>
      let c := ta.elem (g.src lit a (r / per) l) (r % per)
      if same then (c, 0) else conv ta td (fmtRc p.fmt) draw c))

/-! ### Reductions and scans (R143, R144, R267, R268) -/

inductive RedOp | sum | max | min | amax
  deriving DecidableEq, Repr

/-- TA and TD both FP32 or both INT32. -/
def redCheck (fmt : Word) : Option FmtDetail :=
  let a := fmtTA fmt
  let d := fmtTD fmt
  fmtCheck [a, d] ((isFP32 a && isFP32 d) || (isI32 a && isI32 d)) false fmt

/-- The value a reduction starts from: |x| for AMAX, with the flags of reading it. -/
def redPre (int : Bool) (op : RedOp) (c : Cell) : Cell × Flags :=
  if op = .amax then
    if int then wrapOrClamp true c.toInt.natAbs
    else (c &&& 0x7FFFFFFF, fpSig c)
  else (c, if int then 0 else fpSig c)

/-- One step of a reduction (R143): SUM rounds once (RNE under SR), MAX, MIN and AMAX are exact and give NaN for NaN. -/
def redStep (int : Bool) (rc : Rc) (op : RedOp) (a b : Cell) : Cell × Flags :=
  if int then
    match op with
    | .sum => wrapOrClamp rc.sat (a.toInt + b.toInt)
    | .min => (if b.slt a then b else a, 0)
    | _ => (if a.slt b then b else a, 0)
  else
    match op with
    | .sum => sumRound tyFP32 ⟨noSR rc.rnd, rc.sat⟩ 0 [fpv a, fpv b]
    | .min => (if fpNan a || fpNan b then tyFP32.nan else if fpKey b < fpKey a then b else a, 0)
    | _ => (if fpNan a || fpNan b then tyFP32.nan else if fpKey a < fpKey b then b else a, 0)

/-- The result with no active lane (R143, R267). -/
def redEmpty (int : Bool) : RedOp → Cell
  | .max => if int then 0x80000000 else 0xFF800000
  | .min => if int then 0x7FFFFFFF else 0x7F800000
  | _ => 0

/-- Two partials of the fold. -/
def redJoin (int : Bool) (rc : Rc) (op : RedOp) : Option Cell → Option Cell → Option Cell × Flags
  | some a, some b => let (c, f) := redStep int rc op a b; (some c, f)
  | some a, none => (some a, 0)
  | none, b => (b, 0)

/-- The fold over lanes h = 32, 16, 8, 4, 2, 1 (R143). -/
def redFold (int : Bool) (rc : Rc) (op : RedOp) : Nat → List (Option Cell) → Option Cell × Flags
  | 0, l => (l.headD none, 0)
  | k + 1, l =>
    let h := 2 ^ k
    let ps := (List.zip (l.take h) (l.drop h)).map (fun p => redJoin int rc op p.1 p.2)
    let (r, f) := redFold int rc op k (ps.map Prod.fst)
    (r, ps.foldl (fun a p => a ||| p.2) f)

/-- A NaN result is canonical (R126). -/
def redFin (int : Bool) (c : Cell) : Cell := if !int && fpNan c then tyFP32.nan else c

/-- The partial of one lane: its vectors folded in increasing order. -/
def redLane (int : Bool) (rc : Rc) (op : RedOp) (xs : List Cell) : Option Cell × Flags :=
  match xs with
  | [] => (none, 0)
  | x :: rest =>
    let (p, f) := redPre int op x
    let (c, f) := rest.foldl (fun (acc : Cell × Flags) y =>
      let (q, f) := redPre int op y
      let (c, g) := redStep int rc op acc.1 q
      (c, acc.2 ||| f ||| g)) (p, f)
    (some c, f)

/-- VRED (R267): the whole group of ga, or a group shaped like gd's under a special ga, reduced in the order of R143 and
written to every lane of the range of gd's vector 0. -/
def Grid.vred (g : Grid) (pkt : GridPkt) (lit : Option Cell) (op : RedOp) (d a : BitVec 8) (m : Bool) : VOut :=
  let int := isI32 (fmtTA pkt.fmt)
  let rc := fmtRc pkt.fmt
  let shape := if isSpecial a then d else a
  let n := grpVecs shape pkt.shp
  let lane (l : Nat) : Option Cell × Flags :=
    if inLanes shape pkt.shp l ∧ g.active m l then redLane int rc op ((List.range n).map (fun r => g.src lit a r l))
    else (none, 0)
  let ps := allLanes.map lane
  let (r, f) := redFold int rc op 6 (ps.map Prod.fst)
  let v := match r with
    | some c => redFin int c
    | none => redEmpty int op
  let o := g.vWrite pkt d 1 false false false (fun _ _ _ _ _ _ => (v, 0))
  { o with flags := ps.foldl (fun a p => a ||| p.2) f, n := max o.n (n * (g.activeLanes m shape pkt.shp).length) }

def State.redSlot (s : State) (i : Instr) (op : RedOp) (d a : BitVec 8) (m : Bool) : Host.Outcome State Fault Refusal :=
  s.vSlot i anyField redCheck (fun p l g => g.vred p l op d a m)
def execVredSum (d a : BitVec 8) (m : Bool) (s : State) := s.redSlot (.vredSum d a m) .sum d a m
def execVredMax (d a : BitVec 8) (m : Bool) (s : State) := s.redSlot (.vredMax d a m) .max d a m
def execVredMin (d a : BitVec 8) (m : Bool) (s : State) := s.redSlot (.vredMin d a m) .min d a m
def execVredAmax (d a : BitVec 8) (m : Bool) (s : State) := s.redSlot (.vredAmax d a m) .amax d a m

/-- The scan of one vector along its active lanes (R144). -/
def scanVec (int : Bool) (rc : Rc) (op : RedOp) (xs : List (Nat × Cell)) : List (Nat × Cell) × Flags :=
  let r := xs.foldl (fun (acc : List (Nat × Cell) × Option Cell × Flags) x =>
    let f := if int then 0 else fpSig x.2
    let (y, g) := match acc.2.1 with
      | none => (x.2, (0 : Flags))
      | some p => redStep int rc op p x.2
    (acc.1 ++ [(x.1, redFin int y)], some y, acc.2.2 ||| f ||| g)) ([], none, 0)
  (r.1, r.2.2)

/-- VSCAN (R268): each vector separately, in increasing lane position; an inactive lane passes through unwritten. -/
def Grid.vscan (g : Grid) (pkt : GridPkt) (lit : Option Cell) (op : RedOp) (d a : BitVec 8) (m : Bool) : VOut :=
  let int := isI32 (fmtTA pkt.fmt)
  let n := grpVecs d pkt.shp
  let ls := g.activeLanes m d pkt.shp
  let scans := (List.range n).map (fun r => scanVec int (fmtRc pkt.fmt) op (ls.map (fun l => (l, g.src lit a r l))))
  let o := g.vMap pkt d m false (fun _ r l old => (((scans.getD r ([], 0)).1.lookup l).getD old, 0))
  { o with flags := scans.foldl (fun a s => a ||| s.2) 0 }

def State.scanSlot (s : State) (i : Instr) (op : RedOp) (d a : BitVec 8) (m : Bool) : Host.Outcome State Fault Refusal :=
  s.vSlot i anyField redCheck (fun p l g => g.vscan p l op d a m)
def execVscanSum (d a : BitVec 8) (m : Bool) (s : State) := s.scanSlot (.vscanSum d a m) .sum d a m
def execVscanMax (d a : BitVec 8) (m : Bool) (s : State) := s.scanSlot (.vscanMax d a m) .max d a m
def execVscanMin (d a : BitVec 8) (m : Bool) (s : State) := s.scanSlot (.vscanMin d a m) .min d a m

end Sys2Proof.Machine
end

