-- ==== Sys2Proof/Machine/VectorMove.lean ====
section
/-! DEFINITION. V slots that move bits (R269 to R274): VMOV, VPERM, VROT, VFILL, VRAND and VXFER. -/

namespace Sys2Proof.Machine

/-- Two specifiers have the same lane axis: both row, or each column or diagonal (R269). -/
def sameAxis (d a : BitVec 8) : Bool := decide (specView d = 0) == decide (specView a = 0)

/-- The source element of VMOV for element (r, lane l) of gd (R269). -/
def vmovSrc (d a : BitVec 8) (shp : Word) (r l : Nat) : Nat × Nat :=
  let p := l - laneLo d shp
  if sameAxis d a then (r, laneLo a shp + p) else (p, laneLo a shp + r)

/-- VMOV (R269). -/
def execVmov (d a : BitVec 8) (m : Bool) (s : State) :=
  s.vSlot (.vmov d a m) anyField noFormat (fun p lit g =>
    g.vMap p d m false (fun _ r l _ => let (v, k) := vmovSrc d a p.shp r l; (g.src lit a v k, 0)))

/-- VPERM (R270). -/
def execVperm (d a b : BitVec 8) (m : Bool) (s : State) :=
  s.vSlot (.vperm d a b m) anyField noFormat (fun p lit g =>
    g.vMap p d m false (fun _ r l _ =>
      let k := ((g.src lit b r l).extractLsb' 0 6).toNat
      (if isSpecial a then lit.getD 0 else if inLanes a p.shp k then g.src lit a r k else 0, 0)))

/-- VROT (R271). -/
def execVrot (d a : BitVec 8) (c : BitVec 6) (m : Bool) (s : State) :=
  s.vSlot (.vrot d a c m) anyField noFormat (fun p lit g =>
    let n := laneCnt d p.shp
    g.vMap p d m false (fun _ r l _ =>
      let pos := (l - laneLo d p.shp + 64 * n - c.toNat) % n
      (g.src lit a r (laneLo d p.shp + pos), 0)))

/-- VFILL (R272). -/
def execVfill (d a : BitVec 8) (m : Bool) (s : State) :=
  s.vSlot (.vfill d a m) anyField noFormat (fun p lit g =>
    g.vMap p d m false (fun _ r _ _ => (g.src lit a 0 ((laneLo a p.shp + r) % 64), 0)))

/-- VRAND (R273). -/
def execVrand (d : BitVec 8) (s : State) :=
  s.vSlot (.vrand d) anyField noFormat (fun p _ g =>
    g.vWrite p d (grpVecs d p.shp) false false true (fun h _ _ i j _ => ((srHash (h.gen i) j 0).extractLsb' 32 32, 0)))

/-! ### VXFER (R274) -/

/-- VXFER on the access side. In REPLAY the logged values are taken at once; a value whose place is still open is
awaited again. Otherwise `n` places of the log are reserved (R104), and the packet carries them to the grid engine. -/
def State.vxferAccess (s : State) (i : Instr) (n : Nat) (take : List Word → State → State) : State :=
  let join (s : State) (places : List Nat) : State :=
    s.modSlot (fun c => { c with pkt := { c.pkt with v := c.pkt.v ++ [⟨i, c.word, c.lit⟩], log := c.pkt.log ++ places } })
  let places := (List.range n).map (fun j => s.me.logNext + j)
  if s.me.timed then s.timing 8
  else if s.me.replaying then
    let vs := (List.range n).filterMap (fun j => s.me.logged j)
    let t := if vs.length = n then join (take vs s) [] else join s places
    t.modMe (fun k => k.logAdvance n)
  else if !s.me.logRoom n then s.raise 0x0C2 33
  else join (s.modMe (fun k => (List.range n).foldl (fun k _ => k.logPut none) k)) places

/-- VXFER at its grid issue: the open places of the log take the values; unless a rollback has taken the core back
before the packet, the registers take them too. -/
def State.vxferGrid (s : State) (vs : List Word) (write : Core → Core) : State :=
  let ps := s.slot.pkt.log.take vs.length
  let s := s.modMe (fun k => (ps.zip vs).foldl (fun k p => k.logFill p.1 p.2) k)
  let s := s.modSlot (fun c => { c with pkt := { c.pkt with log := c.pkt.log.drop vs.length } })
  if !ps.isEmpty && decide (s.slot.pkt.fwd < s.me.rs.fwd) then s.modMe write else s

/-- VXFER of an element: the cell at a lane of ga's vector 0, sign-extended. -/
def execVxferElement (d : BitVec 5) (a : BitVec 8) (l : BitVec 6) (s : State) : Host.Outcome State Fault Refusal :=
  .next (match s.slot.side with
    | .access => s.vxferAccess (.vxferElement d a l) 1 (fun vs s => s.result d (vs.headD 0) 1)
    | .grid =>
      let v := sext32 (s.me.grid.src none a 0 l.toNat)
      s.vxferGrid [v] (fun k => k.wx d v))

/-- VXFER of a mask: the population count of the grid-side k register, whose value the access engine's register takes. -/
def execVxferKcount (d : BitVec 5) (n : BitVec 3) (s : State) : Host.Outcome State Fault Refusal :=
  .next (match s.slot.side with
    | .access => s.vxferAccess (.vxferKcount d n) 2 (fun vs s =>
        (s.result d (vs.headD 0) 1).modMe (fun k => k.expose (.k n) (vs.getD 1 0) 1))
    | .grid =>
      let w := s.me.grid.rk n
      let v := BitVec.ofNat 64 (popcField 64 (bitList 64 w.toNat) [])
      s.vxferGrid [v, w] (fun k => (k.wx d v).wk n w))

end Sys2Proof.Machine
end

