-- ==== Sys2Proof/Machine/TileOps.lean ====
section
/-! DEFINITION. Tile records (R293 to R296): fields, decoding, operand references, the elements they name, and what each
tile opcode computes. Where the step of a record is run stands in Tiles. -/

namespace Sys2Proof.Machine

/-! ### Records (Table 13.3) -/

def recOp (b : List Byte) : Nat := (byteAt b 0).toNat
def recFlag (b : List Byte) (i : Nat) : Bool := (byteAt b 1).getLsbD i
def recAct (b : List Byte) : Nat := ((byteAt b 1).extractLsb' 5 2).toNat
def recFmt (b : List Byte) : Word := BitVec.ofNat 64 (fieldAt b 4 4)
def recM (b : List Byte) : Nat := fieldAt b 8 4
def recN (b : List Byte) : Nat := fieldAt b 12 4
def recK (b : List Byte) : Nat := fieldAt b 16 4
/-- The function code of TMAP and TRED: K[7:0]. -/
def recFn (b : List Byte) : Nat := recK b % 256
def recTRA (b : List Byte) : Bool := recFlag b 2
def recTRB (b : List Byte) : Bool := recFlag b 3
def recACC (b : List Byte) : Bool := recFlag b 4
/-- Bytes 56 to 63: tag and sequence, or the record path (R301). -/
def recPath (b : List Byte) : List Byte := (b.drop 56).take 8

/-- An operand reference (Table 13.4). -/
structure TRef where
  space : Nat
  s2 : Nat
  s1 : Nat
  layout : Nat
  base : Nat
  deriving DecidableEq, Repr

def refOfNat (n : Nat) : TRef :=
  { space := n / 2 ^ 62, s2 := n / 2 ^ 56 % 64, s1 := n / 2 ^ 50 % 64, layout := n / 2 ^ 48 % 4, base := n % 2 ^ 48 * 16 }
def recRefA (b : List Byte) : TRef := refOfNat (fieldAt b 20 8)
def recRefB (b : List Byte) : TRef := refOfNat (fieldAt b 28 8)
def recRefC (b : List Byte) : TRef := refOfNat (fieldAt b 36 8)

/-- The byte address of element (i, j) of width `w` bits, and whether it is the high nibble (R294). -/
def TRef.elem (r : TRef) (w i j : Nat) : Nat × Bool :=
  let odd (k : Nat) : Bool := decide (w = 4 ∧ k % 2 = 1)
  match r.layout with
  | 1 => (r.base + j * 2 ^ r.s1 + i * w / 8, odd i)
  | 2 => (r.base + i / 64 * 2 ^ r.s2 + j / 64 * 2 ^ r.s1 + i % 64 * (64 * w / 8) + j % 64 * w / 8, odd (j % 64))
  | _ => (r.base + i * 2 ^ r.s1 + j * w / 8, odd j)

/-- Rows and columns of the output (R304): of C, or of the reduced result as a column. -/
def recOut (b : List Byte) : Nat × Nat :=
  match recOp b with
  | 3 => (if recTRA b then recN b else recM b, 1)
  | 7 => (recK b, recN b)
  | _ => (recM b, recN b)

/-- TMAP takes B. -/
def mapBinary (f : Nat) : Bool := decide (1 ≤ f ∧ f ≤ 5)
/-- The function codes of TMAP. -/
def mapFn (f : Nat) : Bool := decide (f ≤ 5) || decide (0x10 ≤ f ∧ f ≤ 0x14)

/-- The references that an opcode uses: A, B, C (Table 13.5). -/
def recUses (b : List Byte) : Bool × Bool × Bool :=
  match recOp b with
  | 1 => (true, true, true)
  | 2 => (true, mapBinary (recFn b), true)
  | 3 => (true, false, true)
  | 4 => (true, false, true)
  | 5 => (true, false, true)
  | 6 => (true, true, true)
  | 7 => (true, true, true)
  | 8 => (true, false, true)
  | _ => (false, false, false)

/-- A scale block is named for A, and for B. -/
def recScaleA (b : List Byte) : Nat := fieldAt b 44 4
def recScaleB (b : List Byte) : Nat := fieldAt b 48 4

/-- The types of the fmt image are accepted by the opcode (R295, Table 13.5). -/
def recTypesOk (b : List Byte) : Bool :=
  let f := recFmt b
  match recOp b with
  | 1 =>
    if fmtBSE f then decide (rksCheck f = none) && decide (recScaleA b ≠ 0 ∧ recScaleB b ≠ 0)
    else decide (rkCheck f = none)
  | 2 =>
    decide (cvtCheck f = none) && (!mapBinary (recFn b) || (decide ((fmtTB f).code.toNat ≤ 11) &&
      !((fmtTB f).isB8 && decide ((fmtTB f).prec = 0))))
  | 3 => decide (redCheck f = none)
  | 4 => if fmtBSE f then decide (bqntCheck f = none) && decide (recScaleB b ≠ 0) else decide (qntCheck f = none)
  | 5 => decide (fmtCheck [fmtTA f, fmtTD f] (decide (fmtTA f = fmtTD f)) false f = none)
  | 6 => decide (fmtCheck [fmtTA f, fmtTD f] (decide (fmtTA f = fmtTD f)) false f = none)
  | 7 => decide (redCheck f = none)
  | 8 => decide (redCheck f = none)
  | _ => true

/-- K as the opcode uses it; a code that the table does not list for a TMAP or TRED is none it may have (log 69). -/
def recKOk (b : List Byte) : Bool :=
  match recOp b with
  | 1 => decide (recK b ≠ 0)
  | 2 => mapFn (recFn b) && decide (recK b < 256)
  | 3 => decide (recFn b ≤ 3)
  | 6 => decide (recK b ≠ 0)
  | 7 => decide (recK b ≠ 0)
  | 8 => decide (1 ≤ recK b ∧ recK b ≤ 64)
  | _ => true

/-- A reference is well formed at its level: space accepted, and no layout 11 unless a cluster director made the record;
an unused one is zero. -/
def refOk (used core staged : Bool) (spaces : List Nat) (n : Nat) : Bool :=
  if used then (if core then spaces.contains (refOfNat n).space else decide ((refOfNat n).space = 3)) &&
    (staged || decide ((refOfNat n).layout ≠ 3))
  else decide (n = 0)

/-- A record decodes at a level (R295): `core` for the spaces a core accepts, `issued` for a record read by TEXEC or
TISSUE, `staged` for a core record that a cluster director made. -/
def tileOk (core issued staged : Bool) (b : List Byte) : Bool :=
  let op := recOp b
  let f := recFmt b
  let (ua, ub, uc) := recUses b
  decide (1 ≤ op ∧ op ≤ 9) && (!issued || (!recFlag b 0 && !recFlag b 1)) && !recFlag b 7 && decide (recAct b ≠ 3) &&
    decide (byteAt b 53 = 0) && fmtOk f && decide ((fmtRc f).rnd ≠ 5) &&
    (if op = 9 then decide (recM b = 0 ∧ recN b = 0 ∧ recK b = 0) else decide (recM b ≠ 0 ∧ recN b ≠ 0)) &&
    recKOk b && recTypesOk b && !(decide (op = 1 ∧ recAct b = 2) && isI32 (fmtTD f)) &&
    refOk ua core staged [0, 3] (fieldAt b 20 8) && refOk ub core staged [1, 3] (fieldAt b 28 8) &&
    refOk uc core staged [0, 2, 3] (fieldAt b 36 8)

/-! ### Sub-tiles and cluster blocks (R304) -/

def ceilDiv (a b : Nat) : Nat := (a + b - 1) / b
/-- The part of an output that a record covers: first row, rows, columns. -/
structure OutPart where
  r0 : Nat
  rows : Nat
  cols : Nat
  deriving DecidableEq, Repr

/-- The whole output of a record. -/
def recWhole (b : List Byte) : OutPart := let (m, n) := recOut b; ⟨0, m, n⟩
/-- Cluster blocks of a part: down, across. -/
def OutPart.blocks (o : OutPart) : Nat × Nat := (ceilDiv o.rows 256, ceilDiv o.cols 128)
/-- First row and column of a cluster block, blocks counted by (p, q). -/
def OutPart.origin (o : OutPart) (k : Nat) : Nat × Nat := (o.r0 + k / o.blocks.2 * 256, k % o.blocks.2 * 128)

/-- 64-element blocks of the reduced axis of a TRED, and that axis's length. -/
def redLen (b : List Byte) : Nat := if recTRA b then recM b else recN b
def redBlocks (b : List Byte) : Nat := ceilDiv (redLen b) 64
/-- The run of blocks that a core of a row-pair folds (R305, R306): core 2a the lower-numbered half, one more when the count is odd. -/
def redRun (b : List Byte) (c : Nat) : Nat × Nat :=
  let h := (redBlocks b + 1) / 2
  if c % 2 = 0 then (0, h) else (h, redBlocks b)

/-- The sub-tile of core `c` of a tile group in a block: origin, rows and columns, none of them when it lies beyond the part (R304). In
a TRED both cores of a row-pair hold the same result rows, and the second one is at work when its run holds a block (R305). -/
def OutPart.coreTile (o : OutPart) (b : List Byte) (k c : Nat) : Nat × Nat × Nat × Nat :=
  let (r, q) := o.origin k
  let i := r + 64 * (c / 2)
  let m := min 64 (o.r0 + o.rows - i)
  if recOp b = 3 then (i, 0, m, if (redRun b c).1 < (redRun b c).2 then 1 else 0)
  else (i, q + 64 * (c % 2), m, min 64 (o.cols - (q + 64 * (c % 2))))
/-- A core of a tile group has a sub-tile in a block. -/
def OutPart.hasCore (o : OutPart) (b : List Byte) (k c : Nat) : Bool :=
  let (_, _, m, n) := o.coreTile b k c
  decide (m ≠ 0 ∧ n ≠ 0)
/-- Sub-tiles of a whole record run on one core, in increasing index. -/
def recSubtiles (b : List Byte) : Nat := let (m, n) := recOut b; ceilDiv m 64 * ceilDiv n 64
def nthSubtile (b : List Byte) (k : Nat) : Nat × Nat × Nat × Nat :=
  let (m, n) := recOut b
  let w := ceilDiv n 64
  let i := k / w * 64
  let j := k % w * 64
  (i, j, min 64 (m - i), min 64 (n - j))
/-- K-blocks of 64 of TMMA. -/
def recKBlocks (b : List Byte) : Nat := ceilDiv (recK b) 64

/-! ### Reading and writing elements -/

/-- Why a read or write of the tile path stops; `cut`: no route exists to its home die, and whether it has waited its 100 ms
(R387); `denied`: the crossbar does not join the two cores of a forwarding (R16); `integrity`: a line
read does not match its tag (R43). -/
inductive TileErr
  | page (f : PageFault)
  | bounds (a : Nat)
  | decode
  | cut (ended : Bool)
  | denied
  | integrity (detail : BitVec 4) (a : Nat)
  deriving DecidableEq, Repr

/-- Who accesses: context, die, core, extents of the core's group, and the stream engine of that die when one does (R25). -/
structure TileWho where
  ctx : Nat
  core : CoreIx
  env : GEnv
  eng : Option Nat := none
  deriving DecidableEq, Repr

/-- The translation of a range: a stream engine's own, else that of the die's last-level TLB (R358). -/
def State.tileRange (s : State) (w : TileWho) (va : Word) (k : AccKind) (n : Nat) : Except PageFault (List (Nat × Nat)) × State :=
  match w.eng with
  | some e => s.engineRange w.ctx (dieOf w.core) e va k n
  | none => s.translateRange w.ctx (dieOf w.core) none va k n

def tileSpace (n : Nat) : Space :=
  match n with
  | 0 => .xb
  | 1 => .wb
  | 2 => .gb
  | _ => .dm

/-- An access of the tile path finds no route to its home die (R387). -/
def State.tileCut (s : State) (w : TileWho) (a : Nat) : Option Bool :=
  if allDies.all (fun d => s.dieReach (dieOf w.core) d) then none
  else
    match s.walk w.ctx (BitVec.ofNat 64 a) .read with
    | .ok x => s.cut w.core x.pa
    | .error _ => none

/-- Bytes of an operand's space. -/
def State.tileRead (s : State) (w : TileWho) (sp : Nat) (a n : Nat) : Except TileErr (List Byte) × State :=
  if sp = 3 then
    match s.tileCut w a with
    | some e => (.error (.cut e), s)
    | none =>
      match s.tileRange w (BitVec.ofNat 64 a) .read n with
      | (.error f, s) => (.error (.page f), s)
      | (.ok ps, s) =>
        let (bs, s) := s.readPieces ps
        (.ok bs, s)
  else if w.env.extent (tileSpace sp) < a + n then (.error (.bounds a), s)
  else (.ok (((s.core w.core).buf (tileSpace sp)).bytes a n), s)

def State.tileWrite (s : State) (w : TileWho) (sp : Nat) (a : Nat) (bs : List Byte) : Except TileErr Unit × State :=
  if sp = 3 then
    match s.tileCut w a with
    | some e => (.error (.cut e), s)
    | none =>
      match s.tileRange w (BitVec.ofNat 64 a) .write bs.length with
      | (.error f, s) => (.error (.page f), s)
      | (.ok ps, s) => (.ok (), s.writePieces ps bs)
  else if w.env.extent (tileSpace sp) < a + bs.length then (.error (.bounds a), s)
  else (.ok (), s.modCore w.core (fun k => k.setBuf (tileSpace sp) ((k.buf (tileSpace sp)).store a bs)))

/-- One element, in low-element form. -/
def State.readElem (s : State) (w : TileWho) (r : TRef) (t : Ty) (i j : Nat) : Except TileErr Cell × State :=
  let (a, hi) := r.elem t.width i j
  match s.tileRead w r.space a ((t.width + 7) / 8) with
  | (.error e, s) => (.error e, s)
  | (.ok bs, s) =>
    let v := leNat bs
    (.ok (lowBits t.width (BitVec.ofNat 32 (if hi then v / 16 else v))), s)

/-- Elements in order; the first fault stands. -/
def State.readElems (s : State) (w : TileWho) (r : TRef) (t : Ty) : List (Nat × Nat) → Except TileErr (List Cell) × State
  | [] => (.ok [], s)
  | p :: ps =>
    match s.readElem w r t p.1 p.2 with
    | (.error e, s) => (.error e, s)
    | (.ok c, s) =>
      match State.readElems s w r t ps with
      | (.error e, s) => (.error e, s)
      | (.ok cs, s) => (.ok (c :: cs), s)

/-- One element written; a 4-bit one keeps the other nibble. -/
def State.writeElem (s : State) (w : TileWho) (r : TRef) (t : Ty) (i j : Nat) (c : Cell) : Except TileErr Unit × State :=
  let (a, hi) := r.elem t.width i j
  let v := (lowBits t.width c).toNat
  if t.width = 4 then
    match s.tileRead w r.space a 1 with
    | (.error e, s) => (.error e, s)
    | (.ok bs, s) =>
      let o := leNat bs
      s.tileWrite w r.space a (leBytes 1 (if hi then o % 16 + 16 * v else o / 16 * 16 + v))
  else s.tileWrite w r.space a (leBytes (t.width / 8) v)

def State.writeElems (s : State) (w : TileWho) (r : TRef) (t : Ty) : List ((Nat × Nat) × Cell) → Except TileErr Unit × State
  | [] => (.ok (), s)
  | p :: ps =>
    match s.writeElem w r t p.1.1 p.1.2 p.2 with
    | (.error e, s) => (.error e, s)
    | (.ok _, s) => State.writeElems s w r t ps

/-- The places of a rectangle, row by row. -/
def rect (i j m n : Nat) : List (Nat × Nat) := (List.range m).flatMap (fun r => (List.range n).map (fun c => (i + r, j + c)))

/-- Elements of a row packed into 256 bytes, and read back (R308). -/
def packRow (t : Ty) (cs : List Cell) : List Byte :=
  leBytes 256 (cs.zipIdx.foldl (fun a p => a + (lowBits t.width p.1).toNat * 2 ^ (t.width * p.2)) 0)
def unpackRow (t : Ty) (n : Nat) (bs : List Byte) : List Cell :=
  let v := leNat bs
  (List.range n).map (fun y => lowBits t.width (BitVec.ofNat 32 (v / 2 ^ (t.width * y))))

/-- A place under the transposed flag. -/
def swapIf (t : Bool) (p : Nat × Nat) : Nat × Nat := if t then (p.2, p.1) else p

/-! ### Scale blocks (R293) -/

/-- A side's scale and zero point. -/
structure TScale where
  sigma : Cell
  z : BitVec 16
  base : Nat
  deriving DecidableEq, Repr

/-- The head of a scale block; without one the scale is 1 and the zero point 0. -/
def State.readScale (s : State) (w : TileWho) (r : TRef) (off : Nat) (t : Ty) : Except TileErr TScale × State :=
  if off = 0 then (.ok ⟨fpOne, 0, 0⟩, s)
  else
    let a := r.base + 64 * off
    match s.tileRead w r.space a 64 with
    | (.error e, s) => (.error e, s)
    | (.ok bs, s) =>
      let z : BitVec 16 := BitVec.ofNat 16 (fieldAt bs 4 2)
      if (z ≠ 0 ∧ !t.isInt) ∨ !zeroBytes bs 6 58 then (.error .decode, s)
      else (.ok ⟨BitVec.ofNat 32 (fieldAt bs 0 4), z, a⟩, s)

/-- The E8 codes of block `kb` for elements from `i`, as many as `n` (the rest 0). -/
def State.readCodes (s : State) (w : TileWho) (sp base per i kb : Nat) : Nat → Except TileErr (List Byte) × State
  | 0 => (.ok [], s)
  | n + 1 =>
    match s.tileRead w sp (base + 64 + i * per + kb) 1 with
    | (.error e, s) => (.error e, s)
    | (.ok bs, s) =>
      match State.readCodes s w sp base per (i + 1) kb n with
      | (.error e, s) => (.error e, s)
      | (.ok cs, s) => (.ok (bs ++ cs), s)

def codesVec (l : List Byte) : Vector Byte 64 := Vector.ofFn (fun i => l.getD i.val 0)

/-! ### Entries of TMMA (Table 14.3, R309) -/

/-- The type in which a side's elements are staged: INT16 under BSE with a zero point. -/
def stagedTy (bse : Bool) (z : BitVec 16) (t : Ty) : Ty := if bse && decide (z ≠ 0) then ⟨10, 0, false⟩ else t

/-- Elements as staged: q - z in INT16 where the type changes. -/
def stagedElem (bse : Bool) (z : BitVec 16) (t : Ty) (c : Cell) : Cell :=
  if bse && decide (z ≠ 0) then intCode 16 ((t.val c).dy.1 - z.toInt) else c

/-- A zero point for which some q - z leaves INT16 (R309). -/
def zeroOut (bse : Bool) (z : BitVec 16) (t : Ty) : Bool :=
  bse && decide (z ≠ 0) && (decide (t.lo - z.toInt < -32768) || decide (32767 < t.hi - z.toInt))

/-- The entries that one step pops of a side: `n` elements for each of 64 cells, packed in order. -/
def stepEntries (t : Ty) (k : Nat) (get : Nat → Nat → Cell) : List Row :=
  let per := t.perCell
  (List.range (ceilDiv k per)).map (fun e => Vector.ofFn (fun i =>
    (List.range per).foldl (fun acc x =>
      if e * per + x < k then acc ||| (lowBits t.width (get i.val (e * per + x)) <<< (t.width * x)) else acc) 0))

/-- The step length of a record, of its original pair (R296, R309). -/
def recStep (b : List Byte) : Nat := stepLen (fmtTA (recFmt b)) (fmtTB (recFmt b))
/-- Steps of K-block `kb`. -/
def recSteps (b : List Byte) (kb : Nat) : Nat := ceilDiv (min 64 (recK b - 64 * kb)) (recStep b)

/-- Elements of A rows of a sub-tile for one K-block, missing terms zero; `n` of them along K. -/
def State.readA (s : State) (w : TileWho) (b : List Byte) (i0 m kb : Nat) : Except TileErr (List Cell) × State :=
  s.readElems w (recRefA b) (fmtTA (recFmt b))
    ((rect i0 (64 * kb) m (min 64 (recK b - 64 * kb))).map (swapIf (recTRA b)))
/-- Elements of B columns, by column. -/
def State.readB (s : State) (w : TileWho) (b : List Byte) (j0 n kb : Nat) : Except TileErr (List Cell) × State :=
  s.readElems w (recRefB b) (fmtTB (recFmt b))
    ((rect j0 (64 * kb) n (min 64 (recK b - 64 * kb))).map (fun p => swapIf (recTRB b) (p.2, p.1)))

/-- The 256-byte entries of one K-block of a side, in pop order. -/
def blockEntries (b : List Byte) (t t' : Ty) (bse : Bool) (z : BitVec 16) (kb m : Nat) (cs : List Cell) : List Row :=
  let n := min 64 (recK b - 64 * kb)
  let k := recStep b
  (List.range (recSteps b kb)).flatMap (fun st =>
    stepEntries t' k (fun i l => if i < m ∧ st * k + l < n then stagedElem bse z t (cs.getD (i * n + st * k + l) 0) else 0))

/-- Entries that a step pops of a side. -/
def stepEnts (b : List Byte) (t : Ty) : Nat := ceilDiv (recStep b) t.perCell

/-- The steps of one K-block applied to the grid: `ea`, `eb` its entries, `ca`, `cb` the codes of its two blocks of 32. -/
def accumulate (b : List Byte) (rows cols kb : Nat) (ta tb : Ty) (za zb : Int) (ea eb : List Row)
    (codes : List (Vector Byte 64 × Vector Byte 64)) (g : Grid) : Grid × Flags :=
  let f := recFmt b
  let k := recStep b
  let na := stepEnts b ta
  let nb := stepEnts b tb
  let n := min 64 (recK b - 64 * kb)
  (List.range (recSteps b kb)).foldl (fun (p : Grid × Flags) st =>
    let w : RkWork :=
      { row0 := 0, rows := rows, cols := cols, ta := ta, tb := tb, td := fmtTD f, rc := fmtRc f
        aEnt := (ea.drop (st * na)).take na, bEnt := (eb.drop (st * nb)).take nb, neg := false, za := za, zb := zb
        scale := if fmtBSE f then some (codes.getD (st * k / 32) (Vector.replicate 64 0, Vector.replicate 64 0)) else none
        gens := [] }
    let (g, fl) := w.applyN (min k (n - st * k)) p.1
    (g, p.2 ||| fl)) (g, 0)

/-- The epilogue of a TMMA cell (R296): scale, activation. -/
def epilogue (b : List Byte) (sa sb : Cell) (c : Cell) : Cell × Flags :=
  let f := recFmt b
  let td := fmtTD f
  let (p, _) := (tyFP32.val sa).mul (tyFP32.val sb)
  let one := match p with
    | .fin n m e => !n && decide ((addDy ((m : Int), e) (-1, 0)).1 = 0)
    | _ => false
  let (c, f1) :=
    if one then (c, (0 : Flags))
    else
      let (v, e) := p.mul (td.val c)
      let (r, e') := deliver td (fmtRc f) 0 v
      (r, e ||| e')
  match recAct b with
  | 1 =>
    if isI32 td then (if c.slt 0 then 0 else c, f1)
    else let (r, g) := fpMinMax true c 0; (r, f1 ||| g)
  | 2 => let (r, g) := specialFn .tanh (fmtRc f) 0 c; (r, f1 ||| g)
  | _ => (c, f1)

/-! ### The other opcodes (Table 13.5, R295) -/

/-- TMAP on the FP32 forms of its sources. -/
def mapCell (fn : Nat) (rc : Rc) (a b : Cell) : Cell × Flags :=
  match fn with
  | 1 => fpAdd rc 0 a b 0
  | 2 => fpSub rc 0 a b 0
  | 3 => fpMul rc 0 a b 0
  | 4 => fpMinMax true a b
  | 5 => fpMinMax false a b
  | 0x10 => specialFn .exp2 rc 0 a
  | 0x11 => specialFn .tanh rc 0 a
  | 0x12 => specialFn .sigm rc 0 a
  | 0x13 => specialFn .rcp rc 0 a
  | 0x14 => specialFn .sqrt rc 0 a
  | _ => (a, 0)

/-- One cell of TMAP: sources to FP32, the function, the result to TD. -/
def tmapCell (b : List Byte) (a c : Cell) : Cell × Flags :=
  let f := recFmt b
  let rc := fmtRc f
  let (x, f1) := conv (fmtTA f) tyFP32 rc 0 a
  let (y, f2) := if mapBinary (recFn b) then conv (fmtTB f) tyFP32 rc 0 c else (0, 0)
  let (v, f3) := mapCell (recFn b) rc x y
  let (r, f4) := conv tyFP32 (fmtTD f) rc 0 v
  (r, f1 ||| f2 ||| f3 ||| f4)

def redOpOf (n : Nat) : RedOp :=
  match n with
  | 0 => .sum
  | 1 => .max
  | 2 => .min
  | _ => .amax

/-- A block of at most 64 elements folded by R143 with g = 1. -/
def foldBlock (int : Bool) (rc : Rc) (op : RedOp) (xs : List Cell) : Option Cell × Flags :=
  let ps := (List.range 64).map (fun i =>
    match xs[i]? with
    | some x => redLane int rc op [x]
    | none => (none, 0))
  let (r, f) := redFold int rc op 6 (ps.map Prod.fst)
  (r, ps.foldl (fun a p => a ||| p.2) f)

/-- One step of a TRED row (R295, R306): a block of 64 folded, then combined with what came before. -/
def tredStep (int : Bool) (rc : Rc) (op : RedOp) (acc : Option Cell) (xs : List Cell) : Option Cell × Flags :=
  let (p, f) := foldBlock int rc op xs
  let (c, h) := redJoin int rc op acc p
  (c, f ||| h)

/-- Slice `p` of a TACR operand. -/
def TRef.slice (r : TRef) (p : Nat) : TRef := { r with base := r.base + p * 2 ^ r.s2 }

/-- A list of reads, the slices of one element in turn. -/
def State.readSlices (s : State) (w : TileWho) (r : TRef) (t : Ty) (i j : Nat) : Nat → Nat → Except TileErr (List Cell) × State
  | 0, _ => (.ok [], s)
  | n + 1, p =>
    match s.readElem w (r.slice p) t i j with
    | (.error e, s) => (.error e, s)
    | (.ok c, s) =>
      match State.readSlices s w r t i j n (p + 1) with
      | (.error e, s) => (.error e, s)
      | (.ok cs, s) => (.ok (c :: cs), s)

/-- One output element of TGATH. -/
def State.gathElem (s : State) (w : TileWho) (b : List Byte) (i j : Nat) : Except TileErr Cell × State :=
  match s.readElem w (recRefB b) tyINT32 i 0 with
  | (.error e, s) => (.error e, s)
  | (.ok x, s) => if recK b ≤ x.toNat then (.ok 0, s) else s.readElem w (recRefA b) (fmtTA (recFmt b)) x.toNat j

/-- The elements of TGATH at a list of places. -/
def State.gathElems (s : State) (w : TileWho) (b : List Byte) : List (Nat × Nat) → Except TileErr (List Cell) × State
  | [] => (.ok [], s)
  | p :: ps =>
    match s.gathElem w b p.1 p.2 with
    | (.error e, s) => (.error e, s)
    | (.ok c, s) =>
      match State.gathElems s w b ps with
      | (.error e, s) => (.error e, s)
      | (.ok cs, s) => (.ok (c :: cs), s)

/-- TQNT of one row of a sub-tile (Table 13.5): VQNT with C's scale block, or under BSE blocks of 32 along the row, their
codes beside them. -/
def tqntRow (b : List Byte) (q : Qs) (xs : List Cell) : List Cell × List Byte × Flags :=
  let f := recFmt b
  let td := fmtTD f
  if fmtBSE f then
    let blocks := (List.range (ceilDiv xs.length 32)).map (fun k => (xs.drop (32 * k)).take 32)
    let r := blocks.map (fun ys =>
      let (code, fl) := blockCode td (ys.map fpv)
      let es := ys.map (fun y => let (v, g) := blockElem td (fmtRc f) 0 code (fpv y); (v, g ||| fpSig y))
      (es.map Prod.fst, code, es.foldl (fun (a : Flags) (e : Cell × Flags) => a ||| e.2) fl))
    (r.flatMap (fun x => x.1), r.map (fun x => x.2.1), r.foldl (fun (a : Flags) (x : List Cell × Byte × Flags) => a ||| x.2.2) 0)
  else
    let es := xs.map (fun x => quantise td (fmtRc f).rnd 0 q (fpv x))
    (es.map Prod.fst, [], es.foldl (fun (a : Flags) (e : Cell × Flags) => a ||| e.2) 0)

/-- One row's codes written to C's scale block. -/
def State.writeCodes (s : State) (w : TileWho) (b : List Byte) (i j0 : Nat) (codes : List Byte) : Except TileErr Unit × State :=
  if codes.isEmpty then (.ok (), s)
  else
    let r := recRefC b
    s.tileWrite w r.space (r.base + 64 * recScaleB b + 64 + i * ceilDiv (recN b) 32 + j0 / 32) codes

/-- A word added in a memory unit (R285): FP32 to nearest even, or INT32; no flag. -/
def addWord (int : Bool) (old v : Cell) : Cell :=
  if int then old + v else (sumRound tyFP32 ⟨0, false⟩ 0 [tyFP32.val old, tyFP32.val v]).1

/-- TSCAT of row `i` of A (Table 13.5): index, then the columns in turn. -/
def State.tscatCols (s : State) (w : TileWho) (b : List Byte) (i x : Nat) : List Nat → Except TileErr Unit × State
  | [] => (.ok (), s)
  | j :: js =>
    let ta := fmtTA (recFmt b)
    match s.readElem w (recRefA b) ta i j with
    | (.error e, s) => (.error e, s)
    | (.ok v, s) =>
      match s.readElem w (recRefC b) ta x j with
      | (.error e, s) => (.error e, s)
      | (.ok o, s) =>
        match s.writeElem w (recRefC b) ta x j (addWord (isI32 ta) o v) with
        | (.error e, s) => (.error e, s)
        | (.ok _, s) => State.tscatCols s w b i x js

/-- TSCAT rows whose target lies in the rows [r0, r0 + m) of C, in increasing i. -/
def State.tscatRows (s : State) (w : TileWho) (b : List Byte) (r0 m : Nat) (cols : List Nat) : List Nat → Except TileErr Unit × State
  | [] => (.ok (), s)
  | i :: is =>
    match s.readElem w (recRefB b) tyINT32 i 0 with
    | (.error e, s) => (.error e, s)
    | (.ok x, s) =>
      if r0 ≤ x.toNat ∧ x.toNat < r0 + m then
        match s.tscatCols w b i x.toNat cols with
        | (.error e, s) => (.error e, s)
        | (.ok _, s) => State.tscatRows s w b r0 m cols is
      else State.tscatRows s w b r0 m cols is

end Sys2Proof.Machine
end

