-- ==== Sys2Proof/Machine/Engine.lean ====
section
/-! DEFINITION. C slots (R277 to R299): the checks at issue and the operation each puts into an engine queue, the signal
stage, the sequencer or a director. What the engines then do stands in EngineRun. -/

namespace Sys2Proof.Machine

/-! ### Shared checks -/

/-- Bytes of XB as they stand once the gate has committed (R277). -/
def State.peekXb (s : State) (a n : Nat) : List Byte :=
  (List.range n).map (fun i => (heldByte s.me.rs.gate .xb (a + i)).getD (s.me.xb.read (a + i)))

/-- A check that fails at issue: a trap with its address, or the non-canonical page fault. -/
inductive CFault
  | trap (cause : BitVec 9) (a : Word)
  | page (a : Word) (k : AccKind) (n : Nat)
  deriving DecidableEq, Repr

/-- The first check that fails. -/
def firstFault : List (Option CFault) → Option CFault
  | [] => none
  | some f :: _ => some f
  | none :: l => firstFault l

/-- The checks of a buffer range (R205, R277). -/
def State.cBuf (s : State) (sp : Space) (a : Word) (n align : Nat) : Option CFault :=
  (s.bufFault sp a n align).map (fun c => .trap c a)
/-- The alignment of a device address. -/
def cAlign (a : Word) (align : Nat) : Option CFault := if a.toNat % align ≠ 0 then some (.trap 0x060 a) else none
/-- Bits [63:52] of a device address (R277). -/
def cCanon (a : Word) (k : AccKind) (n : Nat) : Option CFault :=
  if a.toNat / 2 ^ 52 ≠ 0 then some (.page a k (min n 256)) else none

/-- A C slot (R277, R299): operand values, the block's fields when the block can be read, the feature mask, the timed
region, then the ranges and addresses; the operation is irrevocable. -/
def State.cSlot (s : State) (valuesOk : Bool) (masked : Bool) (block : Option CFault) (blockOk : Bool)
    (faults : List (Option CFault)) (act : State → State) : State :=
  if !valuesOk || (block.isNone && !blockOk) then s.illegal .reservedField
  else if masked then s.illegal .featureMasked
  else if s.me.timed then s.timing 8
  else
    match firstFault (block :: faults) with
    | some (.trap c a) => s.raise c a
    | some (.page a k n) => s.pageFault ⟨a, 0x04, k, 0, 0, n⟩
    | none => s.irrevocable act

/-- An engine queue of a core: 0 to 3 copy, 4 stream, 5 scatter (R291). -/
def Core.engQ (k : Core) (q : Nat) : List EngEntry := (k.eng[q]?).getD []
def Core.setEngQ (k : Core) (q : Nat) (l : List EngEntry) : Core :=
  if h : q < 6 then { k with eng := k.eng.set q l h } else k

/-- A slot on the bytes of its block of XB, which are read once no outstanding transfer, of an earlier packet or of its own, writes them
(R150, R217). -/
def State.onBlock (s : State) (a : Word) (n : Nat) (f : List Byte → State) : State :=
  let own := s.ownXfer .xb a.toNat n false
  if (s.cBuf .xb a n n).isNone && !s.me.timed && (s.me.xferBusy .xb a.toNat n false || own) then
    s.irrevocable (fun s => if own then s.holdOwn else s.hold .transfer)
  else f (s.peekXb a.toNat n)

/-- An operation enters a queue of at most 16 (R278); one with a buffer endpoint waits for an outstanding transfer that
it meets (R217). -/
def State.enqueue (s : State) (q : Nat) (op : EngOp) : State :=
  if op.ranges.any (fun r => s.me.xferBusy r.1 r.2.1 r.2.2.1 r.2.2.2) then s.hold .transfer
  else if 16 ≤ (s.me.engQ q).length then s.hold (.engineQueue (BitVec.ofNat 3 q))
  else s.modMe (fun k =>
    let e : EngEntry := { fwd := k.rs.fwd, op := op, started := false, prog := 0, skipped := 0, faulted := none, buf := [], ahead := [], order := k.order }
    { k.setEngQ q (k.engQ q ++ [e]) with order := k.order + 1 })

/-! ### Copies (R281 to R283) -/

/-- The endpoint of a copy of this core. -/
def endPt (sp : BitVec 2) (a : Word) : EndPt := { space := spaceOf sp, peer := none, addr := a }

/-- The checks of one row of an endpoint. -/
def State.endFaults (s : State) (sp : BitVec 2) (a : Word) (len : Nat) : List (Option CFault) :=
  if spaceOf sp = .dm then [cAlign a 4] else [s.cBuf (spaceOf sp) a len 4]
def endCanon (sp : BitVec 2) (a : Word) (k : AccKind) (len : Nat) : Option CFault :=
  if spaceOf sp = .dm then cCanon a k len else none

/-- A length of CPY and CPYB. -/
def copyLen (n : Word) : Bool := decide (n.toNat % 4 = 0 ∧ n.toNat ≤ 2 ^ 32)

/-- CPY (R281). -/
def execCpy (q : BitVec 2) (a b c : BitVec 5) (l : Bool) (y z : BitVec 2) (s : State) : Host.Outcome State Fault Refusal :=
  let dst := s.rx a
  let src := s.rx b
  let n := s.opC c l
  .next (s.cSlot (copyLen n) false none true
    (s.endFaults y dst n.toNat ++ s.endFaults z src n.toNat ++ [endCanon y dst .write n.toNat, endCanon z src .read n.toNat])
    (fun s => s.enqueue q.toNat (.copy (endPt y dst) (endPt z src) 1 n.toNat 0 0)))

/-- The shape block of CPY2D (Table 13.1). -/
def shapeOk (b : List Byte) : Bool :=
  let len := fieldAt b 0 4
  let rows := fieldAt b 4 4
  decide (len % 4 = 0 ∧ 4 ≤ len ∧ len ≤ 65536 ∧ 1 ≤ rows ∧ rows ≤ 65536 ∧ fieldAt b 8 8 % 4 = 0 ∧ fieldAt b 16 8 % 4 = 0) &&
    zeroBytes b 24 8

/-- CPY2D (R282): every row of a buffer endpoint is checked. -/
def execCpy2d (q : BitVec 2) (a b c : BitVec 5) (l : Bool) (y z : BitVec 2) (s : State) : Host.Outcome State Fault Refusal :=
  let dst := s.rx a
  let src := s.rx b
  let blk := s.opC c l
  let row (a st : Word) (r : Nat) : Word := a + BitVec.ofNat 64 r * st
  .next (s.onBlock blk 32 (fun bs =>
  let len := fieldAt bs 0 4
  let rows := if shapeOk bs then fieldAt bs 4 4 else 0
  let ss : Word := BitVec.ofNat 64 (fieldAt bs 8 8)
  let ds : Word := BitVec.ofNat 64 (fieldAt bs 16 8)
  s.cSlot true false (s.cBuf .xb blk 32 32) (shapeOk bs)
    ((List.range rows).flatMap (fun r => s.endFaults y (row dst ds r) len) ++
      (List.range rows).flatMap (fun r => s.endFaults z (row src ss r) len) ++
      (List.range rows).map (fun r => endCanon y (row dst ds r) .write len) ++
      (List.range rows).map (fun r => endCanon z (row src ss r) .read len))
    (fun s => s.enqueue q.toNat (.copy (endPt y dst) (endPt z src) rows len ds ss))))

/-- CPYB (R283): into a buffer of a peer of the cluster. -/
def execCpyb (q : BitVec 2) (a b c : BitVec 5) (l : Bool) (y z : BitVec 2) (s : State) : Host.Outcome State Fault Refusal :=
  let d := s.rx a
  let src := s.rx b
  let n := s.opC c l
  let peer := d.extractLsb' 24 3
  let dst : Word := (d.extractLsb' 0 21).setWidth 64
  let target := coreIn (clusterOf s.cur) peer
  .next (s.cSlot (copyLen n && decide (d.extractLsb' 27 37 = 0 ∧ d.extractLsb' 21 3 = 0 ∧ peer ≠ inCluster s.cur)) false none true
    (s.endFaults y dst n.toNat ++ s.endFaults z src n.toNat ++
      [if s.joined s.cur target then none else some (.trap 0x0A0 (peer.setWidth 64))])
    (fun s => s.enqueue q.toNat (.copy { endPt y dst with peer := some target } (endPt z src) 1 n.toNat 0 0)))

/-! ### Stream and scatter (R284 to R288) -/

/-- The parameter block of STRM (Table 13.2). -/
def strmOk (b : List Byte) : Bool :=
  let rb := fieldAt b 4 4
  let n := fieldAt b 32 4
  decide ((byteAt b 0).toNat ≤ 3 ∧ (byteAt b 1).toNat ≤ 1 ∧ rb % 4 = 0 ∧ 4 ≤ rb ∧ rb ≤ 65536 ∧ fieldAt b 24 8 % 4 = 0 ∧
    1 ≤ n ∧ n ≤ 16777216 ∧ 1 ≤ fieldAt b 36 4) && zeroBytes b 2 2 && zeroBytes b 56 8

/-- A word of a block. -/
def wordAt (b : List Byte) (i : Nat) : Word := BitVec.ofNat 64 (fieldAt b i 8)
/-- The index width of a STRM block in bytes. -/
def strmWidth (b : List Byte) : Nat := if byteAt b 1 = 0 then 4 else 8

/-- STRM (R284). -/
def execStrm (a : BitVec 5) (s : State) : Host.Outcome State Fault Refusal :=
  let blk := s.rx a
  .next (s.onBlock blk 64 (fun b =>
  let rb := fieldAt b 4 4
  s.cSlot true (s.masked 1) (s.cBuf .xb blk 64 64) (strmOk b)
    [cAlign (wordAt b 8) (strmWidth b), cAlign (wordAt b 16) 4, cAlign (wordAt b 40) 4, cAlign (wordAt b 48) 8,
      cCanon (wordAt b 8) .read (strmWidth b), cCanon (wordAt b 16) (if byteAt b 0 = 0 then .read else .write) rb,
      cCanon (wordAt b 40) (if byteAt b 0 = 0 then .write else .read) rb, cCanon (wordAt b 48) .write 8]
    (fun s => s.enqueue 4 (.stream b))))

/-- SCTR (R286). -/
def execSctr (a b c : BitVec 5) (l : Bool) (s : State) : Host.Outcome State Fault Refusal :=
  let list := s.rx a
  let n := (s.rx b).toNat
  let base := s.opC c l
  .next (s.cSlot (decide (1 ≤ n ∧ n ≤ 4096)) (s.masked 2) none true
    [s.cBuf .xb list (8 * n) 8, cCanon base .write 4]
    (fun s => s.enqueue 5 (.scatter list n base)))

/-- The descriptor of RRED. -/
def rredOk (d : Word) : Bool :=
  let n := (d.extractLsb' 0 13).toNat
  let t := (d.extractLsb' 28 2).toNat
  decide (1 ≤ n ∧ n ≤ 4096 ∧ t ≤ 1 ∧ d.extractLsb' 13 15 = 0 ∧ d.extractLsb' 32 32 = 0) && !(d.getLsbD 31 && decide (t = 1))

/-- RRED (R287): the mask is the access engine's k0 at issue. -/
def execRred (a b c : BitVec 5) (l : Bool) (s : State) : Host.Outcome State Fault Refusal :=
  let src := s.rx a
  let dest := s.rx b
  let d := s.opC c l
  let n := (d.extractLsb' 0 13).toNat
  let sc := d.getLsbD 31
  .next (s.cSlot (rredOk d) (s.masked 2) none true
    [s.cBuf .xb src (4 * n + (if sc then 4 * ((n + 63) / 64) else 0)) 4, cAlign dest 4,
      if dest.toNat / 16384 ≠ (dest.toNat + 4 * n - 1) / 16384 then some (.trap 0x060 dest) else none, cCanon dest .write 4]
    (fun s => s.enqueue 5 (.rred src dest n (d.getLsbD 28) sc (if d.getLsbD 30 then some (s.me.rk 0) else none))))

/-- QPUSH (R288): the entry is read at issue. -/
def execQpush (a b : BitVec 5) (s : State) : Host.Outcome State Fault Refusal :=
  let blk := s.rx a
  let q := s.rx b
  .next (s.onBlock blk 64 (fun e => s.cSlot true false (s.cBuf .xb blk 64 64) true [] (fun s => s.enqueue 5 (.qpush e q))))

/-! ### Signals, waits and fences (R289 to R292) -/

/-- FSIG (R289): it enters the signal stage, of at most 16. -/
def execFsig (a c : BitVec 5) (l : Bool) (sc : BitVec 3) (s : State) : Host.Outcome State Fault Refusal :=
  let n := s.rx a
  let v := s.opC c l
  .next (s.cSlot (decide (n.toNat ≤ 255)) (s.scopeMasked sc) none true [] (fun s =>
    if 16 ≤ s.me.sigs.length then s.hold (.engineQueue 6)
    else s.modMe (fun k =>
      { k with sigs := k.sigs ++ [{ n := n.setWidth 8, v := v, scope := sc, order := k.order }], order := k.order + 1 })))

/-- CWAIT (R290). -/
def execCwait (q : BitVec 2) (a c : BitVec 5) (l : Bool) (sc : BitVec 3) (s : State) : Host.Outcome State Fault Refusal :=
  let n := s.rx a
  let t := s.opC c l
  .next (s.cSlot (decide (n.toNat ≤ 255)) (s.scopeMasked sc) none true [] (fun s => s.enqueue q.toNat (.cwait (n.setWidth 8) t)))

/-- The named queues are empty (R291). -/
def Core.queuesDone (k : Core) (m : BitVec 6) : Bool := (List.range 6).all (fun q => !m.getLsbD q || (k.engQ q).isEmpty)

/-- QFENCE (R291): the core waits until every operation of the named queues has performed. -/
def execQfence (m : BitVec 6) (s : State) : Host.Outcome State Fault Refusal :=
  .next (s.cSlot true false none true [] (fun s => if s.me.queuesDone m then s else s.hold (.qfence m)))

/-- WFENCE (R292): the core waits until every earlier device-memory write has performed. -/
def execWfence (s : State) : Host.Outcome State Fault Refusal :=
  .next (s.cSlot true (s.masked 5) none true [] (fun s => if s.me.queuesDone 0x3F then s else s.hold .wfence))

/-! ### Tile records (R297, R298) -/

/-- TEXEC and TISSUE: the record's checks, after those of every C slot; a TACR under fmask[3] fails decoding (R177, R295; log 109). -/
def State.tileSlot (s : State) (masked core : Bool) (a : Word) (act : List Byte → State → State) : State :=
  s.onBlock a 64 (fun b =>
    let ok := tileOk core true false b && !(decide (byteAt b 0 = 8) && s.masked 3)
    s.cSlot true masked (s.cBuf .xb a 64 64) true [if ok then none else some (.trap 0x120 a)] (act b))

/-- A TSYNC that the core issued has not completed, so that later records wait (R295). -/
def State.syncPending (s : State) (c : CoreIx) : Bool :=
  s.tiles.any (fun t => (s.core c).tissued.contains t.id && decide (byteAt t.bytes 0 = 9))

/-- Every earlier packet has retired, and every earlier operation of the core's queues has performed (R297); a TSYNC starts once
every record that the core issued before has completed, and no record starts before an earlier TSYNC has (R295). -/
def State.texecReady (s : State) (rec : List Byte) : Bool :=
  !s.me.gridBusy && s.me.queuesDone 0x3F && (decide (byteAt rec 0 ≠ 9) || s.me.tissued.isEmpty) && !s.syncPending s.cur

/-- The macro sequencer before its first step. -/
def Seqr.start (b : List Byte) (parent : Option Nat) : Seqr :=
  { bytes := b, parent := parent, phase := 0, sub := 0, kblk := 0, ready := false, fault := none, flags := 0, fwd := 0, sync := false }

/-- TEXEC (R297): the record goes to the macro sequencer; the next packet takes the implicit mark and waits there. -/
def execTexec (a : BitVec 5) (s : State) : Host.Outcome State Fault Refusal :=
  .next (s.tileSlot false true (s.rx a) (fun b s =>
    if s.texecReady b then
      s.modMe (fun k => { k with seqr := some (Seqr.start b none) })
    else s.hold .texec))

/-- The level path of a core (Table 13.3). -/
def corePath (c : CoreIx) : Nat := 0 * 8192 + (dieOf c).toNat * 2048 + (clusterOf c).toNat % 16 * 128 + (inCluster c).toNat * 16

/-- TISSUE (R298): level path, tag and sequence, of which the first is 1 (R439), are written, and the record waits at the named director. -/
def execTissue (a : BitVec 5) (d : BitVec 2) (s : State) : Host.Outcome State Fault Refusal :=
  .next (s.tileSlot (decide (d = 3) && s.masked 4) false (s.rx a) (fun b s =>
    if 8 ≤ s.me.tissued.length then s.hold .tissue
    else
      let n := s.ctxOf s.cur
      let sq := (s.ctx n).tissues + 1
      let b := setBytes (setBytes (setBytes b 2 (leBytes 2 (corePath s.cur))) 56 (leBytes 2 (s.tagOf n).toNat)) 58 (leBytes 6 sq.toNat)
      let lv : Level := match d.toNat with
        | 1 => .cluster (clusterOf s.cur)
        | 2 => .die (dieOf s.cur)
        | _ => .package
      let id := s.tileCount + 1
      let t := TileNode.fresh id lv n (.tissue n (s.me.grp.getD 0) s.cur s.slot.bunAddr) b 0
      let s := s.modCtx n (fun c => { c with tissues := sq })
      ({ s with tiles := s.tiles ++ [t], tileCount := id } : State).modMe (fun k => { k with tissued := k.tissued ++ [id] })))

end Sys2Proof.Machine
end

