-- ==== Sys2Proof/Machine/Fetch.lean ====
section
/-! DEFINITION. Fetching a packet (R147 to R152, R84, R85, R318): its bundles and where it ends, or why it cannot issue. -/

namespace Sys2Proof.Machine

/-- A packet as fetched: its bundles with their addresses, and the address after it. -/
structure Packet where
  bundles : List (Word × RawBundle)
  next : Word
  deriving DecidableEq, Repr

/-- The sealed page of a context at an address that is not verified (R85). -/
def State.unverified (s : State) (ctx : Nat) (va : Word) : Bool :=
  (s.ctx ctx).kernels.toList.any (fun k => k.pages.any (fun p => decide (p.va.toNat / 65536 = va.toNat / 65536) && !p.verified))

/-- A sealed page whose entry is found not valid is unverified from then on (R85). -/
def State.unverify (s : State) (ctx : Nat) (va : Word) : State :=
  if (s.ctx ctx).kernels.toList.any (fun k => k.pages.any (fun p => decide (p.va.toNat / 65536 = va.toNat / 65536) && p.verified)) then
    s.modCtx ctx (fun c => { c with kernels := c.kernels.map (fun k => { k with pages := k.pages.map (fun p =>
      if p.va.toNat / 65536 = va.toNat / 65536 then { p with verified := false } else p) }) })
  else s

/-- A bundle whose header has bits [15:8] set: it is not read further (R148). -/
def badBundle (h : BitVec 16) : RawBundle := { hdr := h, words := [], lit := none }

/-- A precise stop of the packet at `pc` (R151): cause, value, bundle. -/
def State.fetchTrap (s : State) (c : CoreIx) (cause : BitVec 9) (v bun : Word) : SlotOut :=
  .trap ⟨cause, v, (s.core c).ctl.pc, bun⟩

/-- A line of the range locked for a timed region (R318). -/
def Region.locks (r : Region) (a n : Nat) : Bool :=
  (linesOf a n).all (fun l => decide (r.lockLo.toNat < 64 * l + 64 ∧ 64 * l < r.lockHi.toNat))

/-- A line of the instruction cache of a core. -/
def Core.cached (k : Core) (tag : Tag) (l : Nat) : Option (List Byte) :=
  (k.icache.find? (fun i => decide (i.tag = tag ∧ i.line = l))).map (fun i => i.data)

/-- The 64 bytes of one fetch line, of which the fetch needs those from `a` on (R152): a line locked for a timed region is served
by the cache (R318); any other is translated, its page's hash awaited (R85), and brought into the cache. A fault is reported at the
bundle's start. -/
def State.fetchLine (s : State) (c : CoreIx) (bun a : Word) (n : Nat) : Except SlotOut (List Byte) × State :=
  let ctx := s.ctxOf c
  let tag := s.tagOf ctx
  let l := a.toNat / 64
  match if (s.core c).timed || (s.core c).ctl.csyncAt.isSome then (s.core c).cached tag l else none with
  | some bs => (.ok bs, s)
  | none =>
    match s.translate ctx (dieOf c) (some c) a .fetch n with
    | (.error f, s) => (.error (.fault { f with va := bun }), if f.detail = 0x01 then s.unverify ctx a else s)
    | (.ok pa, s) =>
      if s.unverified ctx a then (.error (.hold (.hash a bun)), s)
      else
        let (bs, s) := s.getMem (pa / 64 * 64) 64
        (.ok bs, s.modCore c (fun k =>
          { k with icache := ({ tag := tag, line := l, data := bs } :: k.icache.filter (fun i => decide (¬(i.tag = tag ∧ i.line = l)))).take 512 }))

/-- Whole lines, in order, from the one that holds `a`, for the bundle at `bun`. -/
def State.fetchLines (s : State) (c : CoreIx) (bun : Word) (n : Nat) : Nat → Word → Except SlotOut (List Byte) × State
  | 0, _ => (.ok [], s)
  | k + 1, a =>
    match s.fetchLine c bun a n with
    | (.error o, s) => (.error o, s)
    | (.ok bs, s) =>
      match State.fetchLines s c bun n k (BitVec.ofNat 64 ((a.toNat / 64 + 1) * 64)) with
      | (.error o, s) => (.error o, s)
      | (.ok r, s) => (.ok (bs ++ r), s)

/-- `n` instruction bytes at an address of the core's code (R152): the code range (R80), the lines locked for a timed
region, then the lines. -/
def State.fetchBytes (s : State) (c : CoreIx) (a : Word) (n : Nat) : Except SlotOut (List Byte) × State :=
  let e := s.env c
  if a.toNat < e.codeVa.toNat ∨ e.codeVa.toNat + e.codeLen < a.toNat + n then
    (.error (s.fetchTrap c 0x071 (s.core c).ctl.pc (s.core c).ctl.pc), s)
  else if (s.core c).timed ∧ !(s.core c).region.locks a.toNat n then
    (.error (s.fetchTrap c 0x0BB (BitVec.ofNat 64 (s.regionCycle c)) a), s)
  else
    match s.fetchLines c a n (linesOf a.toNat n).length a with
    | (.error o, s) => (.error o, s)
    | (.ok bs, s) => (.ok ((bs.drop (a.toNat % 64)).take n), s)

/-- One bundle (R147): its header, then the rest. -/
def State.fetchBundle (s : State) (c : CoreIx) (a : Word) : Except SlotOut RawBundle × State :=
  match s.fetchBytes c a 2 with
  | (.error o, s) => (.error o, s)
  | (.ok hb, s) =>
    let h := headerOf hb
    if h.extractLsb' 8 8 ≠ 0 then (.ok (badBundle h), s)
    else if bundleLen h = 2 then (.ok (readBundle hb), s)
    else
      match s.fetchBytes c a (bundleLen h) with
      | (.error o, s) => (.error o, s)
      | (.ok bs, s) => (.ok (readBundle bs), s)

/-- The packet at the core's pc: one bundle, or two when the first does not stop (R149). A fetch trap or fault is
reported at the start of the bundle it lies in. -/
def State.fetchPacket (s : State) (c : CoreIx) : Except (SlotOut × Word) Packet × State :=
  let pc := (s.core c).ctl.pc
  match s.fetchBundle c pc with
  | (.error o, s) => (.error (o, pc), s)
  | (.ok b, s) =>
    let p2 := pc + BitVec.ofNat 64 (bundleLen b.hdr)
    if b.stop || !b.legal then (.ok { bundles := [(pc, b)], next := p2 }, s)
    else
      match s.fetchBundle c p2 with
      | (.error o, s) => (.error (o, p2), s)
      | (.ok b2, s) => (.ok { bundles := [(pc, b), (p2, b2)], next := p2 + BitVec.ofNat 64 (bundleLen b2.hdr) }, s)

/-- Slots of a kind in a packet. -/
def Packet.count (p : Packet) (k : SlotKind) : Nat :=
  (p.bundles.map (fun b => (b.2.words.filter (fun w => decide (w.1 = k))).length)).sum

/-- A bundle of the packet has an illegal header (R148). -/
def Packet.badHeader (p : Packet) : Option (Word × BitVec 16) :=
  (p.bundles.find? (fun b => !b.2.legal)).map (fun b => (b.1, b.2.hdr))

/-- The illegal-packet details of R149 in order: unterminated 1, mark position 2, slot limit 3. -/
def Packet.badShape (p : Packet) : Option Nat :=
  match p.bundles with
  | [_, (_, b2)] =>
    if !b2.stop then some 1
    else if b2.rmark then some 2
    else if 1 < p.count .s ∨ 2 < p.count .a ∨ 1 < p.count .m ∨ 2 < p.count .v ∨ 2 < p.count .m + p.count .v ∨ 1 < p.count .c then
      some 3
    else none
  | _ => none

/-- The first bundle carries RMARK. -/
def Packet.marked (p : Packet) : Bool :=
  match p.bundles with
  | (_, b) :: _ => b.rmark
  | [] => false

/-- The cache of a core that waits at a CSYNC holds every line that its region will fetch (R318). -/
def State.linesHeld (s : State) (c : CoreIx) : Bool :=
  let pc := (s.core c).ctl.pc.toNat
  (linesOf pc (s.regionEnd c pc - pc)).all (fun l => ((s.core c).cached (s.tagOf (s.ctxOf c)) l).isSome)

/-- The lines of the region that a CSYNC will open are brought into the cache (R318); a fetch fault goes to system software, an
unverified page is hashed, and the CSYNC is tried again after either. -/
def State.fetchRegion (s : State) (c : CoreIx) : State :=
  let pc := (s.core c).ctl.pc
  match s.fetchLines c pc 64 (linesOf pc.toNat (s.regionEnd c pc.toNat - pc.toNat)).length pc with
  | (.ok _, t) => t
  | (.error (.hold w), t) => t.modCtl c (fun q => { q with wait := some w })
  | (.error (.fault f), t) =>
    let (n, t) := t.coreFault c 1 f pc none
    t.modCtl c (fun q => { q with wait := some (.fault n) })
  | (.error _, t) => t

/-- INSTRUCTION_FETCH (R152, R318): a core that waits at a CSYNC fetches the lines of its region; otherwise the bytes of the packet
at the core's pc are fetched, their lines enter the cache, and a stop is left to the core's next turn. -/
def execInstructionFetch (c : CoreIx) (s : State) : Host.Outcome State Fault Refusal :=
  .next (if (s.core c).ctl.wait = some .csync then s.fetchRegion c else (s.fetchPacket c).2)

end Sys2Proof.Machine
end

