-- ==== Sys2Proof/Machine/CoreEvents.lean ====
section
/-! DEFINITION. Events of the access engine: marks, exposed results, LDG returns, fills, rollback, trap entry, the ends of
waits, timed regions and calender positions. An event whose condition does not hold changes nothing. -/

namespace Sys2Proof.Machine

/-! ### Marks and results -/

/-- The packet at the pc takes a mark already taken there (R107): replay resumes at it. -/
def Core.atMark (k : Core) : Bool :=
  decide (k.rs.shadow.fwd = k.rs.fwd ∧ k.rs.shadow.pc = k.ctl.pc ∧ k.rs.shadow.inTrap = k.ctl.inTrap)

/-- The mark at the pc (R102): the gate commits, the shadow is taken, the log emptied. -/
def State.takeMark (s : State) (c : CoreIx) : State :=
  (s.commitAll c).modCore c (fun k =>
    let k := k.mark k.ctl.pc
    { k with ctl := { k.ctl with markNext := false } })

/-- RESTART_MARK (R102): the mark of the packet at the pc, implicit or by RMARK, once it can be taken; RMARK ends a timed
region first (R319). -/
def execRestartMark (c : CoreIx) (s : State) : Host.Outcome State Fault Refusal :=
  .next (if (s.core c).ctl.st ≠ .run ∧ (s.core c).ctl.st ≠ .replay ∨ !(s.core c).markReady ∨ (s.core c).atMark then s
    else
      match s.fetchPacket c with
      | (.error _, t) => if (s.core c).ctl.markNext then t.takeMark c else s
      | (.ok p, t) =>
        if p.marked then (if (t.core c).timed then t.endRegion c else t).takeMark c
        else if (s.core c).ctl.markNext then t.takeMark c
        else s)

/-- EXPOSED_RESULT_WRITE (R164): every result whose count is reached is written. -/
def execExposedResultWrite (c : CoreIx) (s : State) : Host.Outcome State Fault Refusal :=
  .next (s.modCore c (fun k => k.landDue (s.cyc c)))

/-! ### LDG and fills -/

/-- What a settled read leaves: a fault rolls the core back (R106); with no route to the home the read waits, or ends the group
(R387). -/
def ReadOut.settle (c : CoreIx) : ReadOut → State
  | .done t => t
  | .fault f bun t => t.rollbackFault c f bun
  | .cut ended bun va t => if ended then t.endMine c 0x150 bun va else t

/-- LDG_RETURN (R209, R210): the oldest outstanding LDG returns, once no earlier device read is outstanding. -/
def execLdgReturn (c : CoreIx) (s : State) : Host.Outcome State Fault Refusal :=
  .next (match (s.core c).oldestRead with
    | some (.ldg l) => (s.settleLdg c true l).settle c
    | _ => s)

/-- FILL_SETTLE (R210, R213): the fill of a queue that is the oldest outstanding device read settles. -/
def execFillSettle (c : CoreIx) (q : BitVec 3) (s : State) : Host.Outcome State Fault Refusal :=
  .next (match (s.core c).oldestRead with
    | some (.fill p e) => if p = q then (s.settleFill c true q e).settle c else s
    | _ => s)

/-- FILL_DELIVERY (R212, R213): settled entries whose time has come are present. -/
def execFillDelivery (c : CoreIx) (q : BitVec 3) (s : State) : Host.Outcome State Fault Refusal :=
  .next (s.modQ c q (fun u =>
    { u with entries := u.entries.map (fun e => if e.settled ∧ e.due ≤ (s.cyc c).toNat then { e with present := true } else e) }))

/-- The fault that a device read meets (R106), with its bundle. -/
def State.readFault (s : State) (c : CoreIx) : DevRead → Option (PageFault × Word)
  | .ldg l =>
    match s.translate (s.ctxOf c) (dieOf c) (some c) l.va .read l.w.bytes with
    | (.error f, _) => some (f, l.bun)
    | _ => none
  | .fill _ e =>
    match s.translateRange (s.ctxOf c) (dieOf c) (some c) e.va .read (if e.ff.isSome then 4 else 256) with
    | (.error f, _) => some (f, e.bun)
    | _ => none

/-- The fault that an outstanding LDG or fill meets (R106), with its bundle. -/
def State.pendingFault (s : State) (c : CoreIx) : Option (PageFault × Word) := (s.core c).devReads.findSome? (s.readFault c)

/-- ROLLBACK (R106): an outstanding fill or LDG that faults discards the gate, cancels unsettled fills and restores the
shadow; the fault is recorded and the core waits for its answer. -/
def execRollback (c : CoreIx) (s : State) : Host.Outcome State Fault Refusal :=
  .next (match s.pendingFault c with
    | some (f, b) => s.rollbackFault c f b
    | none => s)

/-- TRAP_ENTRY (R403): a pending precise trap is entered once every earlier fill and LDG has settled and the gate can commit. -/
def execTrapEntry (c : CoreIx) (s : State) : Host.Outcome State Fault Refusal :=
  .next (match (s.core c).ctl.pendTrap with
    | some t => if (s.core c).markReady then s.trapEntry c t else s
    | none => s)

/-! ### Ends of waits -/

/-- A wait of the core ends: its packet is tried again. -/
def State.endWait (s : State) (c : CoreIx) : State := s.modCtl c (fun t => { t with wait := none })

/-- FWAIT_PASS (R201). -/
def execFwaitPass (c : CoreIx) (s : State) : Host.Outcome State Fault Refusal :=
  .next (match (s.core c).ctl.wait with
    | some (.fwait n t) => if t.toNat ≤ ((s.ctx (s.ctxOf c)).counter n).toNat then s.endWait c else s
    | _ => s)

/-- FENCE_DONE (R225). -/
def execFenceDone (c : CoreIx) (s : State) : Host.Outcome State Fault Refusal :=
  .next (if (s.core c).ctl.wait = some .fence ∧ (s.core c).markReady then s.endWait c else s)

/-- BARRIER_RELEASE (R325): the cores that wait at a BARW of a completed phase go on. -/
def execBarrierRelease (gid : Nat) (b : BitVec 4) (s : State) : Host.Outcome State Fault Refusal :=
  .next (match s.group gid with
    | none => s
    | some g => g.cores.zipIdx.foldl (fun s p =>
        if (s.core p.1).ctl.wait = some (.barw b) ∧ g.barPassed p.2 b then s.endWait p.1 else s) s)

/-- QFENCE_DONE (R291). -/
def execQfenceDone (c : CoreIx) (s : State) : Host.Outcome State Fault Refusal :=
  .next (match (s.core c).ctl.wait with
    | some (.qfence m) => if (s.core c).queuesDone m then s.endWait c else s
    | _ => s)

/-- WFENCE_DONE (R292). -/
def execWfenceDone (c : CoreIx) (s : State) : Host.Outcome State Fault Refusal :=
  .next (if (s.core c).ctl.wait = some .wfence ∧ (s.core c).queuesDone 0x3F then s.endWait c else s)

/-- CALENDER_POSITION (R28, R223): at a position that the core owns, the operation that waits for one is tried. -/
def execCalenderPosition (c : CoreIx) (s : State) : Host.Outcome State Fault Refusal :=
  .next (if s.atPosition c && decide ((s.core c).ctl.wait = some .calender) then s.endWait c else s)

/-! ### Timed regions (R317 to R320, R219, R220) -/

/-- The participants of a CSYNC of a core (R317). -/
def State.participants (s : State) (c : CoreIx) : List CoreIx :=
  match (s.core c).grp.bind s.group with
  | none => []
  | some g => g.cores.filter (fun d => decide (clusterOf d = clusterOf c ∧ (s.core d).ctl.st ≠ .exited))

/-- The condition of R278 for a participant: none of its operations that reads or writes its own buffers is unperformed; one
that stands ahead of such an operation is then performed too (R317). -/
def Core.buffersQuiet (k : Core) : Bool := k.eng.toList.all (fun q => q.all (fun e => e.op.ranges.isEmpty))

/-- A change of frequency that waits takes effect (R15). -/
def Cluster.clock (k : Cluster) : Cluster :=
  match k.pendMhz with
  | some m => { k with mhz := m, pendMhz := none }
  | none => k

/-- A participant is ready for its CSYNC to complete: it waits there, no operation holds it (R317), and its instruction cache holds
the lines that the region will fetch (R318). -/
def State.csyncReady (s : State) (c : CoreIx) : Bool :=
  decide ((s.core c).ctl.wait = some .csync) && (s.core c).buffersQuiet && s.linesHeld c

/-- The group of a core is asked to lull. -/
def State.lullAsked (s : State) (c : CoreIx) : Bool := (((s.core c).grp.bind s.group).map (fun g => g.lullReq)).getD false

/-- The CSYNC of a core completes (R317): every participant is ready; all complete in the next cluster cycle. A change of frequency
that waits takes effect, unless a core of another group still stands in a timed region of the cluster (R15). A lull request stops the cores
before it completes (R199). -/
def State.csyncComplete (s : State) (c : CoreIx) : State :=
  let ps := s.participants c
  if (s.core c).ctl.wait = some .csync ∧ (s.core c).ctl.csyncAt = none ∧ ps.all s.csyncReady ∧ !s.lullAsked c then
    let others := ((List.range 8).map (fun i => coreIn (clusterOf c) (BitVec.ofNat 3 i))).filter (fun d => !ps.contains d)
    let s := if others.any (fun d => (s.core d).timed) then s else s.modCluster (clusterOf c) Cluster.clock
    ps.foldl (fun s d => s.modCtl d (fun t => { t with csyncAt := some (s.cyc d + 1) })) s
  else s

/-- CSYNC_COMPLETE (R317). The step itself completes CSYNCs at the end of each cluster cycle. -/
def execCsyncComplete (c : CoreIx) (s : State) : Host.Outcome State Fault Refusal := .next (s.csyncComplete c)

/-- REGION_LIMIT (R319): a core still inside its region at cycle 1,048,576 raises the timing fault at its packet. -/
def execRegionLimit (c : CoreIx) (s : State) : Host.Outcome State Fault Refusal :=
  .next (if (s.core c).timed ∧ 1048576 ≤ s.regionCycle c then
      let pc := (s.core c).ctl.pc
      s.takeTrap c ⟨0x0BC, BitVec.ofNat 64 (s.regionCycle c), pc, pc⟩
    else s)

/-- Two cores stand in the same timed region (R219): of one group, opened by one CSYNC. -/
def State.sameRegion (s : State) (c d : CoreIx) : Bool :=
  decide ((s.core c).grp = (s.core d).grp) && decide ((s.core c).region.start = (s.core d).region.start)

/-- A window `w` of core `c` and a window `v` of its peer match: same region, same T and N, each names the other (R219). -/
def State.winMatch (s : State) (c : CoreIx) (w v : Win) : Bool :=
  s.sameRegion c (coreIn (clusterOf c) w.peer) && decide (w.t = v.t ∧ w.n = v.n ∧ v.peer = inCluster c)

/-- Chunks latched in an earlier cycle of a cluster are written to their receivers (R219). -/
def State.deliverChunks (s : State) (cl : ClusterIx) : State :=
  (List.range 8).foldl (fun s i =>
    let c := coreIn cl (BitVec.ofNat 3 i)
    let now := s.regionCycle c
    let s' := (s.core c).region.sends.foldl (fun s w =>
      match w.latch with
      | some (t, bs) =>
        if t < now then
          let d := coreIn cl w.peer
          match (s.core d).region.recvs.find? (s.winMatch c w) with
          | some v => s.modCore d (fun k => { k with xb := k.xb.store (v.addr + 64 * (t - w.t)) bs })
          | none => s
        else s
      | none => s) s
    s'.modCore c (fun k => { k with region := { k.region with sends := k.region.sends.map (fun w =>
      match w.latch with
      | some (t, _) => if t < now then { w with latch := none } else w
      | none => w) } })) s

/-- The chunk that a core sends in the current cycle is read as it stands at the cycle's start (R219). -/
def State.latchChunks (s : State) (c : CoreIx) : State :=
  let now := s.regionCycle c
  s.modCore c (fun k => { k with region := { k.region with sends := k.region.sends.map (fun w =>
    if w.t ≤ now ∧ now < w.t + w.n then { w with latch := some (now, k.xb.bytes (w.addr + 64 * (now - w.t)) 64) } else w) } })

/-- The windows of the peer that a window names: the RECVs for a SEND, the SENDs for a RECV. -/
def State.peerWins (s : State) (c : CoreIx) (recv : Bool) (w : Win) : List Win :=
  let k := s.core (coreIn (clusterOf c) w.peer)
  if recv then k.region.sends else k.region.recvs
/-- A window of a core has its match. -/
def State.matched (s : State) (c : CoreIx) (recv : Bool) (w : Win) : Bool := (s.peerWins c recv w).any (s.winMatch c w)
/-- The peer's window of the other kind that names this core in the same region and has no match of its own: the two name each
other and differ in T or N (R220; which windows are compared: log 76). -/
def State.misnamed (s : State) (c : CoreIx) (recv : Bool) (w : Win) : Option Win :=
  let d := coreIn (clusterOf c) w.peer
  (s.peerWins c recv w).find? (fun v => decide (v.peer = inCluster c) && s.sameRegion c d && !s.matched d (!recv) v)

/-- The faults of a window that opens now (R220; which windows name each other: log 76): a SEND without its RECV faults the receiver, a RECV without its SEND the
core itself, and two that name each other but differ fault both: the group reports the first, with the other counted (R408). -/
def State.windowFaults (s : State) (c : CoreIx) : State :=
  let now := s.regionCycle c
  let v := BitVec.ofNat 64 now
  let judge (s : State) (recv : Bool) (w : Win) : State :=
    let d := coreIn (clusterOf c) w.peer
    match s.misnamed c recv w with
    | some r =>
      if (s.core c).grp = (s.core d).grp then
        (match (s.core c).grp with
         | some g => s.modGroup g (fun g => { g with faults := g.faults + 1 })
         | none => s).endMine c 0x0B7 w.bundle v
      else (s.endMine c 0x0B7 w.bundle v).endMine d 0x0B7 r.bundle v
    | none => if recv then s.endMine c 0x0B5 w.bundle v else s.endMine d 0x0B6 w.bundle v
  match (s.core c).region.sends.find? (fun w => decide (w.t = now) && !s.matched c false w) with
  | some w => judge s false w
  | none =>
    match (s.core c).region.recvs.find? (fun w => decide (w.t = now) && !s.matched c true w) with
    | some w => judge s true w
    | none => s

/-- CHUNK_TRANSFER (R219, R220): the chunks of the cluster's last cycle land, the windows that open now are judged, and
the chunk of this cycle is read. -/
def execChunkTransfer (c : CoreIx) (s : State) : Host.Outcome State Fault Refusal :=
  .next ((s.deliverChunks (clusterOf c)).windowFaults c |>.latchChunks c)

end Sys2Proof.Machine
end

