-- ==== Sys2Proof/Machine/GridEvents.lean ====
section
/-! DEFINITION. Events of the grid engine: packet issue (R111, R232, R247), write cycles (R233, R249, R215), forwarded
control writes (R119, R146), program couch operations (R120), starvation (R240) and grid errors (R112). -/

namespace Sys2Proof.Machine

/-! ### The slots of a packet -/

/-- The meaning of an M or V slot, which the grid engine performs with the slot context on its side. -/
def gridSlot (i : Instr) (s : State) : Host.Outcome State Fault Refusal :=
  match i with
  | .rk a b t => execRk a b t s
  | .rks a b t m n => execRks a b t m n s
  | .rka a b t m n => execRka a b t m n s
  | .rkn a b t => execRkn a b t s
  | .gzero t => execGzero t s
  | .gcopy t u => execGcopy t u s
  | .gxpose => execGxpose s
  | .gscaleQs t m => execGscaleQs t m s
  | .gscaleLiteral t => execGscaleLiteral t s
  | .mpop a b p => execMpop a b p s
  | .vadd d a b m => execVadd d a b m s
  | .vsub d a b m => execVsub d a b m s
  | .vmul d a b m => execVmul d a b m s
  | .vfma d a b m => execVfma d a b m s
  | .vfms d a b m => execVfms d a b m s
  | .vfnma d a b m => execVfnma d a b m s
  | .vmin d a b m => execVmin d a b m s
  | .vmax d a b m => execVmax d a b m s
  | .vabs d a m => execVabs d a m s
  | .vneg d a m => execVneg d a m s
  | .vcpys d a b m => execVcpys d a b m s
  | .viadd d a b m => execViadd d a b m s
  | .visub d a b m => execVisub d a b m s
  | .vimul d a b m => execVimul d a b m s
  | .vimulh d a b m => execVimulh d a b m s
  | .vimin d a b m => execVimin d a b m s
  | .vimax d a b m => execVimax d a b m s
  | .vand d a b m => execVand d a b m s
  | .vor d a b m => execVor d a b m s
  | .vxor d a b m => execVxor d a b m s
  | .vshl d a b m => execVshl d a b m s
  | .vshr d a b m => execVshr d a b m s
  | .vsar d a b m => execVsar d a b m s
  | .vcmpEq k a b m => execVcmpEq k a b m s
  | .vcmpNe k a b m => execVcmpNe k a b m s
  | .vcmpLt k a b m => execVcmpLt k a b m s
  | .vcmpLe k a b m => execVcmpLe k a b m s
  | .vcmpGt k a b m => execVcmpGt k a b m s
  | .vcmpGe k a b m => execVcmpGe k a b m s
  | .vcmpUn k a b m => execVcmpUn k a b m s
  | .vsel d a b => execVsel d a b s
  | .vclass d a m => execVclass d a m s
  | .vmulw d a b m => execVmulw d a b m s
  | .vexp2 d a m => execVexp2 d a m s
  | .vlog2 d a m => execVlog2 d a m s
  | .vrcp d a m => execVrcp d a m s
  | .vrsq d a m => execVrsq d a m s
  | .vsqrt d a m => execVsqrt d a m s
  | .vsinp d a m => execVsinp d a m s
  | .vcosp d a m => execVcosp d a m s
  | .vtanh d a m => execVtanh d a m s
  | .vsigm d a m => execVsigm d a m s
  | .vcvt d a m => execVcvt d a m s
  | .vqnt d a q m => execVqnt d a q m s
  | .vqntLoad a q => execVqntLoad a q s
  | .vdqnt d a q m => execVdqnt d a q m s
  | .vdqntStore d q => execVdqntStore d q s
  | .vbscLoad a e => execVbscLoad a e s
  | .vbscStore d e => execVbscStore d e s
  | .vbscApply d a e m => execVbscApply d a e m s
  | .vbqnt d a e m => execVbqnt d a e m s
  | .vpack d a b m => execVpack d a b m s
  | .vunpk d a m => execVunpk d a m s
  | .vredSum d a m => execVredSum d a m s
  | .vredMax d a m => execVredMax d a m s
  | .vredMin d a m => execVredMin d a m s
  | .vredAmax d a m => execVredAmax d a m s
  | .vscanSum d a m => execVscanSum d a m s
  | .vscanMax d a m => execVscanMax d a m s
  | .vscanMin d a m => execVscanMin d a m s
  | .vmov d a m => execVmov d a m s
  | .vperm d a b m => execVperm d a b m s
  | .vrot d a c m => execVrot d a c m s
  | .vfill d a m => execVfill d a m s
  | .vrand d => execVrand d s
  | .vxferElement d a l => execVxferElement d a l s
  | .vxferKcount d k => execVxferKcount d k s
  | _ => .next s

/-- One slot of a grid packet performed: its word and literal stand in the slot context. -/
def State.performSlot (s : State) (g : GSlot) : State :=
  let s := s.modSlot (fun t => { t with word := g.word, lit := g.lit })
  match gridSlot g.instr s with
  | .next t => t
  | _ => s

/-! ### Forwarded writes (R119, R137, R146, R158) -/

/-- A forwarded write that is performed before the slots of its packet: none when it must still wait. -/
def Grid.performWrite (g : Grid) (w : SWrite) : Option Grid :=
  match w with
  | .seed _ => some g
  | .flags op v => if g.pkts.isEmpty then some { g with flags := flagsWrite op g.flags v } else none
  | .couch op v => if g.couch.active then none else some { g with couch := g.couch.write op v }
  | .couchm op v => if g.couch.active then none else some { g with couch := { g.couch with mask := csrValue op g.couch.mask v } }
  | .kreg _ _ => some g

/-- The write of the head packet performed, when it is of the given kind and can be. -/
def Grid.headWrite (g : Grid) (kind : SWrite → Bool) : Grid :=
  match g.giq with
  | p :: ps =>
    match p.sw with
    | some w =>
      if kind w then
        match g.performWrite w with
        | some h => { h with giq := { p with sw := none } :: ps }
        | none => g
      else g
    | none => g
  | [] => g

def SWrite.isFlags : SWrite → Bool
  | .flags _ _ => true
  | _ => false
def SWrite.isCouchm : SWrite → Bool
  | .couchm _ _ => true
  | _ => false
/-- A write that is performed before its packet issues; a SEED or a k write goes with the issue. -/
def SWrite.early : SWrite → Bool
  | .kreg _ _ => false
  | .seed _ => false
  | _ => true

/-- SR_FLAGS_WRITE (R146). -/
def execSrFlagsWrite (c : CoreIx) (s : State) : Host.Outcome State Fault Refusal :=
  .next (s.modGrid c (fun g => g.headWrite SWrite.isFlags))

/-- SR_COUCHM_WRITE (R119). -/
def execSrCouchmWrite (c : CoreIx) (s : State) : Host.Outcome State Fault Refusal :=
  .next (s.modGrid c (fun g => g.headWrite SWrite.isCouchm))

/-! ### Program couch operations (R120) -/

/-- The operation passes row 63: NEXT reads 0; its two cycles of overhead hold the units. -/
def Grid.couchDone (g : Grid) : Grid :=
  { g with couch := { g.couch with next := 0, active := false }, mFree := max g.mFree (g.cyc + 2)
           v0Free := max g.v0Free (g.cyc + 2), v1Free := max g.v1Free (g.cyc + 2) }
def Grid.couchNext (g : Grid) : Grid :=
  if g.couch.next = 63 then g.couchDone else { g with couch := { g.couch with next := g.couch.next + 1 } }

/-- Rows from NEXT whose GB dirty bit is clear are passed over, which costs no cycle. -/
def Grid.couchSkip : Nat → Grid → Grid
  | 0, g => g
  | n + 1, g => if g.couch.active && !g.gdirty.getLsbD g.couch.next then Grid.couchSkip n g.couchNext else g

/-- GB bytes that issued VLDs have still to read (R215). -/
def Grid.vldReads (g : Grid) : List Nat := (g.inflight.filter (fun f => !f.written)).filterMap (fun f => f.vld)

/-- PROGRAM_COUCH_SAVE (R120): the next dirty row goes to GB, once it is not pending. -/
def execProgramCouchSave (c : CoreIx) (s : State) : Host.Outcome State Fault Refusal :=
  .next (s.modCore c (fun k =>
    if !k.grid.couch.active || k.grid.couch.op then k
    else
      let g := k.grid.couchSkip 64
      let n := g.couch.next
      if !g.couch.active || g.pendingRows.contains n || g.vldReads.any (fun a => overlaps ((g.couch.base.toNat + n) * 256) 256 a 256) then
        { k with grid := g }
      else
        let gb := k.gb.store ((g.couch.base.toNat + n) * 256) (bytesOfRow (g.row n))
        let g := { g with couch := { g.couch with mask := setBit g.couch.mask n true }, gdirty := setBit g.gdirty n false }
        { k with gb := gb, grid := g.couchNext.couchSkip 64 }))

/-- PROGRAM_COUCH_RESTORE (R120): the next row comes from GB or is set to +0.0, once it is not pending. -/
def execProgramCouchRestore (c : CoreIx) (s : State) : Host.Outcome State Fault Refusal :=
  .next (s.modCore c (fun k =>
    let g := k.grid
    let n := g.couch.next
    if !g.couch.active || !g.couch.op || g.pendingRows.contains n then k
    else
      let r := if g.couch.mask.getLsbD n then rowOfBytes (k.gb.bytes ((g.couch.base.toNat + n) * 256) 256) else Row.zero
      let g := { g.setRow n r with gdirty := setBit g.gdirty n false, fdirty := setBit g.fdirty n true }
      { k with grid := g.couchNext }))

/-! ### Issue (R111, R232, R247) -/

/-- Every entry that an M slot pops is present (R232). -/
def Grid.entriesPresent (g : Grid) (l : List (BitVec 3 × Nat)) : Bool :=
  l.all (fun p => decide (p.2 ≤ (g.queue p.1).entries.length) && ((g.queue p.1).entries.take p.2).all (fun e => e.present))

/-- No row of a list is pending in the given sense. -/
def noneIn (rows pend : List Nat) : Bool := rows.all (fun r => !pend.contains (r % 64))

/-- The M slot of a packet can issue (R232, R247). -/
def Grid.mReady (g : Grid) (p : GridPkt) (i : Instr) : Bool :=
  g.entriesPresent (Instr.mPops p.fmt i) && decide (g.mFree ≤ g.cyc) &&
    noneIn (Instr.mTouch p.shp i) (if Instr.isRk i then g.pendingNotRk else g.pendingRows) &&
    (Instr.mRegs i).all (fun r => !g.regPending (if r.1 then isE r.2 else isQs r.2))

/-- A V slot can issue (R247). -/
def Grid.vReady (g : Grid) (p : GridPkt) (i : Instr) : Bool :=
  let u := Instr.vUse p.shp p.fmt i
  noneIn (u.rr ++ u.rw) g.pendingRows && (u.er ++ u.ew).all (fun n => !g.regPending (isE n)) &&
    (u.qr ++ u.qw).all (fun n => !g.regPending (isQs n)) && (u.kr ++ u.kw).all (fun n => !g.regPending (isK n)) &&
    (!u.sf || decide (g.sfFree ≤ g.cyc))

/-- History entries that a packet's V slots need (R110). -/
def GridPkt.histNeed (p : GridPkt) : Nat :=
  (p.v.map (fun v => let u := Instr.vUse p.shp p.fmt v.instr; u.rw.length + u.ew.length + u.qw.length)).sum

/-- V units free in this cycle. -/
def Grid.vUnits (g : Grid) : Nat := (decide (g.v0Free ≤ g.cyc)).toNat + (decide (g.v1Free ≤ g.cyc)).toNat

/-- A VXFER uses no unit's cycles but its issue; each other V slot needs a free unit (R247). -/
def GridPkt.unitsNeed (p : GridPkt) : Nat := p.v.length

/-- A VST of the packet would overtake a VLD that reads its bytes (R208). -/
def GridPkt.overtakes (p : GridPkt) (reads : List Nat) : Bool :=
  p.xfers.any (fun x => x.st && x.gb && reads.any (fun a => overlaps x.addr 256 a 256))

/-- The packet at the head can issue (R232, R247), its forwarded early write done. -/
def Grid.ready (g : Grid) (p : GridPkt) : Bool :=
  !g.couch.active &&
    (match p.m with
     | some m => g.mReady p m.instr
     | none => true) &&
    p.v.all (fun v => g.vReady p v.instr) && decide (p.unitsNeed ≤ g.vUnits) &&
    decide (p.v = [] ∨ g.histUsed + p.histNeed ≤ 128) &&
    p.xfers.all (fun x => !g.pendingRows.contains x.row.toNat) && !p.overtakes g.vldReads &&
    (match p.sw with
     | some (.kreg n _) => !g.regPending (isK n)
     | _ => true)

/-- A transfer performed at the packet's grid issue (R215). -/
def Core.performXfer (k : Core) (fwd : Nat) (x : Xfer) : Core :=
  let r := x.row.toNat
  if x.st then
    let b := bytesOfRow (k.grid.row r)
    k.setBuf (if x.gb then .gb else .xb) ((k.buf (if x.gb then .gb else .xb)).store x.addr b)
  else
    { k with grid := { k.grid with inflight := k.grid.inflight ++
      [{ fwd := fwd, kind := .vld, due := k.grid.cyc + 3, rows := [(r, Row.zero)], rk := none, vld := some x.addr, regs := []
         flags := 0, histRows := [], histRegs := [], written := false }] } }

/-- The fills from buffers that waited for a VST of this packet read its bytes and settle (R212, R217). -/
def State.settleBufFills (s : State) (c : CoreIx) (p : GridPkt) : State :=
  let now := (s.cyc c).toNat
  let met (e : QEntry) : Bool := !e.settled && decide (e.src.space ≠ .dm) &&
    e.src.pieces.any (fun r => p.xfers.any (fun x => x.range.meets e.src.space r.1 e.src.span false))
  (List.range 8).foldl (fun s i =>
    let q := BitVec.ofNat 3 i
    (((s.core c).grid.queue q).entries.filter met).foldl (fun s e =>
      let row := rowOfBytes (fillBytes ((s.core c).buf e.src.space) e.src)
      s.modQ c q (fun u => u.settle e.seq row e.src (now + 6))) s) s

/-- A k write of the packet on the grid side, kept as a flight that has written, so that a stop can undo it (R111, R158). -/
def Grid.kWrite (g : Grid) (fwd : Nat) (n : BitVec 3) (v : Word) : Grid :=
  { g.wreg (.k n v) with inflight := g.inflight ++
      [{ fwd := fwd, kind := .v, due := g.cyc, rows := [], rk := none, vld := none, regs := [], flags := 0, histRows := []
         histRegs := [.k n (g.rk n)], written := true }] }

/-- The head packet issues: its SEED, transfers, the M slot, the V slots, then its k write. -/
def State.issueGrid (s : State) (c : CoreIx) (p : GridPkt) : State :=
  let old := s.slot
  let me := s.cur
  let s := { s with cur := c, slot := { old with side := .grid, pkt := p } }
  let s := s.modMe (fun k => { k with grid := { k.grid with giq := k.grid.giq.drop 1, pkts := k.grid.pkts ++ [p] } })
  let s := match p.sw with
    | some (.seed v) => s.modGrid c (fun g => { g with gens := gensSeed v })
    | _ => s
  let s := p.xfers.foldl (fun s x => s.modMe (fun k => k.performXfer p.fwd x)) s
  let s := if p.xfers.isEmpty then s else s.settleBufFills c p
  let s := match p.m with
    | some m => s.performSlot m
    | none => s
  let s := p.v.foldl (fun s v => s.performSlot v) s
  let s := match p.sw with
    | some (.kreg n v) => s.modGrid c (fun g => g.kWrite p.fwd n v)
    | _ => s
  { s with cur := me, slot := old }

/-- GRID_ISSUE (R111, R232, R247): the head packet's early write is performed when it can be, then the packet issues. The
macro sequencer has the grid while it runs (R297). -/
def execGridIssue (c : CoreIx) (s : State) : Host.Outcome State Fault Refusal :=
  let s := s.modGrid c (fun g => g.headWrite SWrite.early)
  .next (match (s.core c).grid.giq with
    | [] => s
    | p :: _ =>
      let early := match p.sw with
        | some w => w.early
        | none => false
      let held := match (s.core c).seqr with
        | some q => q.ready
        | none => false
      if !early && !held && (s.core c).grid.ready p then s.issueGrid c p else s)

/-! ### Write cycles -/

/-- M_WRITE_CYCLE (R233). -/
def execMWriteCycle (c : CoreIx) (s : State) : Host.Outcome State Fault Refusal :=
  .next (s.modCore c (fun k => (k.applyDue .m).retire))
/-- V_WRITE_CYCLE (R249). -/
def execVWriteCycle (c : CoreIx) (s : State) : Host.Outcome State Fault Refusal :=
  .next (s.modCore c (fun k => (k.applyDue .v).retire))
/-- VLD_WRITE (R215). -/
def execVldWrite (c : CoreIx) (s : State) : Host.Outcome State Fault Refusal :=
  .next (s.modCore c (fun k => (k.applyDue .vld).retire))

/-! ### Starvation and errors -/

/-- The M slot at the head waits for entries that no fill will bring (R240). -/
def Grid.starved (g : Grid) : Bool :=
  match g.giq with
  | p :: _ =>
    match p.m with
    | some m => (Instr.mPops p.fmt m.instr).any (fun q => decide ((g.queue q.1).fillN - (g.queue q.1).p < q.2))
    | none => false
  | [] => false

/-- OPERAND_STARVATION (R240): with the access engine stalled by the full grid instruction queue, of which no packet in flight will
free a place (log 112), or by a fill that waits for an entry, the group ends. The address is the packet's, of its first bundle (R115). -/
def execOperandStarvation (c : CoreIx) (s : State) : Host.Outcome State Fault Refusal :=
  let k := s.core c
  let stalled := match k.ctl.wait with
    | some .giqRoom => k.grid.pkts.isEmpty
    | some (.queueEntry _) => true
    | _ => false
  .next (if k.grid.starved && stalled then s.endMine c 0x100 ((k.grid.giq.head?.map (fun p => p.addr)).getD 0) 0 else s)

/-- A row was written by an M slot that drained in the stop (R112). -/
def Core.drainedM (k : Core) (r : BitVec 6) : Bool :=
  let n := drainCount k.grid.pkts
  let keep := (k.grid.pkts.take n).map (fun p => p.fwd)
  k.grid.inflight.any (fun f => decide (f.kind = .m) && keep.contains f.fwd && f.rowSet.contains r.toNat)

/-- A hardware error meets the core within a lull (R18, R410, Table 5.1): its group is LULLING, from the lull request on. -/
def State.inLull (s : State) (c : CoreIx) : Bool :=
  match (s.core c).grp.bind s.group with
  | some g => decide (g.st = .lulling) || g.lullReq
  | none => false

/-- A core is marked failed (R18, R410): within a lull its group goes on to be saved, and the mark stands once the core is freed;
outside one the group ends with the hardware error. The core takes no more work. -/
def State.failCore (s : State) (c : CoreIx) (cause : BitVec 9) (addr val : Word) : State :=
  if s.inLull c then s.modGroup ((s.core c).grp.getD 0) (fun g => { g with lost := c :: g.lost })
  else (s.endMine c cause addr val).modCtl c (fun t => { t with st := .failed })

/-- An entry is read again from its fill source (R112). -/
def State.rereadEntry (s : State) (c : CoreIx) (e : QEntry) : QEntry × State :=
  if e.src.space = .dm then
    let (bs, s) := s.readPieces e.src.pieces
    ({ e with data := rowOfBytes (bs ++ List.replicate (256 - bs.length) 0) }, s)
  else ({ e with data := rowOfBytes (fillBytes ((s.core c).buf e.src.space) e.src) }, s)

/-- A corrected error of a core (R409), under its sr.coreid. -/
def State.correctedEvent (s : State) (c : CoreIx) (d : Nat) : State := s.corrected ((s.coreid c).toNat % 65536) d

/-- An M slot that has issued and not retired has popped an entry of a queue and writes rows from it (R242). -/
def Core.poppedBy (k : Core) (q : BitVec 3) : Bool :=
  k.grid.pkts.any (fun p => match p.m with
    | some m => !(Instr.mWrites p.shp m.instr).isEmpty && (Instr.mPops p.fmt m.instr).any (fun r => decide (r.1 = q))
    | none => false)

/-- The access engine after a stop of the grid (R112): a core that issues or replays rolls back without a record; one whose implicit
mark is due, or whose packet waits behind an irrevocable operation of its own (log 136), has nothing to undo; any other stands still
already. -/
def Core.restart (k : Core) : Core :=
  if (k.ctl.st = .run ∨ k.ctl.st = .replay) ∧ !k.ctl.markNext ∧ !k.keptPart then k.rollback else k

/-- The head entry of a queue is read again (R112). -/
def State.rereadHead (s : State) (c : CoreIx) (q : BitVec 3) : State :=
  match ((s.core c).grid.queue q).entries with
  | e :: es =>
    let (e, s) := s.rereadEntry c e
    s.modQ c q (fun u => { u with entries := e :: es })
  | [] => s

/-- An error that a drained M has carried into rows (R112, R242, R322): the core is marked failed. -/
def State.drainedError (s : State) (c : CoreIx) : State :=
  let k := s.core c
  if k.timed then s.failCore c 0x0BD k.ctl.pc (BitVec.ofNat 64 (s.regionCycle c)) else s.failCore c 0x161 k.ctl.pc 0

/-- An instruction in flight has popped an entry of a queue and writes nothing from it: an MPOP (R242). -/
def Core.discarded (k : Core) (q : BitVec 3) : Bool :=
  k.grid.pkts.any (fun p => match p.m with
    | some m => (Instr.mPops p.fmt m.instr).any (fun r => decide (r.1 = q))
    | none => false)

/-- GRID_ERROR (R112, R242, R322): a row that a drained M wrote, or an entry that it popped, marks the core failed; inside a timed
region the group ends with timing detail 0x0D; else the grid stops (R111), an erroneous entry is read again, the access engine
rolls back without a record and the grid issues again from S. -/
def execGridError (c : CoreIx) (e : GridErr) (s : State) : Host.Outcome State Fault Refusal :=
  let k := s.core c
  let recover (act : State → State) (d : Nat) : State :=
    if k.timed then s.endMine c 0x0BD k.ctl.pc (BitVec.ofNat 64 (s.regionCycle c))
    else ((act (s.modCore c Core.gridStop)).modCore c Core.restart).correctedEvent c d
  .next (if k.ctl.st = .idle ∨ k.ctl.st = .failed then s
    else
      match e with
      | .row r => if k.drainedM r then s.drainedError c else recover (fun s => s) 1
      | .popped q => if k.poppedBy q then s.drainedError c else if k.discarded q then recover (fun s => s) 2 else s
      | .entry q => recover (fun s => s.rereadHead c q) 2)

end Sys2Proof.Machine
end

