-- ==== Sys2Proof/Machine/QueueOps.lean ====
section
/-! DEFINITION. Appending to queues (R65 to R67) and the counters around them, shared by APPEND and QPUSH. -/

namespace Sys2Proof.Machine

/-- The lowest sequence of a queue that has not completed. -/
def QRec.lowest (r : QRec) : Nat := r.inflight.foldl (fun m e => min m e.seq) r.d

/-- An entry as accepted: tag and sequence in bytes 56 to 63 (R66). -/
def stamped (e : List Byte) (tag : Tag) (n : Nat) : List Byte :=
  setBytes (setBytes (((e ++ List.replicate 64 0).take 64)) 56 (leBytes 2 tag.toNat)) 58 (leBytes 6 (n % 2 ^ 48))

/-- A refusal of R65: ILLSTATE, BADOPND or NORES, as the statuses of Table 2.4. An exported context refuses too (R456). -/
def State.appendRefused (s : State) (ctx q count : Nat) : Option Nat :=
  let r := s.queue ctx q
  let st := (s.ctx ctx).st
  if 64 ≤ q ∨ r.st = .closed ∨ r.st = .draining ∨ r.event ∨ st = .frozen ∨ st = .resetting ∨ (s.ctx ctx).exported then some 1
  else if count = 0 ∨ 16 < count then some 2
  else if 2 ^ r.s < r.a + count - r.lowest then some 5
  else none

/-- The entries written to consecutive slots, A advanced (R65); the first of an empty queue has reached the head. -/
def State.appendEntries (s : State) (ctx q : Nat) (entries : List (List Byte)) : State :=
  let tag := s.tagOf ctx
  let s := s.mapRing ctx q
  (entries.foldl (fun s e =>
    let r := s.queue ctx q
    (s.ringWrite ctx q r.a (stamped e tag r.a)).modQueue ctx q (fun r => { r with a := r.a + 1, st := if r.st = .empty then .active else r.st })) s).headArrives ctx q

end Sys2Proof.Machine
end

