-- ==== Sys2Proof/Machine/EngineRun.lean ====
section
/-! DEFINITION. What the engines do with their operations (R278 to R290, R397): starting, performing, faults at the progress
point, signals, queue pushes, scatter trains and remote reductions. -/

namespace Sys2Proof.Machine

/-! ### Heads and progress -/

/-- The head of an engine queue. -/
def State.engHead (s : State) (c : CoreIx) (q : Nat) : Option EngEntry := ((s.core c).engQ q).head?
/-- The head replaced. -/
def State.setHead (s : State) (c : CoreIx) (q : Nat) (e : EngEntry) : State :=
  s.modCore c (fun k => k.setEngQ q (e :: (k.engQ q).drop 1))
/-- The head has performed. -/
def State.popHead (s : State) (c : CoreIx) (q : Nat) : State := s.modCore c (fun k => k.setEngQ q ((k.engQ q).drop 1))

/-- How far an operation got: all of it, one unit of it, to a fault, to a host's reply or a route, or to a fault that ends the group. -/
inductive EngStop
  | done
  | more
  | fault (f : PageFault)
  | wait
  | ends (cause : BitVec 9)
  deriving DecidableEq, Repr

/-- An engine's accesses to virtual ranges with no route to a home (R387): the operation waits, or ends its group. -/
def State.engCut (s : State) (c : CoreIx) (rs : List (Word × Nat)) : Option EngStop :=
  match rs.findSome? (fun r => (s.cutAt c r.1).or (s.cutAt c (r.1 + BitVec.ofNat 64 (r.2 - 1)))) with
  | none => none
  | some ended => some (if ended then .ends 0x150 else .wait)

/-- An operation's address ranges in the buffers end where its data does: bytes of an endpoint read. -/
def State.endRead (s : State) (c : CoreIx) (p : EndPt) (a : Word) (n : Nat) : Except PageFault (List Byte) × State :=
  if p.space = .dm then s.readVa (s.ctxOf c) (dieOf c) none a n
  else (.ok (((s.core (p.peer.getD c)).buf p.space).bytes a.toNat n), s)
def State.endWrite (s : State) (c : CoreIx) (p : EndPt) (a : Word) (bs : List Byte) : Except PageFault Unit × State :=
  if p.space = .dm then s.writeVa (s.ctxOf c) (dieOf c) none a bs
  else (.ok (), s.modCore (p.peer.getD c) (fun k => k.setBuf p.space ((k.buf p.space).store a.toNat bs)))

/-! ### Copies (R281 to R283, R397) -/

/-- The request of a queue to a host that has not been used up. -/
def State.hostReq (s : State) (c : CoreIx) (q : Nat) (write : Bool) : Option HostReq :=
  s.hostReqs.find? (fun r => decide (r.core = c ∧ r.queue.toNat = q ∧ r.write = write))
/-- The requests of a queue dropped. -/
def State.dropReqs (s : State) (c : CoreIx) (q : Nat) : State :=
  { s with hostReqs := s.hostReqs.filter (fun r => decide (¬(r.core = c ∧ r.queue.toNat = q))) }

/-- A READ or WRITE sent on a host window's flow (R397). -/
def State.hostSend (s : State) (c : CoreIx) (q : Nat) (w : HWin) (a : Word) (n : Nat) (data : Option (List Byte)) : State :=
  let id := BitVec.ofNat 32 (s.reqCount + 1)
  let hva := w.hbase + (a - w.base)
  let s : State := { s with reqCount := s.reqCount + 1 }
  let s : State := { s with hostReqs := s.hostReqs ++
    [{ id := id, core := c, queue := BitVec.ofNat 3 q, write := data.isSome, port := w.port, flow := w.flow
       got := none, done := false, failed := (s.flow w.port w.flow).isNone }] }
  s.send w.port w.flow (match data with
    | some bs => .writeReq hva id bs
    | none => .readReq hva n id)

/-- The source bytes of a chunk. -/
def State.chunkRead (s : State) (c : CoreIx) (q : Nat) (p : EndPt) (a : Word) (n : Nat) : Except EngStop (List Byte) × State :=
  match (if p.space = Space.dm then (s.ctx (s.ctxOf c)).hostWin a else none : Option HWin) with
  | some w =>
    match s.hostReq c q false with
    | none => (.error .wait, s.hostSend c q w a n none)
    | some r =>
      if r.failed then (.error (.ends 0x114), s)
      else
        match r.got with
        | some bs => (.ok bs, s)
        | none => (.error .wait, s)
  | none =>
    match s.endRead c p a n with
    | (.error f, t) => (.error (.fault f), t)
    | (.ok bs, t) => (.ok bs, t)

/-- A chunk written; the peer of a CPYB must hold a resident group of the context. -/
def State.chunkWrite (s : State) (c : CoreIx) (q : Nat) (p : EndPt) (a : Word) (bs : List Byte) : EngStop × State :=
  let absent : Bool := match p.peer with
    | some d =>
      match (s.core d).grp.bind s.group with
      | some g => !(decide (g.ctx = s.ctxOf c ∧ g.st = .resident))
      | none => true
    | none => false
  if absent then (.ends 0x112, s)
  else
    match (if p.space = Space.dm then (s.ctx (s.ctxOf c)).hostWin a else none : Option HWin) with
    | some w =>
      match s.hostReq c q true with
      | none => (.wait, s.hostSend c q w a bs.length (some bs))
      | some r => if r.failed then (.ends 0x114, s) else if r.done then (.done, s) else (.wait, s)
    | none =>
      match s.endWrite c p a bs with
      | (.error f, t) => (.fault f, t)
      | (.ok _, t) => (.done, t)

/-- Chunks of one row. -/
def rowChunks (len : Nat) : Nat := (len + 63) / 64

/-- Chunks of a row of `len` bytes from an offset on: offset and length. -/
def chunksFrom (len off : Nat) : List (Nat × Nat) :=
  (List.range (rowChunks len - off / 64)).map (fun i => (off + 64 * i, min 64 (len - off - 64 * i)))

/-- The chunks of a row as they stand before any of them is written (R281); one that faults, or lies in a host window, is read at its
own turn. -/
def State.rowAhead (s : State) (c : CoreIx) (p : EndPt) (row : Word) (cs : List (Nat × Nat)) : List (Option (List Byte)) × State :=
  cs.foldl (fun (acc : List (Option (List Byte)) × State) x =>
    match acc.2.endRead c p (row + BitVec.ofNat 64 x.1) x.2 with
    | (.ok bs, t) => (acc.1 ++ [some bs], t)
    | (.error _, t) => (acc.1 ++ [none], t)) ([], s)

/-- The place of an endpoint's address in the memory of a host: port, flow and host address (R397). -/
def State.hostPlace (s : State) (c : CoreIx) (p : EndPt) (a : Word) : Option (EthPort × BitVec 10 × Nat) :=
  if p.space = .dm then ((s.ctx (s.ctxOf c)).hostWin a).map (fun w => (w.port, w.flow, (w.hbase + (a - w.base)).toNat)) else none

/-- Source and destination of a row share bytes of one host's memory. -/
def State.hostOverlap (s : State) (c : CoreIx) (d p : EndPt) (da sa : Word) (len : Nat) : Bool :=
  match s.hostPlace c d da, s.hostPlace c p sa with
  | some (p1, f1, a1), some (p2, f2, a2) => decide (p1 = p2 ∧ f1 = f2) && overlaps a1 len a2 len
  | _, _ => false

/-- Every chunk of a list read from the host before the row is written. -/
def State.hostAhead (s : State) (c : CoreIx) (q : Nat) (p : EndPt) (row : Word) :
    List (Nat × Nat) → List (Option (List Byte)) → Option EngStop × List (Option (List Byte)) × State
  | _ :: cs, some bs :: l =>
    let (e, l, s) := State.hostAhead s c q p row cs l
    (e, some bs :: l, s)
  | x :: cs, none :: l =>
    match s.chunkRead c q p (row + BitVec.ofNat 64 x.1) x.2 with
    | (.error e, s) => (some e, none :: l, s)
    | (.ok bs, s) =>
      let (e, l, s) := State.hostAhead (s.dropReqs c q) c q p row cs l
      (e, some bs :: l, s)
  | _, l => (none, l, s)

/-- The next chunk of a copy (R281, R282), with the chunks of its current row that were read ahead: how it ended, the progress point, and
the chunks still read ahead. -/
def State.copyChunk (s : State) (c : CoreIx) (q : Nat) (d p : EndPt) (len : Nat) (ds ss : Word) (i : Nat) (l : List (Option (List Byte))) :
    EngStop × Nat × List (Option (List Byte)) × State :=
  let row := i / rowChunks len
  let off := i % rowChunks len * 64
  let srow := p.addr + BitVec.ofNat 64 row * ss
  let drow := d.addr + BitVec.ofNat 64 row * ds
  let sa := srow + BitVec.ofNat 64 off
  let da := drow + BitVec.ofNat 64 off
  let n := min 64 (len - off)
  match s.engCut c ((if p.space = .dm then [(sa, n)] else []) ++ (if d.space = .dm then [(da, n)] else [])) with
  | some e => (e, i, l, s)
  | none =>
    let cs := chunksFrom len off
    let (l, s) := if l.isEmpty then s.rowAhead c p srow cs else (l, s)
    let (e, l, s) := if s.hostOverlap c d p drow srow len then s.hostAhead c q p srow cs l else (none, l, s)
    match e with
    | some e => (e, i, l, s)
    | none =>
      let (r, s) : Except EngStop (List Byte) × State := match l.headD none with
        | some bs => (.ok bs, s)
        | none => s.chunkRead c q p sa n
      match r with
      | .error e => (e, i, l, s)
      | .ok bs =>
        match s.chunkWrite c q d da bs with
        | (.done, s) => (.more, i + 1, l.drop 1, s.dropReqs c q)
        | (e, s) => (e, i, l, s)

/-! ### Streams (R284, R285) -/

/-- A range translated by the stream engine that serves a core, a choice of the die (R25, R358; log 71). -/
def State.streamRange (s : State) (c : CoreIx) (a : Word) (k : AccKind) (n : Nat) : Except PageFault (List (Nat × Nat)) × State :=
  s.engineRange (s.ctxOf c) (dieOf c) c.toNat a k n

/-- Words added one by one in their memory units (R285). -/
def addWords (int : Bool) : List Byte → List Byte → List Byte
  | o0 :: o1 :: o2 :: o3 :: os, v0 :: v1 :: v2 :: v3 :: vs =>
    leBytes 4 (addWord int (BitVec.ofNat 32 (leNat [o0, o1, o2, o3])) (BitVec.ofNat 32 (leNat [v0, v1, v2, v3]))).toNat ++ addWords int os vs
  | _, _ => []

/-- The two ranges of a row of a stream translated, the source first; a route that is missing is met before either (R387). -/
def State.streamRows (s : State) (c : CoreIx) (op : Nat) (sa da : Word) (rb : Nat) :
    Except EngStop (List (Nat × Nat) × List (Nat × Nat)) × State :=
  match s.engCut c [(sa, rb), (da, rb)] with
  | some e => (.error e, s)
  | none =>
    match s.streamRange c sa .read rb with
    | (.error f, s) => (.error (.fault f), s)
    | (.ok ss, s) =>
      match s.streamRange c da (if 2 ≤ op then .atomic else .write) rb with
      | (.error f, s) => (.error (.fault f), s)
      | (.ok ds, s) => (.ok (ss, ds), s)

/-- What a stream does with one index (R285): whether it was skipped. -/
def State.streamRow (s : State) (c : CoreIx) (b : List Byte) (i x : Nat) : Except EngStop Bool × State :=
  let rb := fieldAt b 4 4
  let op := (byteAt b 0).toNat
  let loc := wordAt b 40 + BitVec.ofNat 64 (i * rb)
  if fieldAt b 36 4 ≤ x then
    if op ≠ 0 then (.ok true, s)
    else
      match s.engCut c [(loc, rb)] with
      | some e => (.error e, s)
      | none =>
        match s.streamRange c loc .write rb with
        | (.error f, s) => (.error (.fault f), s)
        | (.ok ds, s) => (.ok true, s.writePieces ds (List.replicate rb 0))
  else
    let t := wordAt b 16 + BitVec.ofNat 64 x * wordAt b 24
    let (da, sa) := if op = 0 then (loc, t) else (t, loc)
    match s.streamRows c op sa da rb with
    | (.error e, s) => (.error e, s)
    | (.ok (ss, ds), s) =>
      let (v, s) := s.readPieces ss
      if op ≤ 1 then (.ok false, s.writePieces ds v)
      else
        let (o, s) := s.readPieces ds
        (.ok false, s.writePieces ds (addWords (decide (op = 3)) o v))

/-- One index of a stream read and served (R285). -/
def State.streamIndex (s : State) (c : CoreIx) (b : List Byte) (i : Nat) : Except EngStop Bool × State :=
  let w := strmWidth b
  let a := wordAt b 8 + BitVec.ofNat 64 (i * w)
  match s.engCut c [(a, w)] with
  | some e => (.error e, s)
  | none =>
    match s.streamRange c a .read w with
    | (.error f, s) => (.error (.fault f), s)
    | (.ok ps, s) =>
      let (xb, s) := s.readPieces ps
      s.streamRow c b i (leNat xb)

/-- The status word of a stream, written last (R285). -/
def State.streamStatus (s : State) (c : CoreIx) (b : List Byte) (skipped : Nat) : EngStop × State :=
  if wordAt b 48 = 0 then (.done, s)
  else
    match s.engCut c [(wordAt b 48, 8)] with
    | some e => (e, s)
    | none =>
      match s.streamRange c (wordAt b 48) .write 8 with
      | (.error f, s) => (.fault f, s)
      | (.ok ps, s) => (.done, s.writePieces ps (leBytes 8 skipped))

/-! ### Faults and the end of an operation -/

/-- Operations that system software may have to settle: the agent of an operation (Table 17.5). -/
def EngOp.agent : EngOp → BitVec 8
  | .stream _ => 3
  | _ => 2

/-- The operation stops at its progress point with a record (R279). -/
def State.engFault (s : State) (c : CoreIx) (q : Nat) (e : EngEntry) (f : PageFault) : State :=
  let n := s.ctxOf c
  let (k, s) := s.recordFault { seq := 0, ctx := n, agent := e.op.agent, core := c, detail := f.detail, va := f.va, stg := none
                                group := (s.core c).grp, tile := none, queue := some q } { f with size := min f.size 256 }
    (s.tagOf n) ((s.coreid c).toNat % 65536) (BitVec.ofNat 64 e.prog)
  s.setHead c q { e with faulted := some k }

/-- The next unit of the head: a chunk of a copy, an index of a stream or its status word (R278, R281, R285; log 4): how it ended, and the
operation with its progress. -/
def State.runHead (s : State) (c : CoreIx) (q : Nat) (e : EngEntry) : EngStop × EngEntry × State :=
  match e.op with
  | .copy d p rows len ds ss =>
    let total := rows * rowChunks len
    if total ≤ e.prog then (.done, e, s)
    else
      let (r, i, l, s) := s.copyChunk c q d p len ds ss e.prog e.ahead
      (if r = .more ∧ total ≤ i then .done else r, { e with prog := i, ahead := l }, s)
  | .stream b =>
    if e.prog < fieldAt b 32 4 then
      match s.streamIndex c b e.prog with
      | (.error r, s) => (r, e, s)
      | (.ok k, s) => (.more, { e with prog := e.prog + 1, skipped := if k then e.skipped + 1 else e.skipped }, s)
    else
      let (r, s) := s.streamStatus c b e.skipped
      (r, e, s)
  | _ => (.wait, e, s)

/-- An operation that a fault of its own ends, with its group (R283, R397). -/
def State.engEnds (s : State) (c : CoreIx) (cause : BitVec 9) (prog : Nat) : State := s.endMine c cause (BitVec.ofNat 64 prog) 0

/-- Total units of an operation whose units are applied by another event. -/
def EngOp.units : EngOp → Nat
  | .scatter _ n _ => n
  | .rred _ _ _ _ _ _ => 1
  | _ => 0

/-- A transfer of the operation's own packet, or an earlier one, still meets one of its buffer ranges (R217). -/
def Core.opWaits (k : Core) (e : EngEntry) : Bool :=
  e.op.ranges.any (fun r => (k.xferRangesTo e.fwd).any (fun x => x.meets r.1 r.2.1 r.2.2.1 r.2.2.2))

/-- ENGINE_OP_START (R278): the head starts; a scatter list or a reduction's source is read now (R286, R287). -/
def execEngineOpStart (c : CoreIx) (q : BitVec 3) (s : State) : Host.Outcome State Fault Refusal :=
  .next (match s.engHead c q.toNat with
    | none => s
    | some e =>
      if e.started ∨ (s.core c).opWaits e then s
      else
        let buf := match e.op with
          | .scatter l n _ => (s.core c).xb.bytes l.toNat (8 * n)
          | .rred a _ n _ sc _ => (s.core c).xb.bytes a.toNat (4 * n + (if sc then 4 * ((n + 63) / 64) else 0))
          | _ => []
        match e.op with
        | .cwait _ _ => s
        | _ => s.setHead c q.toNat { e with started := true, buf := buf })

/-- The outcome of running the head put into the state. -/
def State.settleHead (s : State) (c : CoreIx) (q : Nat) (r : EngStop × EngEntry × State) : State :=
  let (stop, e, t) := r
  match stop with
  | .done => t.popHead c q
  | .fault f => t.engFault c q e f
  | .more => t.setHead c q e
  | .wait => if t.engHead c q = none then s else t.setHead c q e
  | .ends cause => (t.dropReqs c q).engEnds c cause e.prog

/-- ENGINE_OP_PERFORMED (R278): the started head performs its next unit and leaves its queue when it has
performed; one whose units other events apply leaves once they all are. -/
def execEngineOpPerformed (c : CoreIx) (q : BitVec 3) (s : State) : Host.Outcome State Fault Refusal :=
  .next (match s.engHead c q.toNat with
    | none => s
    | some e =>
      if !e.started ∨ e.faulted.isSome then s
      else
        match e.op with
        | .copy _ _ _ _ _ _ => s.settleHead c q.toNat (s.runHead c q.toNat e)
        | .stream _ => s.settleHead c q.toNat (s.runHead c q.toNat e)
        | .qpush _ _ => s
        | .cwait _ _ => s
        | o => if o.units ≤ e.prog then s.popHead c q.toNat else s)

/-- ENGINE_FAULT (R279): a started operation that meets a translation or access-right fault performs up to it and stops
with a record. -/
def execEngineFault (c : CoreIx) (q : BitVec 3) (s : State) : Host.Outcome State Fault Refusal :=
  .next (match s.engHead c q.toNat with
    | none => s
    | some e =>
      if !e.started ∨ e.faulted.isSome then s
      else
        match s.runHead c q.toNat e with
        | (.fault f, e, t) => t.engFault c q.toNat e f
        | _ => s)

/-! ### Scatter trains and reductions (R286, R287) -/

/-- One element of a scatter list: its target translated, its op applied. -/
def State.scatterOne (s : State) (c : CoreIx) (base : Word) (el : List Byte) : Except PageFault Unit × State :=
  let off := fieldAt el 0 4
  let v := (el.drop 4).take 4
  let op := off % 4
  if op = 3 then (.ok (), s)
  else
    match s.translateRange (s.ctxOf c) (dieOf c) none (base + BitVec.ofNat 64 (off - op)) (if op = 0 then .write else .atomic) 4 with
    | (.error f, s) => (.error f, s)
    | (.ok ps, s) =>
      if op = 0 then (.ok (), s.writePieces ps v)
      else
        let (o, s) := s.readPieces ps
        (.ok (), s.writePieces ps (addWords (decide (op = 2)) o v))

/-- Elements from the progress point, in list order. -/
def State.scatterGo (s : State) (c : CoreIx) (base : Word) : Nat → Nat → List Byte → EngStop × Nat × State
  | 0, i, _ => (.done, i, s)
  | n + 1, i, l =>
    match (if fieldAt l 0 4 % 4 = 3 then none else s.engCut c [(base + BitVec.ofNat 64 (fieldAt l 0 4 / 4 * 4), 4)]) with
    | some e => (e, i, s)
    | none =>
      match s.scatterOne c base (l.take 8) with
      | (.error f, s) => (.fault f, i, s)
      | (.ok _, s) => State.scatterGo s c base n (i + 1) (l.drop 8)

/-- SCATTER_TRAIN_APPLY (R286): the elements of the started scatter are applied in list order, which keeps the order
within every train, up to a fault. -/
def execScatterTrainApply (c : CoreIx) (s : State) : Host.Outcome State Fault Refusal :=
  .next (match s.engHead c 5 with
    | some e =>
      match e.op with
      | .scatter _ n base =>
        if !e.started ∨ e.faulted.isSome then s
        else
          match s.scatterGo c base (n - e.prog) e.prog (e.buf.drop (8 * e.prog)) with
          | (.fault f, i, t) => t.engFault c 5 { e with prog := i } f
          | (.ends cause, i, t) => t.engEnds c cause i
          | (_, i, t) => t.setHead c 5 { e with prog := i }
      | _ => s
    | none => s)

/-- The value of a reduction's element: scaled by its row's E8 code; 0xFF gives NaN. -/
def rredValue (int sc : Bool) (buf : List Byte) (n e : Nat) : Val :=
  let v := BitVec.ofNat 32 (fieldAt buf (4 * e) 4)
  if int then tyINT32.val v
  else if sc then
    let code := (byteAt buf (4 * n + 4 * (e / 64))).toNat
    if code = 255 then tyFP32.val tyFP32.nan else (tyFP32.val v).scale ((code : Int) - 127)
  else tyFP32.val v

/-- One word of a reduction applied. -/
def rredWord (int : Bool) (old : Cell) (v : Val) : Cell :=
  if int then BitVec.ofInt 32 (old.toInt + v.dy.1) else (sumRound tyFP32 ⟨0, false⟩ 0 [tyFP32.val old, v]).1

/-- RRED_APPLY (R287): the home memory unit applies every active element; its words on one line as one act. -/
def execRredApply (c : CoreIx) (s : State) : Host.Outcome State Fault Refusal :=
  .next (match s.engHead c 5 with
    | some e =>
      match e.op with
      | .rred _ dest n int sc mask =>
        if !e.started ∨ e.faulted.isSome ∨ 1 ≤ e.prog then s
        else if s.engCut c [(dest, 4 * n)] = some .wait then s
        else if s.engCut c [(dest, 4 * n)] = some (.ends 0x150) then s.engEnds c 0x150 0
        else
          match s.translateRange (s.ctxOf c) (dieOf c) none dest .atomic (4 * n) with
          | (.error f, t) => t.engFault c 5 e f
          | (.ok ps, t) =>
            let (old, t) := t.readPieces ps
            let new := (List.range n).flatMap (fun i =>
              let o := BitVec.ofNat 32 (fieldAt old (4 * i) 4)
              let on := match mask with
                | some m => m.getLsbD (i % 64)
                | none => true
              leBytes 4 (if on then rredWord int o (rredValue int sc e.buf n i) else o).toNat)
            (t.writePieces ps new).setHead c 5 { e with prog := 1 }
      | _ => s
    | none => s)

/-! ### Signals, waits and pushes (R288 to R290) -/

/-- Every operation of the core's queues issued before an order has performed. -/
def Core.engBefore (k : Core) (order : Nat) : Bool := k.eng.toList.all (fun q => q.all (fun e => decide (order ≤ e.order)))

/-- FSIG_PERFORM (R289): the oldest signal adds to its counter once every earlier operation has performed. -/
def execFsigPerform (c : CoreIx) (s : State) : Host.Outcome State Fault Refusal :=
  .next (match (s.core c).sigs with
    | [] => s
    | g :: rest =>
      if (s.core c).engBefore g.order then
        (s.addCounter (s.ctxOf c) g.n g.v).modCore c (fun k => { k with sigs := rest })
      else s)

/-- CWAIT_PASS (R290): the threshold is met, and the queue goes on. -/
def execCwaitPass (c : CoreIx) (q : BitVec 2) (s : State) : Host.Outcome State Fault Refusal :=
  .next (match s.engHead c q.toNat with
    | some e =>
      match e.op with
      | .cwait n t => if t.toNat ≤ ((s.ctx (s.ctxOf c)).counter n).toNat then s.popHead c q.toNat else s
      | _ => s
    | none => s)

/-- QPUSH_APPEND (R288, R67): once every earlier operation has performed, the entry is appended; a full ring makes it wait;
any other refusal ends the group. -/
def execQpushAppend (c : CoreIx) (s : State) : Host.Outcome State Fault Refusal :=
  .next (match s.engHead c 5 with
    | some e =>
      match e.op with
      | .qpush b q =>
        let n := s.ctxOf c
        if !(s.core c).engBefore e.order then s
        else if (s.ctx n).desc.qmax.toNat ≤ q.toNat then s.engEnds c 0x113 0
        else
          match s.appendRefused n q.toNat 1 with
          | some 5 => s
          | some _ => s.engEnds c 0x113 0
          | none => (s.appendEntries n q.toNat [b]).popHead c 5
      | _ => s
    | none => s)

end Sys2Proof.Machine
end

