-- ==== Sys2Proof/Machine/Scheduler.lean ====
section
/-! DEFINITION. The queue scheduler (R61 to R76, R87, R95): the head check, dispatch of each entry type, and one scheduling
decision of a partition. -/

namespace Sys2Proof.Machine

/-! ### Kernels as a LAUNCH sees them -/

/-- The kernel that a handle names (R83). -/
def Ctx.byHandle (c : Ctx) (h : BitVec 32) : Option (Nat × KRec) :=
  let i := (h.extractLsb' 0 6).toNat
  let k := c.kernel i
  if k.st ≠ .absent ∧ k.st ≠ .loading ∧ k.handle = h then some (i, k) else none

/-- Header fields of Table 4.1. -/
def hdGmin (h : List Byte) : Nat := fieldAt h 24 2
def hdGmax (h : List Byte) : Nat := fieldAt h 26 2
def hdPmin (h : List Byte) : Nat := fieldAt h 48 4
/-- The initial deckle; 0 rows or columns mean 64. -/
def hdShp (h : List Byte) : Word :=
  let r := (byteAt h 28).toNat
  let c := (byteAt h 29).toNat
  mkShp (byteAt h 30).toNat (if r = 0 then 64 else r) (if c = 0 then 64 else c)

/-- What a LAUNCH of a kernel fixes for its groups, under the feature mask of the context at the dispatch (R35, R80, R97). -/
def KRec.env (k : KRec) (fmask : BitVec 6) : GEnv :=
  let h := k.header
  { codeVa := k.codeVa, codeLen := k.range, entry := k.codeVa + BitVec.ofNat 64 k.entry, xbext := fieldAt h 36 4
    wbext := fieldAt h 40 4, gbext := fieldAt h 44 4, mode := k.mode, bmask := BitVec.ofNat 16 (fieldAt h 56 2), fmask := fmask
    fmt0 := BitVec.ofNat 32 (fieldAt h 32 4), shp0 := hdShp h }

/-! ### Partitions and dies (R30, R95) -/

/-- The partition of a context. -/
def State.partOf (s : State) (ctx : Nat) : Option Partition := (s.parts[(s.ctx ctx).desc.part.toNat % 64]?).getD none
/-- Cores of a cluster in a mask. -/
def maskIn (m : BitVec 512) (cl : ClusterIx) : List CoreIx :=
  ((List.range 8).map (fun i => coreIn cl (BitVec.ofNat 3 i))).filter (fun c => m.getLsbD c.toNat)
/-- The clusters of a die. -/
def clustersOf (d : BitVec 2) : List ClusterIx := (List.range 16).map (fun i => BitVec.ofNat 6 (16 * d.toNat + i))
/-- The cores of a partition on a die, as configured. -/
def maskOnDie (m : BitVec 512) (d : BitVec 2) : Nat := ((clustersOf d).map (fun c => (maskIn m c).length)).sum
/-- The mask holds on a die enough cores for a group of `n` under R30. -/
def dieHolds (m : BitVec 512) (d : BitVec 2) (n : Nat) : Bool :=
  if n ≤ 7 then (clustersOf d).any (fun c => decide (n ≤ (maskIn m c).length))
  else decide (ceilDiv n 8 ≤ ((clustersOf d).filter (fun c => decide ((maskIn m c).length = 8))).length)
/-- The eligible dies of a LAUNCH (R95). -/
def eligible (m : BitVec 512) (n : Nat) : List (BitVec 2) := allDies.filter (fun d => dieHolds m d n)

/-! ### The head check (R68, R71, R87) -/

/-- Bytes of an entry that its type leaves reserved are zero (Table 3.2). -/
def entryReservedOk (b : List Byte) : Bool :=
  let t := (byteAt b 0).toNat
  decide (byteAt b 53 = 0) &&
    (if t < 0x80 then !(byteAt b 1).getLsbD 7
     else decide ((byteAt b 1).extractLsb' 2 6 = 0) && zeroBytes b 2 2 &&
       (match t with
        | 0x80 => zeroBytes b 14 2 && zeroBytes b 28 24
        | 0x81 => zeroBytes b 5 3 && zeroBytes b 16 36
        | 0x82 => zeroBytes b 4 48
        | _ => zeroBytes b 4 4 && zeroBytes b 16 36))

/-- The checks of a LAUNCH (Table 3.4, R87): BADKERNEL, BADSIZE, BADALIGN. A group count above 16,777,215 (R71) is BADSIZE (log 150). -/
def State.launchCheck (s : State) (n : Nat) (b : List Byte) : Option Nat :=
  match (s.ctx n).byHandle (BitVec.ofNat 32 (fieldAt b 4 4)) with
  | none => some 3
  | some (_, k) =>
    if k.st ≠ .loaded ∧ k.st ≠ .active then some 3
    else
      let count := fieldAt b 8 4
      let cores := fieldAt b 12 2
      let plen := fieldAt b 24 4
      let m := ((s.partOf n).map (fun p => p.conf)).getD 0
      if count = 0 ∨ 16777215 < count ∨ cores = 0 ∨ 128 < cores ∨ 4096 < plen ∨ cores < hdGmin k.header ∨
          hdGmax k.header < cores ∨ plen < hdPmin k.header ∨ eligible m cores = [] then some 4
      else if fieldAt b 16 8 % 64 ≠ 0 then some 5
      else none

/-- The code of Table 3.4 with which an entry fails its head check. -/
def State.headCheck (s : State) (n : Nat) (b : List Byte) : Option Nat :=
  let t := (byteAt b 0).toNat
  if 0x84 ≤ t ∨ (t < 0x80 ∧ (t = 0 ∨ 9 < t)) then some 1
  else if !entryReservedOk b then some 2
  else if t = 0x80 then s.launchCheck n b
  else if t = 8 ∧ (s.ctx n).desc.fmask.getLsbD 3 then some 6
  else none

/-- A head that passed its check is dispatchable (R68, R70, R72 to R74). -/
def State.headReady (s : State) (n q : Nat) (b : List Byte) : Bool :=
  let r := s.queue n q
  let t := (byteAt b 0).toNat
  r.join.isEmpty && decide (r.inflight.length < 32) && (!(byteAt b 1).getLsbD 0 || decide (r.c = r.d)) &&
    (decide (t ≠ 0x82) || decide (r.c = r.d)) &&
    (decide (t ≠ 0x81) || decide (fieldAt b 8 8 ≤ ((s.ctx n).counter (byteAt b 4)).toNat))

/-! ### Dispatch -/

/-- The groups of a LAUNCH, dealt to the eligible dies (R95). -/
def launchGroups (first n kslot q seq count cores : Nat) (handle : BitVec 32) (param : Word) (plen : Nat) (env : GEnv)
    (prio : BitVec 3) (order : Nat) (dies : List (BitVec 2)) : List Group :=
  (List.range count).map (fun i =>
    { id := first + i, ctx := n, kslot := kslot, handle := handle, queue := q, seq := seq, index := i, count := count, n := cores
      st := .pending, started := false, cores := [], slots := [], param := param, plen := plen, env := env, bar := Barrier.start
      die := dies.getD (i % dies.length) 0, order := order, prio := prio, passed := false, saved := [], prog := [], faults := 0
      lullReq := false, tile := none, lost := [] })

/-- A LAUNCH dispatched (R95, Table 4.4). -/
def State.dispatchLaunch (s : State) (n q : Nat) (b : List Byte) (seq : Nat) : State :=
  let h : BitVec 32 := BitVec.ofNat 32 (fieldAt b 4 4)
  match (s.ctx n).byHandle h with
  | none => s
  | some (i, k) =>
    let count := fieldAt b 8 4
    let cores := fieldAt b 12 2
    let m := ((s.partOf n).map (fun p => p.conf)).getD 0
    let order := s.dispatched + 1
    let gs := launchGroups s.nextGroup n i q seq count cores h (BitVec.ofNat 64 (fieldAt b 16 8)) (fieldAt b 24 4)
      (k.env ((s.ctx n).desc.fmask.extractLsb' 0 6)) (s.queue n q).prio order (eligible m cores)
    let s : State := { s with groups := s.groups ++ gs, nextGroup := s.nextGroup + count, dispatched := order }
    let s := s.modKernel n i (fun k => { k with st := if k.st = .unloading then .unloading else .active, active := k.active + 1 })
    s.modQueue n q (fun r => { r with inflight := r.inflight ++ [{ seq := seq, bytes := b, launch := order, faulted := false }] })

/-- A tile record enters a director (R300): its node waits in arrival order. -/
def State.addTile (s : State) (lv : Level) (n : Nat) (src : TileSrc) (b : List Byte) (child : Nat) : State :=
  let id := s.tileCount + 1
  { s with tileCount := id
           tiles := s.tiles ++ [TileNode.fresh id lv n src b child] }

/-- The level path of a director or core (Table 13.3): level, die, cluster, core. -/
def levelPath (lv die cl core : Nat) : List Byte := leBytes 2 (lv * 8192 + die * 2048 + cl * 128 + core * 16)

/-- A TILE entry dispatched (R70, R301): a TACR goes to the span root, any other record to the package director. -/
def State.dispatchTile (s : State) (n q : Nat) (b : List Byte) (seq : Nat) : State :=
  let s := s.modQueue n q (fun r =>
    { r with inflight := r.inflight ++ [{ seq := seq, bytes := b, launch := 0, faulted := false }] })
  s.addTile (if recOp b = 8 then .span else .package) n (.entry n q seq) (setBytes b 2 (levelPath 5 0 0 0)) 0

/-- A QFENCE dispatched: its join is open over the counts that it recorded at the head (R74). -/
def State.dispatchQfence (s : State) (n q : Nat) (b : List Byte) (seq : Nat) (join : List (Nat × Nat)) : State :=
  s.modQueue n q (fun r =>
    { r with join := join, inflight := r.inflight ++ [{ seq := seq, bytes := b, launch := 0, faulted := false }] })

/-- The work of a dispatched entry begins; WAIT and SIGNAL complete at once (R70). -/
def State.startEntry (s : State) (n q : Nat) (b : List Byte) (seq : Nat) (join : List (Nat × Nat)) : State :=
  match (byteAt b 0).toNat with
  | 0x80 => s.dispatchLaunch n q b seq
  | 0x81 => s.entryDone n q { seq := seq, bytes := b, launch := 0, faulted := false } true
  | 0x82 => s.entryDone n q { seq := seq, bytes := b, launch := 0, faulted := false } true
  | 0x83 => s.dispatchQfence n q b seq join
  | _ => s.dispatchTile n q b seq

/-- The head dispatched: D advances (Table 3.3), and the next entry reaches the head. -/
def State.dispatch (s : State) (n q : Nat) (b : List Byte) : State :=
  let r := s.queue n q
  let s := s.modQueue n q (fun r => { r with d := r.d + 1, st := if r.d + 1 = r.a then .empty else .active, head := none, headOk := false })
  (s.startEntry n q b r.d (r.head.getD [(q, r.d)])).headArrives n q

/-! ### Decisions -/

/-- A join is met (R74): every recorded count reached. A queue that closes leaves every join (`State.closeQueue`). -/
def State.joinMet (s : State) (n : Nat) (join : List (Nat × Nat)) : Bool := join.all (fun p => decide (p.2 ≤ (s.queue n p.1).c))

/-- An open join of a queue settled: its QFENCE completes when it is met. -/
def State.settleJoin (s : State) (n q : Nat) : State :=
  let r := s.queue n q
  if r.join.isEmpty then s
  else if s.joinMet n r.join then
    let s := s.modQueue n q (fun r => { r with join := [] })
    match r.inflight.find? (fun e => decide ((byteAt e.bytes 0).toNat = 0x83)) with
    | some e => s.entryDone n q e true
    | none => s
  else s

/-- Every open join of a context settled, as its queues complete entries in whatever state it is (R69). -/
def State.settleJoins (s : State) (n : Nat) : State :=
  if (s.ctx n).queues.toList.any (fun r => !r.join.isEmpty) then (List.range 64).foldl (fun s q => s.settleJoin n q) s else s

/-- The code with which the head of a queue fails; one that has passed its check is not checked again (R71, R87). -/
def State.headFails (s : State) (n q : Nat) : Option Nat := if (s.queue n q).headOk then none else s.headCheck n (s.headBytes n q)

/-- The head of a queue examined (Table 3.3): a failed check is an error; else the queue is ACTIVE or BLOCKED. An entry is examined in its
context's turn (R76), whenever it reached the head (log 117). -/
def State.examine (s : State) (n q : Nat) : State :=
  let s := s.headArrives n q
  let r := s.queue n q
  if (r.st = .active ∨ r.st = .blocked) ∧ r.d ≠ r.a ∧ !r.event ∧ (s.headEntry n q).isSome then
    match s.headFails n q with
    | some e => s.queueError n q e r.d true
    | none => s.modQueue n q (fun r => { r with headOk := true, st := if s.headReady n q (s.headBytes n q) then .active else .blocked })
  else s

/-- Open work queues of a context that hold a dispatchable head. -/
def State.readyQueues (s : State) (n : Nat) : List Nat :=
  (List.range 64).filter (fun q =>
    let r := s.queue n q
    decide (r.st = .active) && decide (r.d ≠ r.a) && !r.event && r.headOk && (s.headEntry n q).isSome &&
      s.headReady n q (s.headBytes n q))

/-- The queue that the decision of R75 picks: highest priority, then the next number after the last served, wrapping. -/
def State.pickQueue (s : State) (n : Nat) : Option Nat :=
  let ready := s.readyQueues n
  ((List.range 8).reverse).findSome? (fun pr =>
    let last := ((s.ctx n).lastServed[pr]?).getD 63
    ((List.range 64).map (fun i => (last + 1 + i) % 64)).find? (fun q =>
      ready.contains q && decide ((s.queue n q).prio.toNat = pr)))

/-- A context may dispatch (Table 2.2). -/
def Ctx.dispatches (c : Ctx) : Bool := decide (c.st = .ready) || decide (c.st = .migrating)

/-- One decision for the active context of a partition (R75). -/
def State.decide1 (s : State) (n : Nat) : State :=
  if !(s.ctx n).dispatches then s
  else
    let s := (List.range 64).foldl (fun s q => s.examine n q) (s.settleJoins n)
    match s.pickQueue n with
    | none => s
    | some q =>
      let pr := (s.queue n q).prio.toNat
      let s := s.dispatch n q (s.headBytes n q)
      s.modCtx n (fun c => { c with lastServed := c.lastServed.set! pr q })

/-- The scheduler of every partition decides once (R75). -/
def State.schedule (s : State) : State :=
  (s.parts.toList.filterMap (fun p => p.bind (fun p => p.active))).foldl State.decide1 s

/-- A head of a context that its own decision would dispatch, or find faulty (R76). -/
def State.headCounts (s : State) (n q : Nat) : Bool :=
  let s := s.settleJoin n q
  let r := s.queue n q
  (decide (r.st = .active) || decide (r.st = .blocked)) && decide (r.d ≠ r.a) && !r.event && (s.headEntry n q).isSome &&
    ((s.headFails n q).isSome || s.headReady n q (s.headBytes n q))

/-- A context qualifies for its slice (R76): a head that counts, or pending or lulled groups. -/
def State.qualifies (s : State) (n : Nat) : Bool :=
  (s.ctx n).dispatches && ((List.range 64).any (fun q => s.headCounts n q) ||
    s.groups.any (fun g => decide (g.ctx = n) && (decide (g.st = .pending) || decide (g.st = .saved))))

end Sys2Proof.Machine
end

