-- ==== Sys2Proof/Machine/GroupEvents.lean ====
section
/-! DEFINITION. The life of a group (05_group): placement (R30, R31, R77, R95 to R97), the lull (R113), the frame of a saved
core (Tables 5.3 and 5.5, R116), couch restore (R117), the end (R99), slices (R76) and core substitution (R17, R18). -/

namespace Sys2Proof.Machine

/-! ### Free cores (R30) -/

/-- A group of whole clusters holds a cluster: cores left over in its last one stay idle. -/
def State.wholeHeld (s : State) (cl : ClusterIx) : Bool :=
  s.groups.any (fun g => decide (8 ≤ g.n) && g.cores.any (fun c => decide (clusterOf c = cl)))

/-- A core can take a core of a group: no group on it, not failed, its cluster live, buffers as large as the extents. -/
def State.coreFree (s : State) (e : GEnv) (c : CoreIx) : Bool :=
  let k := s.core c
  k.grp.isNone && decide (k.ctl.st = .idle) && !(s.cluster (clusterOf c)).retired && !(s.die (dieOf c)).lost &&
    !s.wholeHeld (clusterOf c) && decide (e.xbext ≤ k.xbCap ∧ e.wbext ≤ k.wbCap ∧ e.gbext ≤ k.gbCap)

/-- Free cores of a cluster within a partition's mask. -/
def State.freeIn (s : State) (m : BitVec 512) (e : GEnv) (cl : ClusterIx) : List CoreIx := (maskIn m cl).filter (s.coreFree e)

/-- The cores that a group of `n` takes on a die, in index order, if it fits: one cluster, or whole clusters; the lowest
that fit are taken (log 13). -/
def State.fit (s : State) (m : BitVec 512) (e : GEnv) (d : BitVec 2) (n : Nat) : Option (List CoreIx) :=
  if n ≤ 7 then
    ((clustersOf d).find? (fun cl => decide (n ≤ (s.freeIn m e cl).length))).map (fun cl => (s.freeIn m e cl).take n)
  else
    let whole := (clustersOf d).filter (fun cl => decide ((s.freeIn m e cl).length = 8))
    if ceilDiv n 8 ≤ whole.length then some (((whole.take (ceilDiv n 8)).flatMap (fun cl => s.freeIn m e cl)).take n) else none

/-- Frame slots allow the first placement of a group (R114). -/
def State.slotsAllow (s : State) (g : Group) : Bool :=
  if g.started then true
  else
    let used := (s.slotsUsed.filter (fun p => decide (p.1 = g.ctx))).length
    let live := ((s.groups.filter (fun h => decide (h.ctx = g.ctx) && !h.cores.isEmpty)).map (fun h => h.cores.length)).sum
    decide (live + g.n ≤ 1024 - used)

/-! ### Starting a group (Table 4.6) -/

/-- The registers of a core at group start. -/
def startX (g : Group) (rank : Nat) : Vector Word 32 :=
  if g.tile.isSome then Vector.replicate 32 0
  else
    let v (i : Nat) : Word :=
      match i with
      | 1 => g.param
      | 2 => BitVec.ofNat 64 g.index
      | 3 => BitVec.ofNat 64 g.count
      | 4 => BitVec.ofNat 64 rank
      | 5 => BitVec.ofNat 64 g.n
      | 6 => BitVec.ofNat 64 g.plen
      | _ => 0
    Vector.ofFn (fun i => v i.val)

/-- A core as a new group finds it (R97): its buffers zero, or kept from the same context. -/
def Core.start (k : Core) (g : Group) (rank : Nat) (keep : Bool) : Core :=
  let kept := keep && decide (k.lastCtx = g.ctx)
  { k with
    ctl := { Ctl.reset with pc := g.env.entry, st := .run, markNext := g.tile.isNone }
    x := startX g rank, k := Vector.replicate 8 0, fmt := g.env.fmt0.setWidth 64, shp := g.env.shp0
    rs := Restart.reset, region := Region.none, grid := Grid.reset
    xb := if kept then k.xb else [], wb := if kept then k.wb else [], gb := if kept then k.gb else []
    eng := Vector.replicate 6 [], sigs := [], order := 0, tissued := [], seqr := none, part := none, icache := [], utlb := []
    grp := some g.id, lastCtx := g.ctx }

/-- A group that has never run is placed on cores (R99). -/
def State.startGroup (s : State) (g : Group) (cs : List CoreIx) : State :=
  let keep := Config.keepsBuffers s.free
  let s : State := { s with free := s.free + 1 }
  let s := cs.zipIdx.foldl (fun s p => s.modCore p.1 (fun k => k.start g p.2 keep)) s
  let s := s.modGroup g.id (fun g => { g with st := .resident, started := true, cores := cs, passed := false })
  s.modCtx g.ctx (fun c => { c with coresUsed := cs.foldl (fun m k => m ||| (1#512 <<< k.toNat)) c.coresUsed })

/-- A saved group is placed again: couch restore begins (R99, R117). -/
def State.restoreGroup (s : State) (g : Group) (cs : List CoreIx) : State :=
  let s := cs.foldl (fun s c => s.modCore c (fun k =>
    { k.release with grp := some g.id, lastCtx := g.ctx, ctl := { k.ctl.idle with st := .stopped } })) s
  let s := s.modGroup g.id (fun h => { h with
    st := .restoring, cores := cs, passed := false
    prog := (List.range cs.length).map (fun r => { rank := r, next := 0, mask := 0, fault := none }) })
  s.modCtx g.ctx (fun c => { c with coresUsed := cs.foldl (fun m k => m ||| (1#512 <<< k.toNat)) c.coresUsed })

def State.tile (s : State) (id : Nat) : Option TileNode := s.tiles.find? (fun t => decide (t.id = id))
/-- The record and its ancestors, up to the one at the issuing level. -/
def State.chain (s : State) : Nat → Nat → List TileNode
  | 0, _ => []
  | n + 1, id =>
    match s.tile id with
    | none => []
    | some t =>
      match t.src with
      | .parent p => t :: State.chain s n p
      | _ => [t]
/-- The record of the issuing level. -/
def State.rootOf (s : State) (id : Nat) : Option TileNode := (s.chain 6 id).getLast?

/-- The present priority of a group's own queue (R77, R64). -/
def State.queuePrio (s : State) (g : Group) : Nat := (s.queue g.ctx g.queue).prio.toNat
/-- The priority that a group is placed under: its queue's present one (R77, R64); for a tile group, that of the queue which carried the record, or
that of the issuing group (R303), and the one it was made with when that has ended. -/
def State.prioOf (s : State) (g : Group) : Nat :=
  match g.tile with
  | none => s.queuePrio g
  | some id =>
    match s.rootOf id with
    | none => g.prio.toNat
    | some r =>
      match r.src with
      | .entry n q _ => (s.queue n q).prio.toNat
      | .tissue _ i _ _ => ((s.group i).map s.queuePrio).getD g.prio.toNat
      | .parent _ => g.prio.toNat

/-- Order among the pending groups of a die (R76, R77): saved ones first, then priority, dispatch order, group index. -/
def State.before (s : State) (a b : Group) : Bool :=
  if a.started != b.started then a.started
  else if s.prioOf a ≠ s.prioOf b then decide (s.prioOf b < s.prioOf a)
  else if a.order ≠ b.order then decide (a.order < b.order) else decide (a.index ≤ b.index)

/-- A group put into a list in order. -/
def insertGroup (le : Group → Group → Bool) (g : Group) : List Group → List Group
  | [] => [g]
  | h :: t => if le g h then g :: h :: t else h :: insertGroup le g t

/-- The context of a group has its partition's turn (R76). -/
def State.hasTurn (s : State) (ctx : Nat) : Bool :=
  (s.ctx ctx).dispatches && (match s.partOf ctx with
    | some p => decide (p.active = some ctx)
    | none => false)

/-- A group that has run still waits to be restored in its context's turn, or is being restored; one that the cores its partition has left
could no longer hold does not count. -/
def State.awaitsRestore (s : State) (g : Group) : Bool :=
  decide (g.st = .restoring) || decide (g.st = .pending) && g.started &&
    ((s.partOf g.ctx).map (fun p => allDies.any (fun d => dieHolds p.mask d g.n))).getD false
/-- A group that has never run waits until the saved groups of its context have been restored (R76). -/
def State.behindSaved (s : State) (g : Group) : Bool :=
  !g.started && s.groups.any (fun h => decide (h.ctx = g.ctx) && s.awaitsRestore h)

/-- Pending groups on the list of a die whose context has its turn, the new ones behind every saved one (R76). -/
def State.pendingAt (s : State) (d : BitVec 2) : List Group :=
  s.groups.filter (fun g => decide (g.st = .pending ∧ g.die = d) && s.hasTurn g.ctx && !s.behindSaved g)
/-- A group of a context has been passed over for 100 µs on a die: no other group of the context is placed there (R77). -/
def State.shutOut (s : State) (d : BitVec 2) (ctx : Nat) : Bool := (s.pendingAt d).any (fun h => decide (h.ctx = ctx) && h.passed)

/-- Pending groups of a die that may be placed, in order; a group passed over for 100 µs shuts out the others of its
context (R77). -/
def State.pendingOn (s : State) (d : BitVec 2) : List Group :=
  ((s.pendingAt d).filter (fun g => g.passed || !s.shutOut d g.ctx)).foldr (insertGroup s.before) []

/-- A record holds a place at a cluster director. -/
def TileNode.holdsAt (t : TileNode) (cl : ClusterIx) : Bool :=
  decide (t.level = .cluster cl) && decide (t.st ≠ .complete) && decide (t.st ≠ .failed)

/-- A cluster can take over the record of a tile group: it is the record's own, or the record came from the die director
and the cluster's director has a place and no tile group (R303, R304: the next free placement). -/
def State.takesTile (s : State) (t : TileNode) (own cl : ClusterIx) : Bool :=
  decide (cl = own) ||
    ((match t.src with
      | .parent _ => true
      | _ => false) &&
      decide ((s.tiles.filter (fun u => u.holdsAt cl)).length < 4) &&
      !s.tiles.any (fun u => u.holdsAt cl && u.group.isSome))

/-- The cores on which a group may stand: those of its partition, for a tile group those of the clusters that can take its
record (R303). -/
def State.maskOf (s : State) (g : Group) (m : BitVec 512) : BitVec 512 :=
  match g.tile.bind (fun id => s.tiles.find? (fun t => decide (t.id = id))) with
  | none => m
  | some t =>
    match t.level with
    | .cluster own => ((clustersOf (BitVec.ofNat 2 (own.toNat / 16))).filter (s.takesTile t own)).foldl (fun a cl => a ||| (m &&& (0xFF#512 <<< (8 * cl.toNat)))) 0
    | _ => m

/-- The record of a tile group, with its core records, follows its group to the cluster where it is placed. -/
def State.moveTile (s : State) (id : Nat) (cl : ClusterIx) : State :=
  { s with tiles := s.tiles.map (fun t =>
      match t.level, t.src with
      | .cluster _, _ => if t.id = id then { t with level := .cluster cl } else t
      | .core _, .parent p => if p = id then { t with level := .core (coreIn cl (BitVec.ofNat 3 t.child)) } else t
      | _, _ => t) }

/-- The cores on which a group would be placed. -/
def State.placeOf (s : State) (d : BitVec 2) (g : Group) : Option (List CoreIx) :=
  if !s.slotsAllow g then none
  else
    match s.partOf g.ctx with
    | some p => s.fit (s.maskOf g p.mask) g.env d g.n
    | none => none

/-- The home die of a page of a context, whatever rights its mapping gives; none where none of them does. -/
def State.pageHome (s : State) (n : Nat) (va : Word) : Option (BitVec 2) :=
  [AccKind.read, .fetch, .write].findSome? (fun k =>
    match s.walk n va k with
    | .ok x => some (homeDie x.pa)
    | .error _ => none)
/-- A virtual range of a context lies, where it is mapped, on dies that a die reaches. -/
def State.rangeNear (s : State) (n : Nat) (d : BitVec 2) (va : Word) (len : Nat) : Bool :=
  (List.range ((va.toNat + len + 65535) / 65536 - va.toNat / 65536)).all (fun i =>
    ((s.pageHome n (BitVec.ofNat 64 ((va.toNat / 65536 + i) * 65536))).map (s.dieReach d)).getD true)
/-- A group's code and parameters are reachable from a die (R31). -/
def State.groupNear (s : State) (d : BitVec 2) (g : Group) : Bool :=
  allDies.all (fun e => s.dieReach d e) || (s.rangeNear g.ctx d g.env.codeVa g.env.codeLen && s.rangeNear g.ctx d g.param g.plen)

/-- The group that a die with none of its own placeable takes from another (R31, R96): of the kernels pending elsewhere, the
first in placement order; from the die with the most pending groups of it, the lowest on a tie; its highest index, of two LAUNCHes
that share it the one met first (log 118). -/
def State.stealable (s : State) (d : BitVec 2) : Option (Group × List CoreIx) :=
  let others := (allDies.filter (fun e => decide (e ≠ d))).flatMap (fun e =>
    (s.pendingAt e).filter (fun g => g.tile.isNone && !s.shutOut d g.ctx && s.groupNear d g))
  (others.foldr (insertGroup s.before) []).findSome? (fun g =>
    let same (h : Group) : Bool := decide (h.ctx = g.ctx ∧ h.kslot = g.kslot ∧ h.handle = g.handle)
    if (s.pendingOn d).any (fun h => same h && (s.placeOf d h).isSome) then none
    else
      let count (e : BitVec 2) : Nat := (others.filter (fun h => same h && decide (h.die = e))).length
      let from_ := allDies.foldl (fun b e => if count b < count e then e else b) (allDies.headD 0)
      let cand := (others.filter (fun h => same h && decide (h.die = from_))).foldl
        (fun (b : Group) h => if b.die = from_ ∧ h.index ≤ b.index then b else h) g
      (s.placeOf d cand).map (fun cs => (cand, cs)))

/-- A pending group placed, whole (R30). -/
def State.place (s : State) (d : BitVec 2) (g : Group) (cs : List CoreIx) : State :=
  let s := s.modGroup g.id (fun g => { g with die := d })
  let s := match g.tile, cs with
    | some id, c :: _ => s.moveTile id (clusterOf c)
    | _, _ => s
  if g.started then s.restoreGroup g cs else s.startGroup g cs

/-- GROUP_PLACEMENT (R99, R30, R31, R77, R96): the dispatcher of a die places the first pending group that fits, or steals
one. -/
def execGroupPlacement (d : BitVec 2) (s : State) : Host.Outcome State Fault Refusal :=
  .next (match (s.pendingOn d).findSome? (fun g => (s.placeOf d g).map (fun cs => (g, cs))) with
    | some (g, cs) => s.place d g cs
    | none =>
      match s.stealable d with
      | some (g, cs) => s.place d g cs
      | none => s)

/-- PASS_OVER_TIMEOUT (R77). -/
def execPassOverTimeout (g : Nat) (s : State) : Host.Outcome State Fault Refusal :=
  .next (match s.group g with
    | some h => if h.st = .pending then s.modGroup g (fun h => { h with passed := true }) else s
    | none => s)

/-! ### The lull (R113) -/

/-- The sequencer stands at an interruption point (R312): after the accumulate step of a K-block, of an opcode that has one, or after a
write-back. One that has not started, or waits at a CSYNC, which a lull ends (R199), stops too. -/
def Seqr.atPoint (q : Seqr) : Bool :=
  (decide (q.phase = 0 ∧ q.sub ≠ 0)) || (decide (q.phase = 2) && decide (recOp q.bytes = 1 ∨ recOp q.bytes = 3 ∨ recOp q.bytes = 8)) ||
    decide (q.phase = 1 ∧ q.kblk ≠ 0) || !q.ready || q.sync

/-- A queue of a core awaits a host's reply to a chunk (R397). -/
def State.chunkOut (s : State) (c : CoreIx) (q : Nat) : Bool := s.hostReqs.any (fun r => decide (r.core = c ∧ r.queue.toNat = q))

/-- The started operation at the head of a queue runs on in a lull (R278); after CTX_MIGRATE it is stopped at its progress point instead and
kept, a copy between chunks (R52). -/
def State.headRuns (s : State) (c : CoreIx) (migrating : Bool) (q : Nat) : Bool :=
  match (s.core c).engQ q with
  | e :: _ => e.started && (!migrating || e.faulted.isNone && s.chunkOut c q)
  | [] => false

/-- A core has an operation that a lull lets run on. -/
def State.mustRun (s : State) (c : CoreIx) (migrating : Bool) : Bool := (List.range 6).any (s.headRuns c migrating)

/-- The group's lull follows CTX_MIGRATE (R52). -/
def State.migrating (s : State) (g : Group) : Bool := decide ((s.ctx g.ctx).st = .migrating) || (s.ctx g.ctx).lulledMig

/-- A core stops within a packet behind an irrevocable operation that has performed (R105; log 136): its registers as they stand take the
place of the mark's, and the results that have not landed are kept with the packet. -/
def Core.stopPart (k : Core) : Core :=
  { k with
    rs := { k.rs with
      shadow := { x := k.x, k := k.k, fmt := k.fmt, shp := k.shp, pc := k.ctl.pc, fwd := k.rs.fwd
                  fillN := k.grid.queues.map (fun q => q.fillN), inTrap := k.ctl.inTrap }
      log := [], logPos := 0, pend := [] }
    part := k.part.map (fun p => { p with pend := k.rs.pend.map (fun e => { e with due := e.due - k.rs.issue, arr := 0 }) }) }

/-- A packet that a lull keeps in the grid instruction queue (R113): one before the mark; behind the mark the packet of a couch operation
that has started (R119, R120), and one whose VST has performed (R216) or that the mark has left behind (log 136). -/
def Core.keepsPkt (k : Core) (mark : Nat) (stored : List Nat) (p : GridPkt) : Bool :=
  decide (p.fwd < mark) || k.grid.couch.active && decide (p.fwd = k.grid.stopIndex) || stored.contains p.fwd ||
    k.keptPart && decide (p.fwd = mark)

/-- A core stops (R113 steps 1 to 4, R118): rollback, the grid stop, discarded entries but the translated ranges of fills
still to be popped, and the packets to keep. Younger packets are discarded, and forwarded again (R108). -/
def Core.lullStop (k : Core) : Core :=
  let stored := (k.grid.pkts.filter (fun p => p.xfers.any (fun x => x.st))).map (fun p => p.fwd)
  let k := if k.keptPart then k.stopPart else k.rollback
  let k := k.gridStop
  let g := k.grid
  let kept := g.giq.filter (k.keepsPkt k.rs.fwd stored)
  { k with
    ctl := { k.ctl with st := .stopped, wait := none }
    grid := { g with giq := kept, fwdCount := kept.foldl (fun n p => max n (p.fwd + 1)) (max g.stopIndex k.rs.fwd) } }

/-- A core that a lull request stops now: it issues, replays or waits, outside a timed region (R323), not between the completion of a CSYNC
and its performance (R199), its sequencer at an interruption point. -/
def Core.stopsNow (k : Core) : Bool :=
  (decide (k.ctl.st = .run) || decide (k.ctl.st = .replay) || decide (k.ctl.st = .rollback)) && !k.timed &&
    k.ctl.csyncAt.isNone &&
    (match k.seqr with
     | some q => q.atPoint
     | none => true)

/-- The grid side of a core has done what it can (R202): every packet has retired, or the head lacks entries that no fill brings. -/
def Core.gridDone (k : Core) : Bool := k.grid.pkts.isEmpty && (k.grid.giq.isEmpty || k.grid.starved)

/-- The wait of a core at a BARW has been released by the phase's completion (R328): it stops after its BARW. -/
def State.released (s : State) (c : CoreIx) : Bool :=
  match (s.core c).ctl.wait, (s.core c).grp.bind s.group with
  | some (.barw b), some g => g.barPassed (g.rankOf c) b
  | _, _ => false

/-- One core at a lull request (R113): an implicit mark that is due is taken (R105), and the core stops. -/
def State.lullCore (s : State) (c : CoreIx) : State :=
  if !(s.core c).stopsNow || s.released c then s
  else
    let due := (s.core c).ctl.markNext && !(s.core c).keptPart
    if due ∧ !(s.core c).markReady then s
    else (if due then s.takeMark c else s).modCore c Core.lullStop

/-- No CPYB of another group is performing into a buffer of a core (R278). -/
def State.noneAimed (s : State) (c : CoreIx) : Bool :=
  (List.range 8).all (fun i =>
    let d := coreIn (clusterOf c) (BitVec.ofNat 3 i)
    decide ((s.core d).grp = (s.core c).grp) ||
      (s.core d).eng.toList.all (fun q => q.all (fun e => !(e.started && e.faulted.isNone && (match e.op with
        | .copy t _ _ _ _ _ => decide (t.peer = some c)
        | _ => false)))))

/-- Every core of a group has stopped or exited, what a lull lets run has run, and no other group's CPYB performs into its buffers. -/
def State.lullQuiet (s : State) (g : Group) : Bool :=
  g.cores.all (fun c => (decide ((s.core c).ctl.st = .stopped) || decide ((s.core c).ctl.st = .exited) && (s.core c).gridDone) &&
    !s.mustRun c (s.migrating g) && s.noneAimed c)

/-- The frame slots of a group, allocated at its first save (R114): the lowest free ones of its context. -/
def State.allocSlots (s : State) (g : Group) : List Nat × State :=
  if !g.slots.isEmpty then (g.slots, s)
  else
    let free := ((List.range 1024).filter (fun i => !s.slotsUsed.contains (g.ctx, i))).take g.cores.length
    (free, { s with slotsUsed := s.slotsUsed ++ free.map (fun i => (g.ctx, i)) })

/-- The physical address of a frame slot (R114). -/
def State.framePa (s : State) (ctx slot : Nat) : Nat := s.savebase.toNat + ((ctx - 1) * 1024 + slot) * 0x420000

/-- GROUP_LULL (R113, R100): every core that can stop stops; once all have, the save begins. A group in RESTORING goes to
LULLING at once, its frames untouched. -/
def execGroupLull (gid : Nat) (s : State) : Host.Outcome State Fault Refusal :=
  .next (match s.group gid with
    | none => s
    | some g =>
      if g.st = .restoring then s.modGroup gid (fun g => { g with st := .lulling, prog := [], lullReq := false })
      else if g.st ≠ .resident then s
      else
        let s := g.cores.foldl State.lullCore s
        if (s.group gid).map (fun g => g.st) ≠ some .resident then s
        else if s.lullQuiet g then
          let (slots, s) := s.allocSlots g
          s.modGroup gid (fun g => { g with
            st := .lulling, slots := slots, lullReq := false
            prog := (List.range g.cores.length).map (fun r => { rank := r, next := 0, mask := 0, fault := none }) })
        else s.modGroup gid (fun g => { g with lullReq := true }))

/-! ### The frame (Tables 5.3 and 5.5) -/

/-- Adjacent pieces joined. -/
def joinPieces : List (Nat × Nat) → List (Nat × Nat)
  | (a, n) :: r =>
    match joinPieces r with
    | (b, m) :: t => if a + n = b then (a, n + m) :: t else (a, n) :: (b, m) :: t
    | [] => [(a, n)]
  | [] => []

/-- A fill descriptor of 16 bytes (log 14): the first piece's address and length, the space and kind, and the second's
address; the lengths of two pieces sum to 256. -/
def fillDesc (src : FillSrc) : List Byte :=
  let sp : Nat := match src.space with
    | .xb => 0
    | .wb => 1
    | .gb => 2
    | .dm => 3
  match joinPieces src.pieces with
  | (a, n) :: r => leBytes 6 a ++ leBytes 2 n ++ leBytes 6 ((r.head?.map Prod.fst).getD 0) ++
      [BitVec.ofNat 8 (sp + (if src.transpose then 4 else 0)), BitVec.ofNat 8 ((r.head?.map Prod.snd).getD 0)]
  | [] => List.replicate 16 0
/-- The source range of a descriptor. -/
def descSrc (b : List Byte) : FillSrc :=
  let f := (byteAt b 14).toNat
  let n2 := (byteAt b 15).toNat
  { space := match f % 4 with
      | 0 => .xb
      | 1 => .wb
      | 2 => .gb
      | _ => .dm
    transpose := decide (4 ≤ f)
    pieces := (fieldAt b 0 6, fieldAt b 6 2) :: (if n2 = 0 then [] else [(fieldAt b 8 6, n2)]) }

/-- Kind, operation and value of a forwarded write (Table 5.5). -/
def swBytes : Option SWrite → Word × Nat × Nat
  | none => (0, 0, 0)
  | some (.seed v) => (v, 1, 0)
  | some (.flags op v) => (v, 2, op.toNat)
  | some (.couch op v) => (v, 3, op.toNat)
  | some (.couchm op v) => (v, 4, op.toNat)
  | some (.kreg i v) => (v, 5, i.toNat)
def swOf (kind op : Nat) (v : Word) : Option SWrite :=
  match kind with
  | 1 => some (.seed v)
  | 2 => some (.flags (BitVec.ofNat 2 op) v)
  | 3 => some (.couch (BitVec.ofNat 2 op) v)
  | 4 => some (.couchm (BitVec.ofNat 2 op) v)
  | 5 => some (.kreg (BitVec.ofNat 3 op) v)
  | _ => none
/-- A transfer's word of Table 5.5. -/
def xferWord (x : Xfer) : Nat := x.row.toNat + 64 * x.st.toNat + 128 * x.gb.toNat + 256 * (x.addr % 2 ^ 21)
def xferOf (w : Nat) : Xfer :=
  { row := BitVec.ofNat 6 w, st := w.testBit 6, gb := w.testBit 7, addr := w / 256 % 2 ^ 21 }

/-- A slot word selects its bundle's literal (R156): it does not decode without one. -/
def selectsLit (k : SlotKind) (w : Cell) : Bool :=
  match decodeSlot k none w with
  | .error .literalMissing => true
  | _ => false
/-- The literals that the grid slots of a packet select, in program order. -/
def GridPkt.literals (p : GridPkt) : List Cell :=
  (p.m.toList.filter (fun g => selectsLit .m g.word)).filterMap (fun g => g.lit) ++
    (p.v.filter (fun g => selectsLit .v g.word)).filterMap (fun g => g.lit)

/-- An entry of the grid-queue image (Table 5.5). -/
def GridPkt.image (p : GridPkt) : List Byte :=
  let v (i : Nat) : Nat := ((p.v[i]?).map (fun g => g.word.toNat)).getD 0
  let lits := p.literals
  let (sv, kind, op) := swBytes p.sw
  leBytes 4 ((p.m.map (fun g => g.word.toNat)).getD 0) ++ leBytes 4 (v 0) ++ leBytes 4 (v 1) ++
    leBytes 4 ((lits.head?.map (fun c => c.toNat)).getD 0) ++ leBytes 8 p.fmt.toNat ++ leBytes 8 p.shp.toNat ++
    leBytes 8 sv.toNat ++ [BitVec.ofNat 8 kind, BitVec.ofNat 8 op, BitVec.ofNat 8 p.xfers.length,
      BitVec.ofNat 8 (p.m.isSome.toNat + 2 * (decide (0 < p.v.length)).toNat + 4 * (decide (1 < p.v.length)).toNat)] ++
    leBytes 4 ((p.xfers[0]?.map xferWord).getD 0) ++ leBytes 4 ((p.xfers[1]?.map xferWord).getD 0) ++ leBytes 4 0 ++
    leBytes 8 p.addr.toNat

/-- A slot read back from its word. -/
def slotOf (k : SlotKind) (lit w : Cell) : Option GSlot :=
  match decodeSlot k (some lit) w with
  | .ok i => some ⟨i, w, some lit⟩
  | .error _ => none

/-- A packet read back from the image. -/
def pktOf (b : List Byte) (fwd : Nat) : GridPkt :=
  let w (i : Nat) : Cell := BitVec.ofNat 32 (fieldAt b i 4)
  let has (i : Nat) : Bool := (byteAt b 43).getLsbD i
  { fwd := fwd, addr := BitVec.ofNat 64 (fieldAt b 56 8), fmt := BitVec.ofNat 64 (fieldAt b 16 8)
    shp := BitVec.ofNat 64 (fieldAt b 24 8)
    sw := swOf (byteAt b 40).toNat (byteAt b 41).toNat (BitVec.ofNat 64 (fieldAt b 32 8))
    xfers := ((List.range (byteAt b 42).toNat).map (fun i => xferOf (fieldAt b (44 + 4 * i) 4)))
    m := if has 0 then slotOf .m (w 12) (w 0) else none
    v := (if has 1 then (slotOf .v (w 12) (w 4)).toList else []) ++ (if has 2 then (slotOf .v (w 12) (w 8)).toList else [])
    log := [] }

/-- A packet of the image with the literals of its slots as they were kept (log 60). -/
def GridPkt.withLits (p : GridPkt) (l : List (Option Cell)) : GridPkt :=
  let put (g : GSlot) (i : Nat) : GSlot := { g with lit := l.getD i g.lit }
  { p with m := p.m.map (fun g => put g 0), v := p.v.zipIdx.map (fun g => put g.1 (g.2 + p.m.isSome.toNat)) }

/-- The state word of the frame (Table 5.3). -/
def Core.frameState (k : Core) : Nat := if k.ctl.st = .exited then 1 else if k.ctl.inTrap then 2 else 0

/-- sr.couch as it is read, at the stop. -/
def Couch.frame (c : Couch) : Word := c.word

/-- The fills of a queue that a save keeps: sequences P to Fm - 1 (R113). -/
def OpQueue.keptFills (q : OpQueue) : List QEntry := (q.entries.filter (fun e => decide (q.p ≤ e.seq ∧ e.seq < q.fillN))).take 8
/-- Their descriptors. -/
def OpQueue.descs (q : OpQueue) : List Byte := (q.keptFills.flatMap (fun (e : QEntry) => fillDesc e.src) ++ List.replicate 128 0).take 128

/-- Offsets 0x0000 to 0x0FFF of the frame (Table 5.3). -/
def Core.frameHead (k : Core) (mask : Word) : List Byte :=
  let g := k.grid
  let w (v : Word) : List Byte := leBytes 8 v.toNat
  let qs := g.queues.toList
  w k.ctl.pc ++ leBytes 8 k.rs.fwd ++ leBytes 8 g.stopIndex ++ w mask ++ w g.couch.frame ++ w g.couch.mask ++
    leBytes 8 g.flags.toNat ++ w k.fmt ++ w k.shp ++ leBytes 8 k.frameState ++
    qs.flatMap (fun q => leBytes 8 q.p ++ leBytes 8 q.fillN) ++
    [BitVec.ofNat 8 g.giq.length, BitVec.ofNat 8 k.rs.log.length] ++ List.replicate 46 0 ++
    k.x.toList.flatMap w ++ k.k.toList.flatMap w ++ g.e.toList.flatMap (fun r => r.toList) ++
    g.qs.toList.flatMap (fun q => leBytes 4 q.scale.toNat ++ leBytes 2 q.zp.toNat ++ leBytes 2 0) ++
    ((k.rs.log.flatMap (fun (v : Option Word) => w (v.getD 0))) ++ List.replicate 256 0).take 256 ++
    w k.ctl.tvec ++ w k.ctl.epc ++ w k.ctl.cause ++ w k.ctl.tval ++ List.replicate 96 0 ++
    g.gens.toList.flatMap w ++ qs.flatMap OpQueue.descs ++ List.replicate 1024 0

/-- The grid-queue image at offset 0x5000. -/
def Core.frameImage (k : Core) : List Byte := (k.grid.giq.take 64).flatMap GridPkt.image

/-! ### Saving (R116) -/

/-- A range of a buffer written to physical memory: the lines' counters advance as for any write. -/
def State.putBlit (s : State) (pa : Nat) (src : Memory) (sa n : Nat) : State :=
  let s := s.countLines pa n
  { s with mem := s.mem.blit pa src sa n }

/-- The fault of a frame access (R116): the frame is not bound to the context, or lies outside the regions. -/
def State.frameFault (s : State) (ctx pa : Nat) (k : AccKind) (n : Nat) : Option PageFault :=
  (s.frameCheck ctx pa).map (fun d => ⟨BitVec.ofNat 64 pa, d, k, 0, 0, n⟩)

/-- A fault of the couch engine recorded (agent 4): the save or restore of the core waits at its progress point. -/
def State.couchFault (s : State) (g : Group) (p : SaveProg) (f : PageFault) : State :=
  let c := g.cores.getD p.rank 0
  let (n, s) := s.recordFault { seq := 0, ctx := g.ctx, agent := 4, core := c, detail := f.detail, va := f.va, stg := none
                                group := some g.id, tile := none, queue := none } f (s.tagOf g.ctx)
    ((s.coreid c).toNat % 65536) (BitVec.ofNat 64 p.next)
  s.modGroup g.id (fun g => { g with prog := g.prog.map (fun q => if q.rank = p.rank then { p with fault := some n } else q) })

/-- Rows with a set frame dirty bit written in increasing number (R116 step 1). The answer is a fault, with its progress. -/
def State.saveRows (s : State) (ctx : Nat) (c : CoreIx) (base : Nat) : List Nat → SaveProg → Option PageFault × SaveProg × State
  | [], p => (none, p, s)
  | r :: rs, p =>
    if !(s.core c).grid.fdirty.getLsbD r then State.saveRows s ctx c base rs p
    else
      let pa := base + 0x1000 + 256 * r
      match s.frameFault ctx pa .write 256 with
      | some f => (some f, { p with next := r }, s)
      | none =>
        let s := s.putMem pa (bytesOfRow ((s.core c).grid.row r))
        let s := s.modGrid c (fun g => { g with fdirty := setBit g.fdirty r false })
        State.saveRows s ctx c base rs { p with next := r + 1, mask := setBit p.mask r true }

/-- 64 KiB pages of the buffer images, with their buffer, offset in it and offset in the frame (Table 5.3). -/
def imagePages (e : GEnv) : List (Space × Nat × Nat) :=
  let up (n : Nat) : Nat := ceilDiv n 65536
  ((List.range (up e.xbext)).map (fun i => (Space.xb, 65536 * i, 0x10000 + 65536 * i))) ++
    ((List.range (up e.wbext)).map (fun i => (Space.wb, 65536 * i, 0x10000 + 65536 * (up e.xbext + i)))) ++
    (if e.gbext = 0 then [] else [(Space.gb, 0, 0x10000 + 65536 * (up e.xbext + up e.wbext))])

/-- The images written page by page from the progress point (R116 step 2). -/
def State.saveImages (s : State) (ctx : Nat) (e : GEnv) (c : CoreIx) (base : Nat) :
    List (Space × Nat × Nat) → Nat → Option (PageFault × Nat) × State
  | [], _ => (none, s)
  | (sp, off, fo) :: r, i =>
    let n := min 65536 (e.extent sp - off)
    match s.frameFault ctx (base + fo) .write 256 with
    | some f => (some (f, i), s)
    | none => State.saveImages (s.putBlit (base + fo) ((s.core c).buf sp) off n) ctx e c base r (i + 1)

/-- The row mask that a save goes on from: that of the frame as an earlier save left it (R116). -/
def State.oldMask (s : State) (g : Group) (p : SaveProg) (base : Nat) : Except PageFault Word × State :=
  if p.next ≠ 0 ∨ g.saved.isEmpty then (.ok p.mask, s)
  else
    match s.frameFault g.ctx (base + 0x18) .read 8 with
    | some f => (.error f, s)
    | none =>
      let (b, s) := s.getMem (base + 0x18) 8
      (.ok (BitVec.ofNat 64 (leNat b)), s)

/-- The save of one core from its progress point (R116): rows, images, then the rest. An EXITED core writes only its state
word (R101). The flag says that it is done. -/
def State.saveCore (s : State) (g : Group) (p : SaveProg) : Bool × State :=
  let c := g.cores.getD p.rank 0
  let base := s.framePa g.ctx (g.slots.getD p.rank 0)
  if (s.core c).ctl.st = .exited then
    match s.frameFault g.ctx (base + 0x48) .write 8 with
    | some f => (false, s.couchFault g p f)
    | none => (true, s.putMem (base + 0x48) (leBytes 8 1))
  else
    match s.oldMask g p base with
    | (.error f, s) => (false, s.couchFault g p f)
    | (.ok m, s) =>
      match s.saveRows g.ctx c base ((List.range 64).drop p.next) { p with mask := m } with
      | (some f, p, s) => (false, s.couchFault g p f)
      | (none, p, s) =>
        match s.saveImages g.ctx g.env c base ((imagePages g.env).drop (p.next - 64)) (p.next - 64) with
        | (some (f, i), s) => (false, s.couchFault g { p with next := 64 + i } f)
        | (none, s) =>
          match s.frameFault g.ctx base .write 256 with
          | some f => (false, s.couchFault g { p with next := 64 + (imagePages g.env).length } f)
          | none =>
            let k := s.core c
            (true, (s.putMem (base + 0x5000) k.frameImage).putMem base (k.frameHead p.mask))

/-- What stays with the group beside a frame (R114, R278, R297): with it the places of the log that wait for a read that has not
returned, whose words in the frame are 0 (log 107). A stopped copy is kept as its triple, and reads its remaining bytes anew. The trap
registers of a core that has exited stand here, since it writes only its state word (R101, R407; log 137). -/
def Core.saved (k : Core) (slot : Nat) : SavedCore :=
  { slot := slot, logOpen := (List.range k.rs.log.length).filter (fun i => (k.rs.log.getD i none).isNone)
    lits := k.grid.giq.map (fun p => (p.m.toList ++ p.v).map (fun g => g.lit))
    fills := k.grid.queues.toList.map (fun q => q.keptFills.map (fun e => e.va))
    eng := k.eng.map (fun l => l.map (fun e => { e with ahead := [] })), sigs := k.sigs, order := k.order, tissued := k.tissued, seqr := k.seqr
    part := k.part
    trap := if k.ctl.st = .exited then some (k.ctl.tvec, k.ctl.epc, k.ctl.cause, k.ctl.tval) else none }

/-- The copies of a saved core aim at the peers of the cluster where it is restored (R283). -/
def SavedCore.aimed (sv : SavedCore) (cl : ClusterIx) : SavedCore :=
  let aim (p : EndPt) : EndPt := { p with peer := p.peer.map (fun d => coreIn cl (inCluster d)) }
  { sv with eng := sv.eng.map (fun l => l.map (fun e =>
      match e.op with
      | .copy d p rows len ds ss => { e with op := .copy (aim d) (aim p) rows len ds ss }
      | _ => e)) }

/-- Nothing saved. -/
def SavedCore.none : SavedCore :=
  { slot := 0, logOpen := [], lits := [], fills := [], eng := Vector.replicate 6 [], sigs := [], order := 0, tissued := [], seqr := Option.none
    part := Option.none, trap := Option.none }

/-- SAVE_DONE (R116, Table 5.1): every core's save runs on from its progress point; once all are done the group is SAVED and
its cores are free. -/
def execSaveDone (gid : Nat) (s : State) : Host.Outcome State Fault Refusal :=
  .next (match s.group gid with
    | none => s
    | some g =>
      if g.st ≠ .lulling then s
      else
        let (todo, s) := g.prog.foldl (fun (acc : List Nat × State) p =>
          match p.fault with
          | some _ => (acc.1 ++ [p.rank], acc.2)
          | none =>
            let (d, s) := acc.2.saveCore g p
            (if d then acc.1 else acc.1 ++ [p.rank], s)) ([], s)
        let s := s.modGroup gid (fun g => { g with prog := g.prog.filter (fun p => todo.contains p.rank) })
        if todo.isEmpty then
          let saved := if g.prog.isEmpty then g.saved else
            g.cores.zipIdx.map (fun q => (s.core q.1).saved (g.slots.getD q.2 0))
          (s.freeCores g).modGroup gid (fun g => { g with
            st := if s.hasTurn g.ctx && g.lost.isEmpty then .pending else .saved, cores := [], saved := saved })
        else s)

/-! ### Restoring (R117) -/

/-- The word at an offset of the frame. -/
def frameWord (b : List Byte) (o : Nat) : Word := BitVec.ofNat 64 (fieldAt b o 8)

/-- The data of a kept fill read again (R117 step 3): from the core's buffer, or, through the context's table, from the addresses that its
virtual range has now (R53, R363; log 14). -/
def State.refill (s : State) (c : CoreIx) (src : FillSrc) (va : Word) : Except PageFault (List Byte × FillSrc) × State :=
  if src.space ≠ .dm then (.ok (fillBytes ((s.core c).buf src.space) src, src), s)
  else
    match s.translateRange (s.ctxOf c) (dieOf c) none va .read ((src.pieces.map Prod.snd).sum) with
    | (.error f, s) => (.error f, s)
    | (.ok ps, s) =>
      let (bs, s) := s.readPieces ps
      (.ok (bs, { src with pieces := ps }), s)

/-- The kept fills of a queue reissued in order with their saved sequences. -/
def State.refillAll (s : State) (c : CoreIx) : List (Nat × FillSrc × Word) → Except PageFault (List QEntry) × State
  | [] => (.ok [], s)
  | (seq, src, va) :: r =>
    match s.refill c src va with
    | (.error f, s) => (.error f, s)
    | (.ok (bs, src), s) =>
      let e : QEntry := { seq := seq, ord := 0, bun := 0, va := va, ff := none, settled := true
                          data := rowOfBytes (bs ++ List.replicate (256 - bs.length) 0), src := src
                          due := (s.cyc c).toNat + 6, present := false }
      match State.refillAll s c r with
      | (.error f, s) => (.error f, s)
      | (.ok es, s) => (.ok (e :: es), s)

/-- A queue read back: P, Fm, F the greater of them, and the reissued fills (R117 step 3). -/
def State.restoreQueue (s : State) (c : CoreIx) (b : List Byte) (sv : SavedCore) (i : Nat) : Except PageFault OpQueue × State :=
  let p := fieldAt b (0x50 + 16 * i) 8
  let fm := fieldAt b (0x58 + 16 * i) 8
  let kept := (List.range (min 8 (fm - p))).map (fun j =>
    (p + j, descSrc ((b.drop (0x800 + 128 * i + 16 * j)).take 16), (sv.fills.getD i []).getD j 0))
  match s.refillAll c kept with
  | (.error f, s) => (.error f, s)
  | (.ok es, s) => (.ok { entries := es, fillN := fm, f := max p fm, p := p }, s)

/-- The eight queues read back, up to a fault. -/
def State.restoreQueues (s : State) (c : CoreIx) (b : List Byte) (sv : SavedCore) : List Nat → Except PageFault (List OpQueue) × State
  | [] => (.ok [], s)
  | i :: r =>
    match s.restoreQueue c b sv i with
    | (.error f, s) => (.error f, s)
    | (.ok q, s) =>
      match State.restoreQueues s c b sv r with
      | (.error f, s) => (.error f, s)
      | (.ok qs, s) => (.ok (q :: qs), s)

/-- The buffer images read back. -/
def State.restoreImages (s : State) (e : GEnv) (c : CoreIx) (base : Nat) : State :=
  (imagePages e).foldl (fun s p =>
    let n := min 65536 (e.extent p.1 - p.2.1)
    let s := s.settleRange (base + p.2.2) n
    s.modCore c (fun k => k.setBuf p.1 ((k.buf p.1).blit p.2.1 s.mem (base + p.2.2) n)))
    (s.modCore c (fun k => { k with xb := [], wb := [], gb := [] }))

/-- The forward index after the packets of an image that starts at S (R117, R108): the grid takes no packet twice (log 65). -/
def stopAfter (pkts : List GridPkt) (stop : Nat) : Nat := stop + pkts.length

/-- The core that a frame gives back (R117, R407): registers of the shadow, grid, generators, queues, image and log; it stands stopped
until the whole group is restored. -/
def Core.fromFrame (k : Core) (b : List Byte) (rows : List Row) (qs : Vector OpQueue 8) (pkts : List GridPkt) (sv : SavedCore) :
    Core :=
  let mask := frameWord b 0x18
  let ks : Vector Word 8 := Vector.ofFn (fun i => frameWord b (0x200 + 8 * i.val))
  let log := (List.range (byteAt b 0xD1).toNat).map (fun i => if sv.logOpen.contains i then none else some (frameWord b (0x480 + 8 * i)))
  let fwd := fieldAt b 8 8
  let st := fieldAt b 0x48 1
  let inTrap := decide (st = 2)
  let pc := frameWord b 0
  let cw := frameWord b 0x20
  let pend := (sv.part.map (fun p => p.pend)).getD []
  let g : Grid := { Grid.reset with
    cells := Vector.ofFn (fun i => if mask.getLsbD i.val then rows.getD i.val Row.zero else Row.zero)
    fdirty := 0, gdirty := BitVec.allOnes 64
    gens := Vector.ofFn (fun i => frameWord b (0x600 + 8 * i.val))
    e := Vector.ofFn (fun i => Vector.ofFn (fun j => byteAt b (0x240 + 64 * i.val + j.val)))
    qs := Vector.ofFn (fun i => ⟨BitVec.ofNat 32 (fieldAt b (0x440 + 8 * i.val) 4), BitVec.ofNat 16 (fieldAt b (0x444 + 8 * i.val) 2)⟩)
    k := ks, flags := BitVec.ofNat _ (fieldAt b 0x30 8)
    couch := { base := cw.extractLsb' 16 8, op := cw.getLsbD 7, next := (cw.extractLsb' 0 6).toNat, mask := frameWord b 0x28
               active := cw.getLsbD 6 }
    giq := pkts.zipIdx.map (fun p => p.1.withLits (sv.lits.getD p.2 [])), fwdCount := max (fwd + ((sv.part.map (fun p => p.ctx.ahead)).getD false).toNat) (stopAfter pkts (fieldAt b 0x10 8)), queues := qs }
  let x : Vector Word 32 := Vector.ofFn (fun i => frameWord b (0x100 + 8 * i.val))
  let sh : Shadow := { x := x, k := ks, fmt := frameWord b 0x38, shp := frameWord b 0x40, pc := pc, fwd := fwd
                       fillN := qs.map (fun q => q.fillN), inTrap := inTrap }
  { k with
    ctl := { Ctl.reset with pc := pc, st := if st = 1 then .exited else .stopped, inTrap := inTrap
                            tvec := frameWord b 0x580, epc := frameWord b 0x588, cause := frameWord b 0x590, tval := frameWord b 0x598 }
    x := x, k := ks, fmt := frameWord b 0x38, shp := frameWord b 0x40
    rs := { Restart.reset with fwd := fwd, log := log, pend := pend, shadow := sh }
    grid := g, eng := sv.eng, sigs := sv.sigs, order := sv.order, tissued := sv.tissued, seqr := sv.seqr, part := sv.part }

/-- A restored core resumes at its mark (R117 step 5). -/
def Core.resumeMark (k : Core) : Core :=
  if k.ctl.st = .stopped then { k with ctl := { k.ctl with st := if k.rs.log.isEmpty then .run else .replay } } else k

/-- A core saved EXITED, with its trap registers (R407; log 137). -/
def Core.fromExited (k : Core) (sv : SavedCore) : Core :=
  let (tvec, epc, cause, tval) := sv.trap.getD (0, 0, 0, 0)
  { k with ctl := { Ctl.reset with st := .exited, tvec := tvec, epc := epc, cause := cause, tval := tval }, eng := sv.eng, sigs := sv.sigs, order := sv.order, tissued := sv.tissued
           seqr := sv.seqr }

/-- The pages of a frame, for its checks. -/
def framePages (e : GEnv) : List Nat := 0 :: (imagePages e).map (fun p => p.2.2)

/-- A frame that CTX_IMPORT brought is written to its slot once the slot's pages are bound to the context (R58, R114). -/
def State.placeImported (s : State) (g : Group) (slot : Nat) : State :=
  let base := s.framePa g.ctx slot
  match (s.ctx g.ctx).imported.lookup slot with
  | none => s
  | some m =>
    if (framePages g.env).any (fun o => (s.frameFault g.ctx (base + o) .write 256).isSome) then s
    else (s.putBlit base m 0 0x420000).modCtx g.ctx (fun c => { c with imported := c.imported.filter (fun p => decide (p.1 ≠ slot)) })

/-- One core restored, or the fault of a frame page. -/
def State.restoreCore (s : State) (g : Group) (p : SaveProg) : Bool × State :=
  let c := g.cores.getD p.rank 0
  let sv := ((g.saved[p.rank]?).getD SavedCore.none).aimed (clusterOf c)
  let base := s.framePa g.ctx sv.slot
  let s := s.placeImported g sv.slot
  match s.frameFault g.ctx base .read 256 with
  | some f => (false, s.couchFault g p f)
  | none =>
    let (b, s) := s.getMem base 0x1000
    if fieldAt b 0x48 1 = 1 then (true, s.modCore c (fun k => k.fromExited sv))
    else
      match (framePages g.env).findSome? (fun o => s.frameFault g.ctx (base + o) .read 256) with
      | some f => (false, s.couchFault g p f)
      | none =>
        let (rb, s) := s.getMem (base + 0x1000) 16384
        let rows := (List.range 64).map (fun i => rowOfBytes ((rb.drop (256 * i)).take 256))
        let s := s.restoreImages g.env c base
        match s.restoreQueues c b sv (List.range 8) with
        | (.error f, s) => (false, s.couchFault g p f)
        | (.ok ql, s) =>
          let (ib, s) := s.getMem (base + 0x5000) (64 * (byteAt b 0xD0).toNat)
          let stop := fieldAt b 0x10 8
          let pkts := (List.range (byteAt b 0xD0).toNat).map (fun i => pktOf ((ib.drop (64 * i)).take 64) (stop + i))
          let qs : Vector OpQueue 8 := Vector.ofFn (fun i => ql.getD i.val OpQueue.empty)
          (true, s.modCore c (fun k => k.fromFrame b rows qs pkts sv))

/-- RESTORE_DONE (R117): the cores are restored in rank order; once every core is, the group is RESIDENT and resumes at its
marks. -/
def execRestoreDone (gid : Nat) (s : State) : Host.Outcome State Fault Refusal :=
  .next (match s.group gid with
    | none => s
    | some g =>
      if g.st ≠ .restoring then s
      else
        let (todo, s) := g.prog.foldl (fun (acc : List Nat × State) p =>
          if !acc.1.isEmpty ∨ p.fault.isSome then (acc.1 ++ [p.rank], acc.2)
          else
            let (d, s) := acc.2.restoreCore g p
            (if d then acc.1 else acc.1 ++ [p.rank], s)) ([], s)
        let s := s.modGroup gid (fun g => { g with prog := g.prog.filter (fun p => todo.contains p.rank) })
        if todo.isEmpty then
          let s := g.cores.foldl (fun s c => s.modCore c Core.resumeMark) s
          s.modGroup gid (fun g => { g with st := .resident, lost := []
                                            env := { g.env with fmask := (s.ctx g.ctx).desc.fmask.extractLsb' 0 6 } })
        else s)

/-! ### The end of a group, slices, substitution -/

/-- The group is over (R99, R202): every core EXITED, every engine operation performed, and what was forwarded to the grids done; an M packet that
starves for ever does not hold the end back (log 113). -/
def State.groupOver (s : State) (g : Group) : Bool :=
  s.groupFinished g && g.tile.isNone && g.cores.all (fun c => (s.core c).gridDone)

/-- GROUP_END (R99, R70). -/
def execGroupEnd (gid : Nat) (s : State) : Host.Outcome State Fault Refusal :=
  .next (match s.group gid with
    | none => s
    | some g =>
      if s.groupOver g then
        (s.retireGroup g).launchDone g
      else s)

/-- The context that takes the next slice of a partition (R76): the next number after the active one, wrapping, that
qualifies. -/
def State.nextCtx (s : State) (part : Nat) (cur : Nat) : Option Nat :=
  ((List.range 64).map (fun i => (cur + i) % 64 + 1)).find? (fun n =>
    decide (n ≠ cur) && (s.ctx n).bound && decide ((s.ctx n).desc.part.toNat = part) && s.qualifies n)

/-- A context takes its partition's turn (R76): its saved groups become pending (Table 5.1). -/
def State.giveTurn (s : State) (i n : Nat) : State :=
  match (s.parts[i]?).getD none with
  | none => s
  | some p => { s with
      parts := s.parts.set! i (some { p with active := some n })
      groups := s.groups.map (fun g => if g.ctx = n ∧ g.st = .saved ∧ (s.ctx n).dispatches then { g with st := .pending } else g) }

/-- SLICE_BOUNDARY (R76): the partition passes to the next context that qualifies: the outgoing groups are lulled, the
saved groups of the next become pending. -/
def execSliceBoundary (part : BitVec 6) (s : State) : Host.Outcome State Fault Refusal :=
  .next (match s.parts[part.toNat]'part.isLt with
    | none => s
    | some p =>
      match s.nextCtx part.toNat (p.active.getD 0) with
      | none => s
      | some n =>
        let s : State := { s with groups := s.groups.map (fun g =>
          if p.active = some g.ctx ∧ (g.st = .resident ∨ g.st = .restoring) then { g with lullReq := true } else g) }
        s.giveTurn part.toNat n)

/-- A spare of the cluster pair (R17). -/
def spareOf (c : CoreIx) : Nat := (clusterOf c).toNat % 16 / 2

/-- Cores live in a partition. -/
def State.liveCores (s : State) (m : BitVec 512) : Nat :=
  (allCores.filter (fun c => m.getLsbD c.toNat && !(s.cluster (clusterOf c)).retired && decide ((s.core c).ctl.st ≠ .failed))).length

/-- A retirement has shrunk partitions (R40, Table 2.5): DEGRADED to every bound context of one that lost a core, with the new
core count (layout of the data: log 15). -/
def State.degrade (s : State) (hit : CoreIx → Bool) : State :=
  s.boundCtxs.foldl (fun s n =>
    match s.partOf n with
    | some p =>
      if allCores.any (fun c => p.mask.getLsbD c.toNat && hit c) then
        s.event n 0x01 (evData [(16, [0]), (20, leBytes 4 (s.liveCores p.mask))])
      else s
    | none => s) s

/-- The cores of a cluster leave a partition: crossbar bits that join them are cleared (R39, R40). -/
def Partition.without (p : Partition) (cl : ClusterIx) : Partition :=
  { p with mask := p.mask &&& ~~~(0xFF#512 <<< (8 * cl.toNat))
           xbar := p.xbar.filter (fun e => decide (clusterOf e.1 ≠ cl ∧ clusterOf e.2 ≠ cl)) }

/-- A cluster retires (R17): its cores leave the capacity record and the partitions, and the port budgets are recomputed. Groups resident on its
other cores run on (log 148). -/
def State.retireCluster (s : State) (cl : ClusterIx) : State :=
  if (s.cluster cl).retired then s
  else
    let s := s.modCluster cl (fun k => { k with retired := true })
    let s : State := { s with boot := { s.boot with capGen := s.boot.capGen + 1 } }
    let s := s.degrade (fun c => decide (clusterOf c = cl))
    ({ s with parts := s.parts.map (fun p => p.map (fun p => p.without cl)) } : State).capacityChanged (cl.extractLsb' 4 2)

/-- The failure of a core is dealt with (R18, Table 5.1): a saved group that awaited it becomes pending in its context's turn. -/
def State.coreReplaced (s : State) (c : CoreIx) : State :=
  { s with groups := s.groups.map (fun g =>
      if g.lost.contains c then
        let g := { g with lost := g.lost.filter (fun d => decide (d ≠ c)) }
        if g.st = .saved ∧ g.lost.isEmpty ∧ s.hasTurn g.ctx then { g with st := .pending } else g
      else g) }

/-- CORE_SUBSTITUTION (R17, R18, R100): a group that stands on the failed core is asked to lull. With none on it, the spare of its pair
takes its number and position; with the spare gone, the cluster is retired as a whole; a saved group is placed again then. -/
def execCoreSubstitution (c : CoreIx) (s : State) : Host.Outcome State Fault Refusal :=
  let d := dieOf c
  .next (if (s.core c).grp.isSome then
      { s with groups := s.groups.map (fun g =>
          if g.lost.contains c ∧ g.cores.contains c ∧ (g.st = .resident ∨ g.st = .restoring) then { g with lullReq := true } else g) }
    else if (s.core c).ctl.st ≠ .failed then s
    else State.coreReplaced (c := c) (if ((s.die d).spares[spareOf c]?).getD false then
      let s := s.modDie d (fun k => { k with spares := k.spares.set! (spareOf c) false })
      let s : State := { s with boot := { s.boot with capGen := s.boot.capGen + 1 } }
      s.setCore c { Core.reset with xbCap := (s.core c).xbCap, wbCap := (s.core c).wbCap, gbCap := (s.core c).gbCap
                                    substituted := true }
    else s.retireCluster (clusterOf c)))

end Sys2Proof.Machine
end

