-- ==== Sys2Proof/Machine/Tiles.lean ====
section
/-! DEFINITION. Tile records at their directors (14_tile_levels): acceptance and splitting (R300 to R306), fault records, retries and
failure (R307, R314 to R316). -/

namespace Sys2Proof.Machine

/-! ### Nodes -/

def State.modTile (s : State) (id : Nat) (f : TileNode → TileNode) : State :=
  { s with tiles := s.tiles.map (fun t => if t.id = id then f t else t) }
/-- The children of a record. -/
def State.childrenOf (s : State) (id : Nat) : List TileNode := s.tiles.filter (fun t => decide (t.src = .parent id))
/-- A record and all its descendants. -/
def State.family (s : State) : Nat → Nat → List Nat
  | 0, id => [id]
  | n + 1, id => id :: (s.childrenOf id).flatMap (fun t => State.family s n t.id)

/-- The records that a director holds (Table 14.1). -/
def Level.limit : Level → Nat
  | .span => 8
  | .package => 64
  | .die _ => 64
  | .cluster _ => 4
  | .core _ => 1
/-- The level path of a level (Table 13.3). -/
def Level.path : Level → List Byte
  | .span => levelPath 4 0 0 0
  | .package => levelPath 3 0 0 0
  | .die d => levelPath 2 d.toNat 0 0
  | .cluster c => levelPath 1 (c.toNat / 16) (c.toNat % 16) 0
  | .core c => levelPath 0 (dieOf c).toNat ((clusterOf c).toNat % 16) (inCluster c).toNat

/-- The record is still at work. -/
def TileNode.live (t : TileNode) : Bool := decide (t.st ≠ .waiting) && decide (t.st ≠ .complete) && decide (t.st ≠ .failed)

/-- A child's bytes: the parent's with the maker's level path and the record path. -/
def childBytes (b : List Byte) (lv : Level) (path : Nat) : List Byte := setBytes (setBytes b 2 lv.path) 58 (leBytes 6 path)
/-- Bits of a record's path or sequence. -/
def recSeq (b : List Byte) : Nat := fieldAt b 58 6

/-- The record is of the issuing level. -/
def TileNode.isRoot (t : TileNode) : Bool :=
  match t.src with
  | .parent _ => false
  | _ => true
/-- The path that a record's children carry, before their director fills in its field (R301): a root's is bits [23:0] of its
sequence, with every field below zero. -/
def TileNode.path (t : TileNode) : Nat := if t.isRoot then recSeq t.bytes % 2 ^ 24 * 2 ^ 24 else recSeq t.bytes
/-- Bits [23:0] of the issuing record's sequence. -/
def TileNode.seq24 (t : TileNode) : Nat := t.path / 2 ^ 24

/-! ### Acceptance -/

/-- Two records have one issuer (TSYNC, Table 13.5): a queue, or a core. -/
def sameIssuer (a b : TileSrc) : Bool :=
  match a, b with
  | .entry c q _, .entry d r _ => decide (c = d ∧ q = r)
  | .tissue _ g c _, .tissue _ h d _ => decide (g = h ∧ c = d)
  | _, _ => false

/-- TSYNC holds a record back: it starts when every earlier record of its issuer has completed, later ones after it. -/
def State.syncHeld (s : State) (t : TileNode) : Bool :=
  s.tiles.any (fun u => decide (u.id < t.id) && sameIssuer u.src t.src && decide (u.st ≠ .complete) &&
    (decide (recOp t.bytes = 9) || decide (recOp u.bytes = 9)))

/-- The issuing level holds another record with the same sequence bits (R301), one that is failing among them. -/
def State.seqHeld (s : State) (t : TileNode) : Bool :=
  t.isRoot && s.tiles.any (fun u => u.isRoot && decide (u.id ≠ t.id ∧ u.level = t.level ∧ u.seq24 = t.seq24) &&
    decide (u.st ≠ .waiting ∧ u.st ≠ .complete))
/-- A record waits for others, whatever room its director has. -/
def State.heldBack (s : State) (t : TileNode) : Bool := s.syncHeld t || s.seqHeld t

/-- A package record of another member runs elsewhere: its end comes from outside. -/
def State.foreign (s : State) (t : TileNode) : Bool := !t.isRoot && decide (t.level = .package) && decide (t.child ≠ s.pkg.toNat)

/-- A director may take a waiting record: it has room, and no record that arrived earlier waits for it; one that another package's director runs
is not among its own (R300). -/
def State.mayAccept (s : State) (t : TileNode) : Bool :=
  let here := s.tiles.filter (fun u => decide (u.level = t.level) && !s.foreign u)
  decide ((here.filter TileNode.live).length < t.level.limit) && !s.heldBack t &&
    !here.any (fun u => decide (u.st = .waiting ∧ u.id < t.id) && !s.heldBack u)

/-- Members of a context's span group (R399); none named means this package alone. -/
def State.members (s : State) (ctx : Nat) : List Nat :=
  let m := (s.ctx ctx).spanMask
  let l := (List.range 64).filter (fun i => m.getLsbD i)
  if l.isEmpty then [s.pkg.toNat] else l

/-- A record decodes at the director that takes it (R302, R305): reserved fields, types and references; at the span root at
most 64 lanes. -/
def State.decodesAt (s : State) (t : TileNode) : Bool :=
  tileOk false false false t.bytes &&
    (decide (t.level ≠ .span) || decide ((s.members t.ctx).length * recK t.bytes ≤ 64))

/-! ### Failure (R314 to R316) -/

/-- A tile fault record (Table 14.4). Flags: staging, final, retried. -/
def faultRecord (cause : Nat) (origin holder : Level) (child flags : Nat) (b : List Byte) (va prog : Word) : List Byte :=
  leBytes 2 cause ++ origin.path ++ holder.path ++ leBytes 1 (child % 256) ++ leBytes 1 flags ++
    (recPath b) ++ leBytes 8 va.toNat ++ leBytes 8 prog.toNat ++ List.replicate 32 0

/-- The tile group of a record given back. -/
def State.endTileGroup (s : State) (t : TileNode) : State :=
  match t.group.bind s.group with
  | some g => s.retireGroup g
  | none => s

/-- A record and its descendants removed: sequencers stop, tile groups end. -/
def State.dropTiles (s : State) (id : Nat) : State :=
  let ids := s.family 6 id
  let ts := s.tiles.filter (fun t => ids.contains t.id)
  let s := ts.foldl State.endTileGroup s
  { s with tiles := s.tiles.filter (fun t => !ids.contains t.id)
           cores := s.cores.map (fun k =>
             match k.seqr with
             | some q =>
               match q.parent with
               | some p => if ids.contains p then { k with seqr := none } else k
               | none => k
             | none => k) }

/-- A record and its descendants fail (R316): directors and staging go on with none of them. -/
def State.failFamily (s : State) (id : Nat) : State :=
  let ids := s.family 6 id
  { s with tiles := s.tiles.map (fun t =>
      if ids.contains t.id ∧ (t.id = id ∨ t.st ≠ .complete) then { t with st := .failed, fault := none, answer := none } else t) }

/-- A core child of a record is at work on a core of a resident group. -/
def State.childRuns (s : State) (t : TileNode) : Bool :=
  match t.level with
  | .core c =>
    ((s.core c).seqr.map (fun q => decide (q.parent = some t.id))).getD false &&
      (((s.core c).grp.bind s.group).map (fun g => decide (g.st = .resident))).getD false
  | _ => false
/-- A failed record still has a descendant that runs on to its next interruption point (R316). -/
def State.familyRuns (s : State) (id : Nat) : Bool := (s.family 6 id).any (fun i => ((s.tile i).map s.childRuns).getD false)

/-- A record fails at its issuing level (R316): descendants are cancelled, each at its next interruption point, no completion add is
made, and the queue, or the issuing group, takes the fault; a frozen group takes none (R411). -/
def State.failRecord (s : State) (id : Nat) : State :=
  match s.rootOf id with
  | none => s
  | some r =>
    if r.st = .failed then s
    else
      let s := s.failFamily r.id
      match r.src with
      | .entry n q seq => s.workFault n q seq 0
      | .tissue _ g c a =>
        if (s.ctx r.ctx).st = .frozen then s
        else (s.modCore c (fun k => { k with tissued := k.tissued.filter (fun i => decide (i ≠ r.id)) })).endGroup g 0x130 c a 0
      | .parent _ => s

/-- A record that waits for a destination which stays unreachable ends with the link-unreachable fault (R387): that of a TISSUE with
its group, another at its issuing level. -/
def State.cutRecord (s : State) (id : Nat) : State :=
  match s.rootOf id with
  | none => s
  | some r =>
    match r.src with
    | .tissue _ g c a => (s.failFamily r.id).endGroup g 0x150 c a 0
    | _ => s.failRecord id

/-- A fault found at a record, of origin `lv` whose own record is `b`: a page fault can be answered, anything else is final; an access
without a route waits, and ends the record after its 100 ms (R387). A record that has failed makes none. -/
def State.tileFaultAt (s : State) (id : Nat) (b : List Byte) (child : Nat) (lv : Level) (staging : Bool) (e : TileErr) (prog : Word) :
    State :=
  let put (cause fl : Nat) (va : Word) (f : Option PageFault) : State := s.modTile id (fun t =>
    if t.fault.isSome ∨ t.st = .failed then t
    else { t with fault := some (faultRecord cause lv lv child (fl + 4 * (decide (t.retries ≠ 0)).toNat) b va prog, f) })
  match e with
  | .page f => put (0x80 + f.detail.toNat) staging.toNat f.va (some f)
  | .bounds a => put 0x050 2 (BitVec.ofNat 64 a) none
  | .decode => put 0x120 2 0 none
  | .denied => put 0x0A0 2 0 none
  | .integrity d a => put (0x140 + d.toNat) 2 (BitVec.ofNat 64 a) none
  | .cut false => s
  | .cut true => s.cutRecord id
/-- A fault whose record names the faulting record itself. -/
def State.tileFault (s : State) (id child : Nat) (lv : Level) (staging : Bool) (e : TileErr) (prog : Word) : State :=
  s.tileFaultAt id (((s.tile id).map (fun t => t.bytes)).getD []) child lv staging e prog

/-- Where the holder of a fault record stands in the chain of its origin. -/
def holderAt (chain : List TileNode) (holder : List Byte) : Nat := chain.findIdx (fun t => decide (t.level.path = holder))

/-- Another fault of the same record is with system software, unanswered (R316). -/
def State.answerDue (s : State) (root : Nat) : Bool := (s.family 6 root).any (fun i => ((s.tile i).map (fun t => t.answer.isSome)).getD false)

/-- The core of a tile fault: that of the sequencer, or core 0 of the tile group that staging serves. -/
def TileNode.tileCore (t : TileNode) : CoreIx :=
  match t.level with
  | .core c => if ((t.fault.map (fun f => (byteAt f.1 7).getLsbD 0)).getD false) then coreIn (clusterOf c) 0 else c
  | .cluster c => coreIn c 0
  | .die d => coreIn (BitVec.ofNat 6 (16 * d.toNat)) 0
  | _ => 0

/-- The record of a fault delivered to system software (R315, R374): agent 5 for staging, of size 64, and the home lookup, 6 for a
sequencer; Where is the Record field of the tile fault record (R443). -/
def State.deliverTile (s : State) (t : TileNode) (f : PageFault) (rec : List Byte) : State :=
  let staging := (byteAt rec 7).getLsbD 0
  let agent : BitVec 8 := if staging ∨ (t.level = .package ∧ !s.foreign t) then 5 else 6
  let c := t.tileCore
  let (n, s) := s.recordFault { seq := 0, ctx := t.ctx, agent := agent, core := c, detail := f.detail, va := f.va, stg := none
                                group := none, tile := some t.id, queue := none }
    { f with size := if staging then 64 else min f.size 256 }
    (s.tagOf t.ctx) ((s.coreid c).toNat % 65536) (BitVec.ofNat 64 (leNat ((rec.drop 8).take 8)))
  s.modTile t.id (fun t => { t with answer := some n })

/-- The children of a cluster record that run again when its tile group was lost (R307): those not written back, and in a TRED the even
core of a row-pair whose odd core needs its sum again (R306). -/
def State.redone (s : State) (t : TileNode) : List TileNode :=
  let cs := s.childrenOf t.id
  cs.filter (fun u => decide (u.st ≠ .complete) ||
    (decide (recOp t.bytes = 3 ∧ u.child % 2 = 0) && cs.any (fun v => decide (v.child = u.child + 1 ∧ v.st ≠ .complete))))

/-- The cause by which a tile group was lost names a failed core (Table 14.5). -/
def coreLost (cause : Nat) : Bool := decide (cause = 0x161 ∨ cause = 0x0BD)

/-- Children that run on staged images (R308): those of every opcode that is cut into sub-tiles. -/
def TileNode.stages (t : TileNode) : Bool := decide (1 ≤ recOp t.bytes ∧ recOp t.bytes ≤ 5) || decide (recOp t.bytes = 8)

/-- A core record (R301, R308): references A and B name the staged images, layout 11 at offset 0 of XB and of WB. -/
def TileNode.coreBytes (t : TileNode) (cl : ClusterIx) (i : Nat) : List Byte :=
  let b := childBytes t.bytes (.cluster cl) (t.path + i)
  let put (b : List Byte) (o space : Nat) : List Byte := if fieldAt b o 8 = 0 then b else setBytes b o (leBytes 8 (space * 2 ^ 62 + 3 * 2 ^ 48))
  if t.stages then put (put b 20 0) 28 1 else b

/-- A tile group has ended (R314, Table 14.5): for a failed core or a retired cluster the children that are not written back run again
from staging on another placement, each at most twice; a third time, or any other cause, makes a final record that climbs, whose Record is that of the core record at the core named (Table 14.4). -/
def State.retryCluster (s : State) (t : TileNode) (cl : ClusterIx) : State :=
  let (cause, rank) := t.lost.getD (0x161, 0)
  let redo := s.redone t
  let spent := if redo.isEmpty then decide (2 ≤ t.retries) else redo.any (fun u => decide (2 ≤ u.retries))
  if (coreLost cause || (s.cluster cl).retired) && !spent then
    let s : State := { s with tiles := s.tiles.map (fun u =>
      if redo.any (fun r => decide (r.id = u.id)) then { u with st := .waiting, staged := 0, copy := (0, 0), retries := u.retries + 1 } else u) }
    s.modTile t.id (fun t => { t with st := .accepted, lost := none, retries := t.retries + 1 })
  else
    s.modTile t.id (fun t => { t with
      st := .accepted, lost := none
      fault := some (faultRecord cause (.core (coreIn cl (BitVec.ofNat 3 rank))) t.level rank (2 + 4 * (decide (t.retries ≠ 0)).toNat) (t.coreBytes cl rank) 0 0, none) })

/-- TILE_FAULT_RECORD (R315): a lost tile group is retried where it can be; a record moves one level up, or is settled where it is: a
final one fails the record at the issuing level, another goes to system software there. -/
def execTileFaultRecord (id : Nat) (s : State) : Host.Outcome State Fault Refusal :=
  .next (match s.tile id with
    | none => s
    | some t =>
      match t.st, t.level with
      | .failed, _ => s
      | .faulted, .cluster cl => s.retryCluster t cl
      | _, _ =>
        match t.fault with
        | none => s
        | some (rec, f) =>
          if t.answer.isSome then s
          else
            let chain := s.chain 6 id
            let at_ := holderAt chain ((rec.drop 4).take 2)
            match chain[at_ + 1]? with
            | some up => s.modTile id (fun t => { t with fault := some (setBytes rec 4 up.level.path, f) })
            | none =>
              match f with
              | none => s.failRecord id
              | some f => if s.answerDue ((chain.getLast?.map (fun r => r.id)).getD id) then s else s.deliverTile t f rec)

/-! ### Splitting (R304, R305) -/

/-- The part of an output that a record covers (R305): of a TACR that the span root split, the ⌈M/G⌉ rows of its member. -/
def State.outOf (s : State) (t : TileNode) : OutPart :=
  if recOp t.bytes = 8 ∧ (s.chain 6 t.id).any (fun u => decide (u.level = .span)) then
    let ms := s.members t.ctx
    let n := ceilDiv (recM t.bytes) ms.length
    let r0 := ms.idxOf (recSeq t.bytes / 2 ^ 18 % 64) * n
    ⟨r0, min (recM t.bytes) (r0 + n) - r0, recN t.bytes⟩
  else recWhole t.bytes

/-- The pieces that a record is split into: cluster blocks, rows of C for TGATH, one for TSCAT, none for TSYNC. -/
def State.pieces (s : State) (t : TileNode) : Nat :=
  match recOp t.bytes with
  | 6 => recM t.bytes
  | 7 => 1
  | 9 => 0
  | _ => (s.outOf t).blocks.1 * (s.outOf t).blocks.2

/-- The first output element of a piece; a row of C whose elements lie on several dies goes whole to the home of its first one (log 142). -/
def State.pieceElem (s : State) (t : TileNode) (k : Nat) : Nat × Nat := if recOp t.bytes = 6 then (k, 0) else (s.outOf t).origin k

/-- The home die of an element of C: its address translated as a write (R304). -/
def State.homeOf (s : State) (ctx : Nat) (b : List Byte) (i j : Nat) : Except PageFault (BitVec 2) × State :=
  let (a, _) := (recRefC b).elem (fmtTD (recFmt b)).width i j
  match s.translate ctx 0 none (BitVec.ofNat 64 a) .write 4 with
  | (.error f, s) => (.error f, s)
  | (.ok pa, s) => (.ok (homeDie pa), s)

/-- The same as a stream engine finds it, in its own TLB (R25). -/
def State.homeBy (s : State) (w : TileWho) (b : List Byte) (i j : Nat) : Except PageFault (BitVec 2) × State :=
  let (a, _) := (recRefC b).elem (fmtTD (recFmt b)).width i j
  match s.tileRange w (BitVec.ofNat 64 a) .write 4 with
  | (.error f, s) => (.error f, s)
  | (.ok ps, s) => (.ok (homeDie ((ps.head?.map Prod.fst).getD 0)), s)

/-- A piece given to a die, whose pieces stand in increasing order (R304): the die's child takes it, or is made. -/
def State.giveDie (s : State) (t : TileNode) (d : BitVec 2) (k : Nat) : State :=
  match (s.childrenOf t.id).find? (fun c => decide (c.level = .die d)) with
  | some c => s.modTile c.id (fun c => { c with blocks := c.blocks.filter (· < k) ++ [k] ++ c.blocks.filter (k < ·), st := if c.st = .complete then .accepted else c.st })
  | none =>
    let s := s.addTile (.die d) t.ctx (.parent t.id) (childBytes t.bytes .package (t.path + d.toNat * 2 ^ 16)) d.toNat
    s.modTile s.tileCount (fun c => { c with blocks := [k] })

/-- The package director gives its next piece to its home die; a piece whose lookup faults waits (R304), and so does one for a die
without a route (R387). -/
def State.splitPackage (s : State) (t : TileNode) : State :=
  let total := s.pieces t
  let next : Option (Nat × Bool) :=
    if t.next < total then some (t.next, false)
    else if t.fault.isSome then none
    else t.blocks.head?.map (fun k => (k, true))
  match next with
  | none => s
  | some (k, again) =>
    let done (s : State) : State := s.modTile t.id (fun t => if again then { t with blocks := t.blocks.drop 1 } else { t with next := t.next + 1 })
    let held (d : BitVec 2) : Bool := !s.dieReach 0 d
    let wait (d : BitVec 2) : State := if (s.die 0).unreach.getLsbD d.toNat then s.cutRecord t.id else s
    if recOp t.bytes = 7 then
      match allDies.find? held with
      | some d => wait d
      | none => done (allDies.foldl (fun s d => s.giveDie t d 0) s)
    else
      let (i, j) := s.pieceElem t k
      match s.homeOf t.ctx t.bytes i j with
      | (.ok d, u) => if held d then wait d else done (u.giveDie t d k)
      | (.error f, s) =>
        let s := if again then s else s.modTile t.id (fun t => { t with next := t.next + 1, blocks := t.blocks ++ [k] })
        s.tileFault t.id k .package false (.page f) 0

/-- Who acts for a die, and for its stream engine `e`. -/
def dieWho (ctx : Nat) (d : BitVec 2) : TileWho := { ctx := ctx, core := coreIn (BitVec.ofNat 6 (16 * d.toNat)) 0, env := GEnv.none }
def streamWho (ctx : Nat) (d : BitVec 2) (e : Nat) : TileWho := { dieWho ctx d with eng := some e }

/-- TSCAT as a die applies it (Table 14.2): the rows of C homed on it, or every row when the record came to it alone. -/
def State.scatDie (s : State) (w : TileWho) (b : List Byte) (d : Option (BitVec 2)) : List Nat → Except TileErr Unit × State
  | [] => (.ok (), s)
  | i :: is =>
    match s.readElem w (recRefB b) tyINT32 i 0 with
    | (.error e, s) => (.error e, s)
    | (.ok x, s) =>
      if recK b ≤ x.toNat then State.scatDie s w b d is
      else
        let (h, s) : Except PageFault (BitVec 2) × State := match d with
          | none => (.ok 0, s)
          | some _ => s.homeBy w b x.toNat 0
        match h with
        | .error f => (.error (.page f), s)
        | .ok h =>
          if d = none ∨ d = some h then
            match s.tscatCols w b i x.toNat (List.range (recN b)) with
            | (.error e, s) => (.error e, s)
            | (.ok _, s) => State.scatDie s w b d is
          else State.scatDie s w b d is

/-- One row of TGATH (R305). -/
def State.gathRow (s : State) (w : TileWho) (b : List Byte) (i : Nat) : Except TileErr Unit × State :=
  let ps := (List.range (recN b)).map (fun j => (i, j))
  match s.gathElems w b ps with
  | (.error e, s) => (.error e, s)
  | (.ok cs, s) => s.writeElems w (recRefC b) (fmtTD (recFmt b)) (ps.zip cs)

/-- A piece of TGATH or TSCAT on the stream engines of a die: rows dealt over the 12 in increasing order, a TSCAT on one (Table 14.2; log 71). A piece that faults has done none of its work, so that it is done once when
it is tried again (R307). -/
def State.streamPiece (s : State) (t : TileNode) (d : BitVec 2) (lv : Level) (k : Nat) : State :=
  let w := streamWho t.ctx d (if recOp t.bytes = 6 then k else 0)
  let (r, s') := if recOp t.bytes = 6 then s.gathRow w t.bytes k
    else s.scatDie w t.bytes (if t.isRoot then none else some d) (List.range (recM t.bytes))
  match r with
  | .ok _ => s'.modTile t.id (fun t => { t with blocks := t.blocks.drop 1, next := t.next + 1 })
  | .error e => s.tileFault t.id k lv false e (BitVec.ofNat 64 k)

/-- The clusters of a die on which a tile group of a context can stand: whole in its partition, live, with a free place at
their director, the least loaded first. -/
def State.tileClusters (s : State) (ctx : Nat) (d : BitVec 2) : List ClusterIx :=
  let m := ((s.partOf ctx).map (fun p => p.mask)).getD 0
  let load (c : ClusterIx) : Nat := (s.tiles.filter (fun t => decide (t.level = .cluster c) && decide (t.st ≠ .complete) && decide (t.st ≠ .failed))).length
  let ok := (clustersOf d).filter (fun c => decide ((maskIn m c).length = 8) && !(s.cluster c).retired && decide (load c < 4))
  (List.range 4).flatMap (fun n => ok.filter (fun c => decide (load c = n)))

/-- The die director gives its next block to a cluster director (R304); at most 64 blocks of a record are live (R301). -/
def State.splitDie (s : State) (t : TileNode) (d : BitVec 2) : State :=
  match t.blocks with
  | [] => s
  | k :: ks =>
    if t.fault.isSome then s
    else if recOp t.bytes = 6 ∨ recOp t.bytes = 7 then s.streamPiece t d (.die d) k
    else if 64 ≤ ((s.childrenOf t.id).filter (fun c => decide (c.st ≠ .complete))).length then s
    else
      match s.tileClusters t.ctx d with
      | [] => s
      | cl :: _ =>
        let s := s.addTile (.cluster cl) t.ctx (.parent t.id)
          (childBytes t.bytes (.die d) (t.path + t.next % 4096 * 16)) (t.next % 4096)
        let s := s.modTile s.tileCount (fun c => { c with blocks := [k] })
        s.modTile t.id (fun t => { t with blocks := ks, next := t.next + 1 })

/-- The extents of a tile group (R303). -/
def State.tileEnv (s : State) (ctx : Nat) : GEnv :=
  { GEnv.none with xbext := 1048576, wbext := 1048576, gbext := 16384, fmask := (s.ctx ctx).desc.fmask.extractLsb' 0 6 }

/-- A tile group of a cluster record, pending on its die (R303). -/
def State.makeTileGroup (s : State) (t : TileNode) (cl : ClusterIx) : State :=
  let g0 : Group :=
    { id := s.nextGroup, ctx := t.ctx, kslot := 64, handle := 0, queue := 64, seq := t.id, index := 0, count := 1, n := 8
      st := .pending, started := false, cores := [], slots := [], param := 0, plen := 0, env := s.tileEnv t.ctx
      bar := Barrier.start, die := BitVec.ofNat 2 (cl.toNat / 16), order := s.dispatched + 1, prio := 0
      passed := false, saved := [], prog := [], faults := 0, lullReq := false, tile := some t.id, lost := [] }
  let g : Group := { g0 with prio := BitVec.ofNat 3 (s.prioOf g0) }
  ({ s with groups := s.groups ++ [g], nextGroup := s.nextGroup + 1, dispatched := s.dispatched + 1 } : State).modTile t.id
    (fun t => { t with group := some g.id })

/-- A child starts (R310): it waits for its first images, or goes to its sequencer when it has none. -/
def State.startChild (s : State) (t u : TileNode) : State :=
  match u.level with
  | .core c =>
    if t.stages then s.modTile u.id (fun u => { u with st := .staging })
    else (s.modTile u.id (fun u => { u with st := .released })).modCore c (fun k => { k with seqr := some { Seqr.start u.bytes (some u.id) with ready := true } })
  | _ => s

/-- The children of the block at hand that do not stand yet start: one core record for each core whose sub-tile lies in the output
(R304), made and decoded here (R302), or one that runs again. -/
def State.makeCores (s : State) (t : TileNode) (cl : ClusterIx) (k : Nat) : State :=
  (List.range 8).foldl (fun s i =>
    match (s.childrenOf t.id).find? (fun u => decide (u.child = i)) with
    | some u => if u.st = .waiting ∧ u.fault.isNone then s.startChild t u else s
    | none =>
      if !(s.outOf t).hasCore t.bytes k i then s
      else
        let b := t.coreBytes cl i
        let s := s.addTile (.core (coreIn cl (BitVec.ofNat 3 i))) t.ctx (.parent t.id) b i
        match s.tile s.tileCount with
        | some u => if tileOk true false t.stages b then s.startChild t u else s.tileFaultAt u.id t.bytes i (.cluster cl) false .decode 0
        | none => s) s

/-- Every sub-tile of a block has been written back (R300, R307). -/
def State.blockDone (s : State) (t : TileNode) (k : Nat) : Bool :=
  (List.range 8).all (fun i => !(s.outOf t).hasCore t.bytes k i ||
    (s.childrenOf t.id).any (fun u => decide (u.child = i ∧ u.st = .complete)))

/-- The cluster director (R303, R304): one tile group at a time; the block at hand is given to its cores, and when they have
written it the next follows on the same group. A record that names its cluster fails when that is retired (Table 14.5). -/
def State.splitCluster (s : State) (t : TileNode) (cl : ClusterIx) : State :=
  match t.blocks with
  | [] => s
  | k :: ks =>
    if t.fault.isSome then s
    else if recOp t.bytes = 6 ∨ recOp t.bytes = 7 then s.streamPiece t (BitVec.ofNat 2 (cl.toNat / 16)) (.cluster cl) k
    else if t.isRoot && (s.cluster cl).retired then s.failRecord t.id
    else
      match t.group with
      | none =>
        if s.tiles.any (fun u => decide (u.level = .cluster cl) && u.group.isSome && decide (u.st ≠ .complete)) then s
        else s.makeTileGroup t cl
      | some gid =>
        if ((s.group gid).map (fun g => decide (g.st = .resident))).getD false then
          if s.blockDone t k then
            let s : State := { s with tiles := s.tiles.filter (fun c => decide (c.src ≠ .parent t.id)) }
            s.modTile t.id (fun t => { t with blocks := ks, next := t.next + 1 })
          else s.makeCores t cl k
        else s

/-- The span root (R301, R305): the record of its own package, and one for each other member, which that package runs. -/
def State.splitSpan (s : State) (t : TileNode) : State :=
  if t.next ≠ 0 then s
  else
    let s := (s.members t.ctx).foldl (fun s g =>
      s.addTile .package t.ctx (.parent t.id) (childBytes t.bytes .span (t.path + g * 2 ^ 18)) g) s
    s.modTile t.id (fun t => { t with next := 1 })

/-- All pieces of a record that enters at a die or cluster director (R304). -/
def State.ownBlocks (s : State) (t : TileNode) : List Nat :=
  match t.level with
  | .die _ => if t.isRoot then List.range (s.pieces t) else t.blocks
  | .cluster _ => if t.isRoot then List.range (s.pieces t) else t.blocks
  | _ => t.blocks

/-- A waiting record is taken and decoded (R300, R302): the failure of a child is a fault of its parent's level; a span record of a
group of one is a package record (R301). -/
def State.acceptTile (s : State) (t : TileNode) : State :=
  if t.level = .span ∧ (s.members t.ctx).length = 1 then s.modTile t.id (fun t => { t with level := .package })
  else if s.decodesAt t then s.modTile t.id (fun u => { u with st := .accepted, blocks := s.ownBlocks t })
  else
    let p := (match t.src with
      | .parent p => s.tile p
      | _ => none).getD t
    (s.modTile t.id (fun t => { t with st := .accepted })).tileFaultAt t.id p.bytes t.child p.level false .decode 0

/-- TILE_RECORD_ACCEPT (R300 to R305): the director of the record acts next: it takes the waiting record and decodes it, or
gives out the next of its pieces. -/
def execTileRecordAccept (id : Nat) (s : State) : Host.Outcome State Fault Refusal :=
  .next (match s.tile id with
    | none => s
    | some t =>
      if s.foreign t then s
      else if t.st = .waiting then (match t.level with
        | .core _ => s
        | _ => if s.mayAccept t then s.acceptTile t else s)
      else if t.st ≠ .accepted then s
      else
        match t.level with
        | .span => s.splitSpan t
        | .package => s.splitPackage t
        | .die d => s.splitDie t d
        | .cluster c => s.splitCluster t c
        | .core _ => s)

end Sys2Proof.Machine
end

