-- ==== Sys2Proof/Machine/Staging.lean ====
section
/-! DEFINITION. Staging (R308 to R310, R441): the images of a core record, the copies that place them, and the forwarding of the A
images of a row-pair (R442). -/

namespace Sys2Proof.Machine

/-! ### Images (Table 14.3) -/

/-- The images that a staging engine copies: the entries and scale codes of a chunk of either side, the old C, and rows of elements
for the opcodes that run no RK step, the slices of rows of a TACR (log 83). -/
inductive StageImg | chunkA | codesA | chunkB | codesB | oldC | rowsA | rowsB | blocksA | slicesA
  deriving DecidableEq, Repr

/-- Bytes of a full K-block of a side in a chunk. -/
def blockSize (b : List Byte) (t : Ty) : Nat := 64 / recStep b * stepEnts b t * 256
/-- The buffer offset of a chunk: 0x0_0000 and 0x4_0000, alternately (Table 14.3). -/
def chunkBase (j : Nat) : Nat := j % 2 * 0x40000
/-- The buffer offset of the codes of a block of 32 along K (Table 14.3): the image's 4,096 rows are used again from the first for a longer
K (log 83). -/
def codesBase (x : Nat) : Nat := 0x80000 + 64 * (x % 4096)
/-- Where slice `p` of row `x` of a TACR sub-tile lies in its chunk of 8 rows (log 83). -/
def sliceAt (x p : Nat) : Nat := chunkBase (x / 8) + 16384 * (x % 8) + 256 * p
/-- The result image of a core (Table 14.3). -/
def resultBase : Nat := 0xC0000
/-- K-blocks per chunk of a run of `n`. -/
def chunksOf (n : Nat) : Nat := ceilDiv n 8

/-- The scales of both sides, read under the cluster's record. -/
def State.bothScales (s : State) (w : TileWho) (b : List Byte) : Except TileErr (TScale × TScale) × State :=
  let f := recFmt b
  match s.readScale w (recRefA b) (recScaleA b) (fmtTA f) with
  | (.error e, s) => (.error e, s)
  | (.ok a, s) =>
    match s.readScale w (recRefB b) (recScaleB b) (fmtTB f) with
    | (.error e, s) => (.error e, s)
    | (.ok c, s) => (.ok (a, c), s)

/-- What a child's copies work on: the cluster's record, its core and the even core of its row-pair, the chunk, the sub-tile, its run of
K-blocks, the scales. -/
structure StageJob where
  b : List Byte
  core : CoreIx
  even : CoreIx
  chunk : Nat
  i : Nat
  j : Nat
  m : Nat
  n : Nat
  lo : Nat
  hi : Nat
  a : TScale
  c : TScale
  deriving DecidableEq, Repr

def StageJob.bse (q : StageJob) : Bool := fmtBSE (recFmt q.b)
/-- The types of the staged sides. -/
def StageJob.ta (q : StageJob) : Ty := stagedTy q.bse q.a.z (fmtTA (recFmt q.b))
def StageJob.tb (q : StageJob) : Ty := stagedTy q.bse q.c.z (fmtTB (recFmt q.b))

/-- Entries of a side in a chunk: those of its full K-blocks, and of a last one that ends at K. -/
def chunkEnts (b : List Byte) (t : Ty) (j : Nat) : Nat :=
  let n := min 512 (recK b - 512 * j)
  (n / 64 * (64 / recStep b) + ceilDiv (n % 64) (recStep b)) * stepEnts b t
/-- Rows of codes in a chunk. -/
def chunkCodes (b : List Byte) (j : Nat) : Nat := min 16 (ceilDiv (recK b) 32 - 16 * j)

/-- Units of an image, and the bytes of one: what a copy has done is a whole number of them. -/
def StageJob.units (q : StageJob) : StageImg → Nat
  | .chunkA => chunkEnts q.b q.ta q.chunk
  | .chunkB => chunkEnts q.b q.tb q.chunk
  | .codesA => chunkCodes q.b q.chunk
  | .codesB => chunkCodes q.b q.chunk
  | .oldC => q.m
  | .rowsA => q.m
  | .rowsB => q.m
  | .blocksA => q.m * min 8 (q.hi - q.lo - 8 * q.chunk)
  | .slicesA => min 8 (q.m - 8 * q.chunk) * recK q.b
def StageImg.unit : StageImg → Nat
  | .codesA => 64
  | .codesB => 64
  | _ => 256

/-- Where a unit of an image lies: core, buffer, offset. The A images of a TMMA go to the even core of the row-pair alone (R310). -/
def StageJob.place (q : StageJob) (x : Nat) : StageImg → CoreIx × Space × Nat
  | .chunkA => (q.even, .xb, chunkBase q.chunk + 256 * x)
  | .codesA => (q.even, .xb, codesBase (16 * q.chunk + x))
  | .chunkB => (q.core, .wb, chunkBase q.chunk + 256 * x)
  | .codesB => (q.core, .wb, codesBase (16 * q.chunk + x))
  | .oldC => (q.core, .gb, 256 * x)
  | .rowsA => (q.core, .xb, 256 * x)
  | .rowsB => (q.core, .wb, 256 * x)
  | .blocksA => (q.core, .xb, chunkBase q.chunk + 16384 * (x / q.m) + 256 * (x % q.m))
  | .slicesA => (q.core, .xb, sliceAt (8 * q.chunk + x / recK q.b) (x % recK q.b))

/-! ### Units read and converted (R309) -/

/-- An entry of a chunk (Table 14.3): for each of `m` cells, the elements that one pop takes along K, packed, in the staged type. -/
def State.stageEntry (s : State) (w : TileWho) (q : StageJob) (r : TRef) (t t' : Ty) (z : BitVec 16) (m x : Nat) (place : Nat → Nat → Nat × Nat) :
    Except TileErr (List Byte) × State :=
  let k := recStep q.b
  let e := stepEnts q.b t'
  let y := x % (64 / k * e)
  let per := t'.perCell
  let l0 := 512 * q.chunk + 64 * (x / (64 / k * e)) + y / e * k + y % e * per
  let n := min (min per (k - y % e * per)) (recK q.b - l0)
  match s.readElems w r t ((List.range m).flatMap (fun i => (List.range n).map (fun l => place i (l0 + l)))) with
  | (.error er, s) => (.error er, s)
  | (.ok cs, s) =>
    let row : Row := Vector.ofFn (fun i => if i.val < m then
      (List.range n).foldl (fun a l => a ||| (lowBits t'.width (stagedElem q.bse z t (cs.getD (i.val * n + l) 0)) <<< (t'.width * l))) 0 else 0)
    (.ok (bytesOfRow row), s)

/-- A row of the codes of a side. -/
def State.stageCodes (s : State) (w : TileWho) (q : StageJob) (base i m x : Nat) : Except TileErr (List Byte) × State :=
  match s.readCodes w 3 base (ceilDiv (recK q.b) 32) i (16 * q.chunk + x) m with
  | (.error e, s) => (.error e, s)
  | (.ok cs, s) => (.ok ((cs ++ List.replicate 64 0).take 64), s)

/-- A row of elements, packed. -/
def State.stageRow (s : State) (w : TileWho) (r : TRef) (t : Ty) (ps : List (Nat × Nat)) : Except TileErr (List Byte) × State :=
  match s.readElems w r t ps with
  | (.error e, s) => (.error e, s)
  | (.ok cs, s) => (.ok (packRow t cs), s)

/-- The places of row `x` of a sub-tile in A: TCPY transposes under TRA (Table 13.5). -/
def rowPlaces (b : List Byte) (i j n x : Nat) : List (Nat × Nat) :=
  (List.range n).map (fun y => swapIf (decide (recOp b = 5) && recTRA b) (i + x, j + y))
/-- The places of one block of the reduced axis for a result row of a TRED. -/
def redPlaces (b : List Byte) (blk i : Nat) : List (Nat × Nat) :=
  (List.range (min 64 (redLen b - 64 * blk))).map (fun y => swapIf (recTRA b) (i, 64 * blk + y))

/-- Unit `x` of an image. -/
def State.stageUnit (s : State) (w : TileWho) (q : StageJob) (x : Nat) : StageImg → Except TileErr (List Byte) × State
  | .chunkA => s.stageEntry w q (recRefA q.b) (fmtTA (recFmt q.b)) q.ta q.a.z q.m x (fun i l => swapIf (recTRA q.b) (q.i + i, l))
  | .chunkB => s.stageEntry w q (recRefB q.b) (fmtTB (recFmt q.b)) q.tb q.c.z q.n x (fun j l => swapIf (recTRB q.b) (l, q.j + j))
  | .codesA => s.stageCodes w q q.a.base q.i q.m x
  | .codesB => s.stageCodes w q q.c.base q.j q.n x
  | .oldC =>
    match s.readElems w (recRefC q.b) (fmtTD (recFmt q.b)) ((List.range q.n).map (fun y => (q.i + x, q.j + y))) with
    | (.error e, s) => (.error e, s)
    | (.ok cs, s) => (.ok (packRow tyINT32 cs), s)
  | .rowsA => s.stageRow w (recRefA q.b) (fmtTA (recFmt q.b)) (rowPlaces q.b q.i q.j q.n x)
  | .rowsB => s.stageRow w (recRefB q.b) (fmtTB (recFmt q.b)) ((List.range q.n).map (fun y => (q.i + x, q.j + y)))
  | .blocksA => s.stageRow w (recRefA q.b) (fmtTA (recFmt q.b)) (redPlaces q.b (q.lo + 8 * q.chunk + x / q.m) (q.i + x % q.m))
  | .slicesA => s.stageRow w ((recRefA q.b).slice (x % recK q.b)) (fmtTA (recFmt q.b))
    ((List.range q.n).map (fun y => (q.i + 8 * q.chunk + x / recK q.b, q.j + y)))

/-- A copy from unit `x` on: the unit where it stopped, with the error if one stopped it. -/
def State.copyUnits (s : State) (w : TileWho) (q : StageJob) (img : StageImg) (x : Nat) : Nat → (Option TileErr × Nat) × State
  | 0 => ((none, x), s)
  | n + 1 =>
    match s.stageUnit w q x img with
    | (.error e, s) => ((some e, x), s)
    | (.ok bs, s) =>
      let (c, sp, a) := q.place x img
      State.copyUnits (s.modCore c (fun k => k.setBuf sp ((k.buf sp).store a bs))) w q img (x + 1) n

/-! ### The staging engine (R310, R441) -/

/-- The K-blocks that a child of a block covers, of a TACR the rows of its sub-tile in their place (log 83). -/
def childRun (b : List Byte) (c m : Nat) : Nat × Nat :=
  match recOp b with
  | 1 => (0, recKBlocks b)
  | 3 => redRun b c
  | 8 => (0, m)
  | _ => (0, 1)

/-- A core of a row-pair has a child that has not completed. -/
def State.liveChild (s : State) (t : TileNode) (i : Nat) : Bool :=
  (s.childrenOf t.id).any (fun u => decide (u.child = i ∧ u.st ≠ .complete))

/-- The images of a child for one chunk, in the order of R441; the old C comes last, with the first chunk. The A images of a pair are copied
for its even core, or with those of its odd core when that one alone runs again. -/
def State.childImages (s : State) (t u : TileNode) : List StageImg :=
  let bse := fmtBSE (recFmt t.bytes)
  match recOp t.bytes with
  | 1 =>
    (if u.child % 2 = 0 ∨ !s.liveChild t (u.child - 1) then .chunkA :: (if bse then [.codesA] else []) else []) ++
      [.chunkB] ++ (if bse then [.codesB] else []) ++ (if recACC t.bytes ∧ u.staged = 0 then [.oldC] else [])
  | 2 => .rowsA :: (if mapBinary (recFn t.bytes) then [.rowsB] else [])
  | 3 => [.blocksA]
  | 4 => [.rowsA]
  | 5 => [.rowsA]
  | 8 => [.slicesA]
  | _ => []

/-- A child's next chunk may be staged (R308, R310): its first one before it is released, a later one while it waits for it at that chunk's
first K-block. -/
def State.wantsChunk (s : State) (u : TileNode) : Bool :=
  (decide (u.st = .staging) || decide (u.st = .released)) && u.fault.isNone &&
    (decide (u.staged = 0) ||
      (match u.level with
       | .core c => ((s.core c).seqr.map (fun q => decide (q.parent = some u.id ∧ q.phase = 1 ∧ q.kblk.toNat = 8 * u.staged))).getD false
       | _ => false))

/-- The copy of an image has been done: the next image, or the chunk is staged; with its first chunk a child is released to its sequencer
(R310). -/
def State.copyDone (s : State) (u : TileNode) (c : CoreIx) (last : Bool) : State :=
  if !last then s.modTile u.id (fun u => { u with copy := (u.copy.1 + 1, 0) })
  else
    let s := s.modTile u.id (fun u => { u with staged := u.staged + 1, copy := (0, 0), st := .released })
    if u.staged = 0 then s.modCore c (fun q => { q with seqr := some { Seqr.start u.bytes (some u.id) with ready := true } }) else s

/-- One copy of a child: its scales are read, and the copy runs on from its progress point. A zero point out of range is a decode failure
of the cluster director (R309), at which every fault of a copy arises (R314). -/
def State.runCopy (s : State) (t u : TileNode) (cl : ClusterIx) (k : Nat) : State :=
  let c := coreIn cl (BitVec.ofNat 3 u.child)
  let w : TileWho := { ctx := t.ctx, core := c, env := s.tileEnv t.ctx }
  let imgs := s.childImages t u
  let fail (s : State) (e : TileErr) (prog : Nat) : State := s.tileFaultAt u.id t.bytes u.child (.cluster cl) true e (BitVec.ofNat 64 prog)
  match imgs[u.copy.1]? with
  | none => s.copyDone u c true
  | some img =>
    match (if recOp t.bytes = 1 then s.bothScales w t.bytes else (.ok (⟨fpOne, 0, 0⟩, ⟨fpOne, 0, 0⟩), s)) with
    | (.error e, s) => fail s e u.copy.2
    | (.ok (a, z), s) =>
      let f := recFmt t.bytes
      if zeroOut (fmtBSE f) a.z (fmtTA f) ∨ zeroOut (fmtBSE f) z.z (fmtTB f) then fail s .decode 0
      else
        let (i, j, m, n) := (s.outOf t).coreTile t.bytes k u.child
        let (lo, hi) := childRun t.bytes u.child m
        let q : StageJob := { b := t.bytes, core := c, even := coreIn cl (BitVec.ofNat 3 (u.child / 2 * 2)), chunk := u.staged
                              i := i, j := j, m := m, n := n, lo := lo, hi := hi, a := a, c := z }
        let x := u.copy.2 / img.unit
        match s.copyUnits w q img x (q.units img - x) with
        | ((some e, x), s) => fail (s.modTile u.id (fun u => { u with copy := (u.copy.1, x * img.unit) })) e (x * img.unit)
        | ((none, _), s) => s.copyDone u c (decide (u.copy.1 + 1 = imgs.length))

/-- A staging copy of a cluster director has faulted and waits for its answer (R441). -/
def State.stagingHeld (s : State) (cl : ClusterIx) : Bool :=
  s.tiles.any (fun u => decide (u.st ≠ .failed) && (match u.fault, u.src with
    | some f, .parent p => (byteAt f.1 7).getLsbD 0 && decide ((s.tile p).map (fun t => t.level) = some (.cluster cl))
    | _, _ => false))

/-- The record that a cluster director runs on its resident tile group. -/
def State.clusterRecord (s : State) (cl : ClusterIx) : Option TileNode :=
  s.tiles.find? (fun t => decide (t.level = .cluster cl ∧ t.st = .accepted) && t.stages &&
    ((t.group.bind s.group).map (fun g => decide (g.st = .resident))).getD false)

/-- STAGING_COPY_DONE (R308 to R310, R441): the staging engine of a cluster makes its next copy, one image of one child, in core order. A copy
that faulted holds every later one. -/
def execStagingCopyDone (cl : ClusterIx) (s : State) : Host.Outcome State Fault Refusal :=
  .next (match s.clusterRecord cl with
    | none => s
    | some t =>
      if s.stagingHeld cl then s
      else
        match (List.range 8).findSome? (fun i => (s.childrenOf t.id).find? (fun u => decide (u.child = i) && s.wantsChunk u)), t.blocks with
        | some u, k :: _ => s.runCopy t u cl k
        | _, _ => s)

/-! ### Forwarding (R310, R306, R442) -/

/-- The progress word (R312). -/
def Seqr.word (q : Seqr) : Word := 0#8 ++ q.phase ++ q.sub ++ q.kblk

/-- Windows for `n` chunks of 64 bytes from region cycle `t` on, at most 255 chunks each, one behind the other (R310). -/
def windowsOf (addr t n : Nat) (peer : BitVec 3) : List Win :=
  (List.range (ceilDiv n 255)).map (fun i =>
    { addr := addr + 64 * (255 * i), t := t + 255 * i, n := min 255 (n - 255 * i), peer := peer, bundle := 0, latch := none })

/-- The windows of one forwarding, alike in both cores of a row-pair, from cycle 8 (Table 24.4): the codes of the chunk, then its entries; for a
TRED the running sums. -/
def pairWindows (b : List Byte) (ta : Ty) (chunk : Nat) (peer : BitVec 3) : List Win :=
  if recOp b = 3 then windowsOf resultBase 8 4 peer
  else
    let n := if fmtBSE (recFmt b) then chunkCodes b chunk else 0
    windowsOf (codesBase (16 * chunk)) 8 n peer ++ windowsOf (chunkBase chunk) (8 + n) (4 * chunkEnts b ta chunk) peer

/-- The children of a record that have not completed. -/
def State.liveChildren (s : State) (t : TileNode) : List TileNode := (s.childrenOf t.id).filter (fun u => decide (u.st ≠ .complete))
/-- The even core of a row-pair. -/
def evenOf (i : Nat) : Nat := i / 2 * 2

/-- The children of a record that have not completed wait, every one, at the CSYNC of the tile group, on cores that no lull has stopped; nor has
one stopped the lower core of such a row-pair (R199, R317). Other cores without a child take no part (log 83). -/
def State.tileSynced (s : State) (t : TileNode) (cl : ClusterIx) : Bool :=
  let runs (i : Nat) : Bool := decide ((s.core (coreIn cl (BitVec.ofNat 3 i))).ctl.st ≠ .stopped)
  let live := s.liveChildren t
  ((t.group.bind s.group).map (fun g => decide (g.st = .resident))).getD false && !live.isEmpty && live.all (fun u =>
    runs u.child && runs (evenOf u.child) &&
      ((s.core (coreIn cl (BitVec.ofNat 3 u.child))).seqr.map (fun q => q.sync && decide (q.parent = some u.id))).getD false)

/-- The windows of one forwarding of a row-pair, whose odd core's record is at chunk `chunk`, with a peer. -/
def State.forwardWins (s : State) (t : TileNode) (c : CoreIx) (chunk peer : Nat) : List Win :=
  let w : TileWho := { ctx := t.ctx, core := c, env := s.tileEnv t.ctx }
  let z := match s.readScale w (recRefA t.bytes) (recScaleA t.bytes) (fmtTA (recFmt t.bytes)) with
    | (.ok a, _) => a.z
    | _ => 0
  pairWindows t.bytes (stagedTy (fmtBSE (recFmt t.bytes)) z (fmtTA (recFmt t.bytes))) chunk (BitVec.ofNat 3 peer)

/-- The CSYNC of a tile group completes (R317, R442): the region opens at the next cluster cycle on every core that takes part, and the
windows of each row-pair with it. Where the crossbar does not join a pair nothing is transferred, and the cores that issue the transfer
fault (R16). -/
def State.syncTile (s : State) (t : TileNode) (cl : ClusterIx) : State :=
  let at_ (i : Nat) : CoreIx := coreIn cl (BitVec.ofNat 3 i)
  let open_ (s : State) (i : Nat) (f : Region → Region) : State :=
    s.modCore (at_ i) (fun k => { k with region := f { k.region with start := some (s.cyc (at_ i) + 1) } })
  let live := s.liveChildren t
  let s := live.foldl (fun s u => open_ (s.modCore (at_ u.child) (fun k => { k with seqr := k.seqr.map (fun q => { q with sync := false }) })) u.child id) s
  live.foldl (fun s u =>
    if u.child % 2 = 0 then s
    else if s.joined (at_ (u.child - 1)) (at_ u.child) then
      let chunk := ((s.core (at_ u.child)).seqr.map (fun q => q.fwd)).getD 0
      open_ (open_ s (u.child - 1) (fun r => { r with sends := s.forwardWins t (at_ u.child) chunk u.child })) u.child
        (fun r => { r with recvs := s.forwardWins t (at_ u.child) chunk (u.child - 1) })
    else
      (live.filter (fun v => decide (evenOf v.child = evenOf u.child))).foldl (fun s v =>
        s.tileFault v.id v.child (.core (at_ v.child)) false .denied (((s.core (at_ v.child)).seqr.map Seqr.word).getD 0)) s) s

/-- The CSYNCs of tile groups that the cycle completes. -/
def State.syncTiles (s : State) : State :=
  s.tiles.foldl (fun s t =>
    match t.level with
    | .cluster cl => if s.tileSynced t cl then s.syncTile t cl else s
    | _ => s) s

/-- Every window of a core has closed at its region cycle, and what it read has landed. -/
def State.windowsClosed (s : State) (c : CoreIx) : Bool :=
  let r := (s.core c).region
  r.start.isSome && (r.sends ++ r.recvs).all (fun w => decide (w.t + w.n ≤ s.regionCycle c))

/-- A forwarding ends: the region of the core closes, and with it that of an even core that has no child at work. -/
def State.endForward (s : State) (c : CoreIx) : State :=
  let e := coreIn (clusterOf c) (BitVec.ofNat 3 ((inCluster c).toNat / 2 * 2))
  let close (s : State) (c : CoreIx) : State := s.modCore c (fun k => { k with region := Region.none })
  let s := close s c
  let s := if e ≠ c ∧ (s.core e).seqr.isNone then close s e else s
  s.modCore c (fun k => { k with seqr := k.seqr.map (fun q => { q with fwd := q.fwd + 1 }) })

end Sys2Proof.Machine
end

