-- ==== Sys2Proof/Machine/Sequencer.lean ====
section
/-! DEFINITION. The macro sequencer (R297, R306, R311 to R313) and the completion of tile records (R300). -/

namespace Sys2Proof.Machine

/-! ### What a sequencer runs -/

/-- The record whose fields a sequencer uses; whether its operands are staged, and its result goes through the result image; the chunks
staged; its sub-tile; its run of K-blocks; whether it sends or receives a TRED's running sums, and whether children of its tile group wait
for a forwarding; for a TACR the place of this package among the members, and how many others there are. -/
structure SeqJob where
  b : List Byte
  staged : Bool
  image : Bool
  chunks : Nat
  i : Nat
  j : Nat
  m : Nat
  n : Nat
  lo : Nat
  hi : Nat
  send : Bool
  recv : Bool
  pair : Bool
  own : Nat
  foreign : Nat
  deriving DecidableEq, Repr

/-- K-blocks of a record that one core runs alone, of a TACR the rows of a sub-tile (log 83). -/
def wholeRun (b : List Byte) (m : Nat) : Nat :=
  match recOp b with
  | 1 => recKBlocks b
  | 3 => redBlocks b
  | 8 => m
  | _ => 1

/-- The job of a core record of a cluster's block. -/
def State.childJob (s : State) (t u : TileNode) (k : Nat) : SeqJob :=
  let (i, j, m, n) := (s.outOf t).coreTile t.bytes k u.child
  let (lo, hi) := childRun t.bytes u.child m
  let op := recOp t.bytes
  let spans := decide (op = 8) && (s.chain 6 t.id).any (fun v => decide (v.level = .span))
  { b := t.bytes, staged := t.stages, image := true, chunks := u.staged, i := i, j := j, m := m, n := n, lo := lo, hi := hi
    send := decide (op = 3 ∧ u.child % 2 = 0 ∧ 2 ≤ redBlocks t.bytes), recv := decide (op = 3 ∧ u.child % 2 = 1)
    pair := decide (op = 1 ∨ op = 3) && [1, 3, 5, 7].any (s.liveChild t)
    own := if spans then (s.members t.ctx).idxOf s.pkg.toNat else 0
    foreign := if spans then (s.members t.ctx).length - 1 else 0 }

/-- The job of a core's sequencer: the sub-tile at hand of a TEXEC record, or the one sub-tile of a cluster's child. -/
def State.seqJob (s : State) (q : Seqr) : Option SeqJob :=
  match q.parent with
  | none =>
    if q.sub.toNat < recSubtiles q.bytes then
      let (i, j, m, n) := nthSubtile q.bytes q.sub.toNat
      some { b := q.bytes, staged := false, image := false, chunks := 0, i := i, j := j, m := m, n := n, lo := 0, hi := wholeRun q.bytes m
             send := false, recv := false, pair := false, own := 0, foreign := 0 }
    else none
  | some id =>
    match s.tile id with
    | some u =>
      match u.src with
      | .parent p =>
        match s.tile p with
        | some t => t.blocks.head?.map (s.childJob t u)
        | none => none
      | _ => none
    | none => none

/-- Cells of a sub-tile put into the grid. -/
def gridCells (m n : Nat) (cs : List Cell) (g : Grid) : Grid :=
  (List.range m).foldl (fun g i => (g.setRow i ((g.row i).mapCols n (fun j _ => cs.getD (i * n + j) 0))).markDirty i) g
/-- Cells of a sub-tile taken from the grid. -/
def cellsOf (m n : Nat) (g : Grid) : List Cell := (rect 0 0 m n).map (fun p => g.cell p.1 p.2)

/-- SETSHAPE to the deckle of a sub-tile (R311). A TEXEC leaves the program's shp as it is (R297). -/
def SeqJob.shape (j : SeqJob) (k : Core) : Core := if j.image then { k with shp := mkShp 0 j.m j.n } else k

/-- The load step (R311): SETSHAPE to the deckle, then GZERO DECKLE, or the old C. -/
def State.seqLoad (s : State) (w : TileWho) (j : SeqJob) : Except TileErr Unit × State :=
  let old : Except TileErr (List Cell) × State :=
    if recOp j.b ≠ 1 ∨ !recACC j.b then (.ok (List.replicate (j.m * j.n) 0), s)
    else if j.staged then
      (.ok ((rect 0 0 j.m j.n).map (fun p => BitVec.ofNat 32 ((s.core w.core).gb.le (256 * p.1 + 4 * p.2) 4))), s)
    else s.readElems w (recRefC j.b) (fmtTD (recFmt j.b)) (rect j.i j.j j.m j.n)
  match old with
  | (.error e, s) => (.error e, s)
  | (.ok cs, s) => (.ok (), (s.modCore w.core j.shape).modGrid w.core (gridCells j.m j.n cs))

/-! ### The accumulate step (R311) -/

/-- A scale-block register of the grid loaded, as by VBSC. -/
def Grid.setE (g : Grid) (i : Nat) (v : Vector Byte 64) : Grid := { g with e := g.e.set (i % 8) v (Nat.mod_lt _ (by decide)) }

/-- Codes of both sides for one block of 32 along K. -/
def State.seqCodes (s : State) (w : TileWho) (j : SeqJob) (a c : TScale) (x : Nat) :
    Except TileErr (Vector Byte 64 × Vector Byte 64) × State :=
  if j.staged then
    (.ok (codesVec ((s.core w.core).xb.bytes (codesBase x) 64), codesVec ((s.core w.core).wb.bytes (codesBase x) 64)), s)
  else
    let per := ceilDiv (recK j.b) 32
    match s.readCodes w (recRefA j.b).space a.base per j.i x j.m with
    | (.error e, s) => (.error e, s)
    | (.ok ca, s) =>
      match s.readCodes w (recRefB j.b).space c.base per j.j x j.n with
      | (.error e, s) => (.error e, s)
      | (.ok cb, s) => (.ok (codesVec ca, codesVec cb), s)

/-- The entries of one K-block: from the staged chunk, or through the sequencer's own fill path. -/
def State.seqEntries (s : State) (w : TileWho) (j : SeqJob) (kb : Nat) (ta tb : Ty) : Except TileErr (List Row × List Row) × State :=
  if j.staged then
    let k := s.core w.core
    let ents (m : Memory) (t : Ty) : List Row :=
      (List.range (recSteps j.b kb * stepEnts j.b t)).map (fun e =>
        rowOfBytes (m.bytes (chunkBase (kb / 8) + kb % 8 * blockSize j.b t + 256 * e) 256))
    (.ok (ents k.xb ta, ents k.wb tb), s)
  else
    match s.readA w j.b j.i j.m kb with
    | (.error e, s) => (.error e, s)
    | (.ok xs, s) =>
      match s.readB w j.b j.j j.n kb with
      | (.error e, s) => (.error e, s)
      | (.ok ys, s) => (.ok (blockEntries j.b ta ta false 0 kb j.m xs, blockEntries j.b tb tb false 0 kb j.n ys), s)

/-- The accumulate step of a TMMA K-block (R311, R309): VBSC loads of its codes, entries, the rank-k steps. The codes of its two blocks of 32 go to e0
and e1 for A, e2 and e3 for B (log 127). -/
def State.seqAccumulate (s : State) (w : TileWho) (j : SeqJob) (kb : Nat) : Except TileErr Flags × State :=
  match s.bothScales w j.b with
  | (.error e, s) => (.error e, s)
  | (.ok (a, c), s) =>
    let f := recFmt j.b
    let bse := fmtBSE f
    let conv := j.staged && bse
    let ta := if conv then stagedTy bse a.z (fmtTA f) else fmtTA f
    let tb := if conv then stagedTy bse c.z (fmtTB f) else fmtTB f
    let codes : Except TileErr (List (Vector Byte 64 × Vector Byte 64)) × State :=
      if !bse then (.ok [], s)
      else
        match s.seqCodes w j a c (2 * kb) with
        | (.error e, s) => (.error e, s)
        | (.ok x, s) =>
          if recK j.b ≤ 64 * kb + 32 then (.ok [x], s)
          else
            match s.seqCodes w j a c (2 * kb + 1) with
            | (.error e, s) => (.error e, s)
            | (.ok y, s) => (.ok [x, y], s)
    match codes with
    | (.error e, s) => (.error e, s)
    | (.ok cs, s) =>
      match s.seqEntries w j kb ta tb with
      | (.error e, s) => (.error e, s)
      | (.ok (ea, eb), s) =>
        let za := if conv then 0 else a.z.toInt
        let zb := if conv then 0 else c.z.toInt
        let (g, fl) := accumulate j.b j.m j.n kb ta tb za zb ea eb cs (s.core w.core).grid
        let g := cs.zipIdx.foldl (fun (g : Grid) p => (g.setE p.2 p.1.1).setE (2 + p.2) p.1.2) g
        (.ok fl, s.modGrid w.core (fun _ => (List.range j.m).foldl Grid.markDirty g))

/-- The elements of one block of the reduced axis for a result row (R295): staged, or through the sequencer's own fill path. -/
def State.jobBlock (s : State) (w : TileWho) (j : SeqJob) (kb x : Nat) : Except TileErr (List Cell) × State :=
  let t := fmtTA (recFmt j.b)
  let ps := redPlaces j.b (j.lo + kb) (j.i + x)
  if j.staged then
    (.ok (unpackRow t ps.length ((s.core w.core).xb.bytes (chunkBase (kb / 8) + 16384 * (kb % 8) + 256 * x) 256)), s)
  else s.readElems w (recRefA j.b) t ps

/-- One block of a TRED folded for every row of the sub-tile (R306): onto the sums so far in column 0 of the grid, those received from the
lower core, or as the first. -/
def State.foldRows (s : State) (w : TileWho) (j : SeqJob) (kb : Nat) : List Nat → Except TileErr (List Cell × Flags) × State
  | [] => (.ok ([], 0), s)
  | x :: xs =>
    match s.jobBlock w j kb x with
    | (.error e, s) => (.error e, s)
    | (.ok cs, s) =>
      let k := s.core w.core
      let acc : Option Cell :=
        if j.lo + kb = 0 then none
        else if j.recv ∧ kb = 0 then some (BitVec.ofNat 32 (k.xb.le (resultBase + 4 * x) 4))
        else some (k.grid.cell x 0)
      let int := isI32 (fmtTA (recFmt j.b))
      let (r, f) := tredStep int (fmtRc (recFmt j.b)) (redOpOf (recFn j.b)) acc cs
      match State.foldRows s w j kb xs with
      | (.error e, s) => (.error e, s)
      | (.ok (rs, g), s) => (.ok (r.getD (redEmpty int (redOpOf (recFn j.b))) :: rs, f ||| g), s)

/-- Lanes of other packages (R306): they come from outside, a free value each. -/
def State.lanes (s : State) (n : Nat) : List Cell × State :=
  ((List.range n).map (fun i => (Config.freeValue (s.free + i)).setWidth 32), { s with free := s.free + n })

/-- The slices of row `x` of a TACR sub-tile, from slice `p` on: staged, or read in their stated layout. -/
def State.rowSlices (s : State) (w : TileWho) (j : SeqJob) (x p : Nat) : Nat → Except TileErr (List (List Cell)) × State
  | 0 => (.ok [], s)
  | n + 1 =>
    let t := fmtTA (recFmt j.b)
    match (if j.staged then (.ok (unpackRow t j.n ((s.core w.core).xb.bytes (sliceAt x p) 256)), s)
      else s.readElems w ((recRefA j.b).slice p) t ((List.range j.n).map (fun y => (j.i + x, j.j + y)))) with
    | (.error e, s) => (.error e, s)
    | (.ok cs, s) =>
      match State.rowSlices s w j x (p + 1) n with
      | (.error e, s) => (.error e, s)
      | (.ok r, s) => (.ok (cs :: r), s)

/-- The elements of a row of a TACR, each over the slices of the members in member order (R306, R143). -/
def State.sumRow (s : State) (j : SeqJob) (slices : List (List Cell)) : List Nat → (List Cell × Flags) × State
  | [] => (([], 0), s)
  | y :: ys =>
    let f := recFmt j.b
    let (other, s) := s.lanes (j.foreign * recK j.b)
    let all := other.take (j.own * recK j.b) ++ slices.map (fun r => r.getD y 0) ++ other.drop (j.own * recK j.b)
    let (r, fl) := foldBlock (isI32 (fmtTA f)) (fmtRc f) .sum all
    let ((cs, g), s) := State.sumRow s j slices ys
    ((redFin (isI32 (fmtTA f)) (r.getD 0) :: cs, fl ||| g), s)

/-- A row of a TACR sub-tile computed. -/
def State.tacrRow (s : State) (w : TileWho) (j : SeqJob) (x : Nat) : Except TileErr (List Cell × Flags) × State :=
  match s.rowSlices w j x 0 (recK j.b) with
  | (.error e, s) => (.error e, s)
  | (.ok sl, s) =>
    let (r, s) := s.sumRow j sl (List.range j.n)
    (.ok r, s)

/-- One row of cells put into the grid. -/
def gridRow (x n : Nat) (cs : List Cell) (g : Grid) : Grid := (g.setRow x ((g.row x).mapCols n (fun y _ => cs.getD y 0))).markDirty x

/-- The accumulate step of a K-block; of a TACR, a row in its place. -/
def State.seqBlock (s : State) (w : TileWho) (j : SeqJob) (kb : Nat) : Except TileErr Flags × State :=
  match recOp j.b with
  | 1 => s.seqAccumulate w j kb
  | 8 =>
    match s.tacrRow w j kb with
    | (.error e, s) => (.error e, s)
    | (.ok (cs, f), s) => (.ok f, s.modGrid w.core (gridRow kb j.n cs))
  | _ =>
    match s.foldRows w j kb (List.range j.m) with
    | (.error e, s) => (.error e, s)
    | (.ok (rs, f), s) => (.ok f, s.modGrid w.core (gridCells j.m 1 rs))

/-! ### The epilogue (R311) -/

/-- A row of A of a sub-tile, and one of B: staged, or read in its stated layout. -/
def State.jobRowA (s : State) (w : TileWho) (j : SeqJob) (x : Nat) : Except TileErr (List Cell) × State :=
  let t := fmtTA (recFmt j.b)
  if j.staged then (.ok (unpackRow t j.n ((s.core w.core).xb.bytes (256 * x) 256)), s)
  else s.readElems w (recRefA j.b) t (rowPlaces j.b j.i j.j j.n x)
def State.jobRowB (s : State) (w : TileWho) (j : SeqJob) (x : Nat) : Except TileErr (List Cell) × State :=
  let t := fmtTB (recFmt j.b)
  if j.staged then (.ok (unpackRow t j.n ((s.core w.core).wb.bytes (256 * x) 256)), s)
  else s.readElems w (recRefB j.b) t ((List.range j.n).map (fun y => (j.i + x, j.j + y)))

/-- The results of one row of a sub-tile, with the codes of a TQNT under BSE: TMAP, TQNT, TCPY. -/
def State.seqRow (s : State) (w : TileWho) (j : SeqJob) (q : Qs) (x : Nat) : Except TileErr (List Cell × List Byte × Flags) × State :=
  match s.jobRowA w j x with
  | (.error e, s) => (.error e, s)
  | (.ok as, s) =>
    match recOp j.b with
    | 2 =>
      match (if mapBinary (recFn j.b) then s.jobRowB w j x else (.ok [], s)) with
      | (.error e, s) => (.error e, s)
      | (.ok bs, s) =>
        let rs := as.zipIdx.map (fun p => tmapCell j.b p.1 (bs.getD p.2 0))
        (.ok (rs.map Prod.fst, [], rs.foldl (fun (a : Flags) (r : Cell × Flags) => a ||| r.2) 0), s)
    | 4 => (.ok (tqntRow j.b q as), s)
    | _ => (.ok (as, [], 0), s)

/-- The rows of a sub-tile in order. -/
def State.seqRows (s : State) (w : TileWho) (j : SeqJob) (q : Qs) : List Nat → Except TileErr (List (List Cell × List Byte × Flags)) × State
  | [] => (.ok [], s)
  | x :: xs =>
    match s.seqRow w j q x with
    | (.error e, s) => (.error e, s)
    | (.ok r, s) =>
      match State.seqRows s w j q xs with
      | (.error e, s) => (.error e, s)
      | (.ok rs, s) => (.ok (r :: rs), s)

/-- The epilogue of TMAP, TQNT and TCPY: results into the grid, the codes of a TQNT row by row into e0 and e1 (log 127). -/
def State.seqMap (s : State) (w : TileWho) (j : SeqJob) : Except TileErr Flags × State :=
  let f := recFmt j.b
  match (if recOp j.b = 4 ∧ !fmtBSE f then s.readScale w (recRefC j.b) (recScaleB j.b) (fmtTD f) else (.ok ⟨fpOne, 0, 0⟩, s)) with
  | (.error e, s) => (.error e, s)
  | (.ok q, s) =>
    match s.seqRows w j ⟨q.sigma, q.z⟩ (List.range j.m) with
    | (.error e, s) => (.error e, s)
    | (.ok rs, s) =>
      let codes (b : Nat) : Vector Byte 64 := codesVec (rs.map (fun r => r.2.1.getD b 0))
      (.ok (rs.foldl (fun (a : Flags) (r : List Cell × List Byte × Flags) => a ||| r.2.2) 0),
        s.modGrid w.core (fun g =>
          let g := gridCells j.m j.n (rs.flatMap Prod.fst) g
          if recOp j.b = 4 ∧ fmtBSE f then (g.setE 0 (codes 0)).setE 1 (codes 1) else g))

/-- The epilogue: scale and activation of TMMA; the results of the other opcodes. The lower core of a TRED row-pair leaves its sums in its result
image, to be sent (R306). -/
def State.seqEpilogue (s : State) (w : TileWho) (j : SeqJob) : Except TileErr Flags × State :=
  match recOp j.b with
  | 1 =>
    match s.bothScales w j.b with
    | (.error e, s) => (.error e, s)
    | (.ok (a, c), s) =>
      let es := (cellsOf j.m j.n (s.core w.core).grid).map (epilogue j.b a.sigma c.sigma)
      (.ok (es.foldl (fun x e => x ||| e.2) 0), s.modGrid w.core (gridCells j.m j.n (es.map Prod.fst)))
  | 3 =>
    if j.send then
      (.ok 0, s.modCore w.core (fun k => { k with
        xb := k.xb.store resultBase ((List.range 64).flatMap (fun x => leBytes 4 (k.grid.cell x 0).toNat)) }))
    else (.ok 0, s.modGrid w.core (fun g => gridCells j.m 1 ((cellsOf j.m 1 g).map (redFin (isI32 (fmtTA (recFmt j.b))))) g))
  | 6 =>
    match s.gathElems w j.b (rect j.i j.j j.m j.n) with
    | (.error e, s) => (.error e, s)
    | (.ok cs, s) => (.ok 0, s.modGrid w.core (gridCells j.m j.n cs))
  | 7 => (.ok 0, s)
  | 8 => (.ok 0, s)
  | _ => s.seqMap w j

/-! ### The write-back (R311, R313) -/

/-- Cells written to each of several slices of C (TACR). -/
def State.writeSlices (s : State) (w : TileWho) (b : List Byte) (ps : List ((Nat × Nat) × Cell)) : List Nat → Except TileErr Unit × State
  | [] => (.ok (), s)
  | p :: r =>
    match s.writeElems w ((recRefC b).slice p) (fmtTD (recFmt b)) ps with
    | (.error e, s) => (.error e, s)
    | (.ok _, s) => State.writeSlices s w b ps r

/-- The codes of a TQNT written to C's scale block, row by row. -/
def State.writeRowCodes (s : State) (w : TileWho) (j : SeqJob) : List Nat → Except TileErr Unit × State
  | [] => (.ok (), s)
  | x :: xs =>
    let e := (s.core w.core).grid.e
    let codes := ((List.range (ceilDiv j.n 32)).map (fun b => (if b = 0 then e[0] else e[1]).toList.getD x 0))
    match s.writeCodes w j.b (j.i + x) j.j codes with
    | (.error er, s) => (.error er, s)
    | (.ok _, s) => State.writeRowCodes s w j xs

/-- The rows of a sub-tile put into the result image (Table 14.3, R311). -/
def SeqJob.store (j : SeqJob) (k : Core) : Core :=
  if j.image then { k with xb := (List.range j.m).foldl (fun (x : Memory) i => x.store (resultBase + 256 * i) (bytesOfRow (k.grid.row i))) k.xb } else k

/-- What the write-back writes of its sub-tile. -/
def State.writeOut (s : State) (w : TileWho) (j : SeqJob) : Except TileErr Unit × State :=
  let b := j.b
  let ps := (rect j.i j.j j.m j.n).zip (cellsOf j.m j.n (s.core w.core).grid)
  match recOp b with
  | 7 => s.tscatRows w b j.i j.m ((List.range j.n).map (fun x => j.j + x)) (List.range (recM b))
  | 8 => s.writeSlices w b ps (List.range (recK b))
  | 4 =>
    match s.writeElems w (recRefC b) (fmtTD (recFmt b)) ps with
    | (.error e, s) => (.error e, s)
    | (.ok _, s) => if fmtBSE (recFmt b) then s.writeRowCodes w j (List.range j.m) else (.ok (), s)
  | _ => s.writeElems w (recRefC b) (fmtTD (recFmt b)) ps

/-- The write-back (R311, R313): every output word of the sub-tile, or, where a fault stops it, none of them yet. -/
def State.seqWrite (s : State) (w : TileWho) (j : SeqJob) : Except TileErr Flags × State :=
  match (s.modCore w.core j.store).writeOut w j with
  | (.error e, _) => (.error e, s)
  | (.ok _, t) => (.ok 0, t)

/-! ### Steps and interruption points (R312) -/

/-- A fault of a sequencer (R314): of a cluster's child it goes up its levels; of a TEXEC it goes to system software, or ends
the group when it cannot be answered (R316). -/
def State.seqFault (s : State) (c : CoreIx) (q : Seqr) (e : TileErr) : State :=
  match q.parent with
  | some id => s.tileFault id ((s.tile id).map (fun u => u.child) |>.getD 0) (.core c) false e q.word
  | none =>
    match e with
    | .page f =>
      let n := s.ctxOf c
      let (k, s) := s.recordFault { seq := 0, ctx := n, agent := 6, core := c, detail := f.detail, va := f.va, stg := none
                                    group := (s.core c).grp, tile := none, queue := none } { f with size := min f.size 256 }
        (s.tagOf n) ((s.coreid c).toNat % 65536) (BitVec.ofNat 64 (leNat (recPath q.bytes)))
      s.modCore c (fun k' => { k' with seqr := some { q with fault := some k } })
    | .cut false => s
    | .cut true => s.endMine c 0x150 q.word 0
    | _ => s.endMine c 0x115 q.word 0

/-- A TEXEC record has completed (R297): rows +0.0 with both dirty bits, empty queues, flags joined, the completion add. -/
def State.texecDone (s : State) (c : CoreIx) (q : Seqr) : State :=
  let v := fieldAt q.bytes 54 2
  let s := s.modCore c (fun k => { k with
    seqr := none
    grid := { k.grid with
      cells := Vector.replicate 64 Row.zero, fdirty := BitVec.allOnes 64, gdirty := BitVec.allOnes 64
      flags := k.grid.flags ||| q.flags
      queues := k.grid.queues.map (fun u => { u with p := u.p + u.entries.length, entries := [] }) } })
  if v ≠ 0 then s.addCounter (s.ctxOf c) (byteAt q.bytes 52) (BitVec.ofNat 64 v) else s

/-- The sequencer's record is done: a TEXEC completes, a child is complete. -/
def State.seqDone (s : State) (c : CoreIx) (q : Seqr) : State :=
  match q.parent with
  | none => s.texecDone c q
  | some id => (s.modCore c (fun k => { k with seqr := none })).modTile id (fun u => { u with st := .complete })

/-- A record accumulates over K-blocks, or rows in their place. -/
def accumulates (b : List Byte) : Bool := decide (recOp b = 1 ∨ recOp b = 3 ∨ recOp b = 8)

/-- The next step of the sequencer after the one just done (R311, R312). -/
def Seqr.next (q : Seqr) (j : SeqJob) : Seqr :=
  match q.phase.toNat with
  | 0 => { q with phase := if accumulates j.b then 1 else 2, kblk := 0 }
  | 1 => if q.kblk.toNat + 1 < j.hi - j.lo then { q with kblk := q.kblk + 1 } else { q with phase := 2 }
  | 2 => { q with phase := 3 }
  | _ => { q with phase := 0, sub := q.sub + 1, kblk := 0 }

/-- One step of the record. -/
def State.seqStep (s : State) (w : TileWho) (j : SeqJob) (q : Seqr) : Except TileErr Flags × State :=
  match q.phase.toNat with
  | 0 =>
    match s.seqLoad w j with
    | (.error e, s) => (.error e, s)
    | (.ok _, s) => (.ok 0, s)
  | 1 => s.seqBlock w j q.kblk.toNat
  | 2 => s.seqEpilogue w j
  | _ => s.seqWrite w j

/-- The sequencer of a TEXEC may start: every earlier packet has retired, and the entries left over are discarded, their pops
counted (R297). -/
def Core.seqStart (k : Core) (q : Seqr) : Core :=
  if k.grid.giq.isEmpty && k.grid.pkts.isEmpty then
    { k with seqr := some { q with ready := true }
             grid := { k.grid with queues := k.grid.queues.map (fun u => { u with p := u.p + u.entries.length, entries := [] }) } }
  else k

/-- The sequencer stands before a CSYNC of its tile group (R306, R310): a TMMA at the first K-block of a chunk that has not been forwarded, a TRED
where its sums are to be sent, or to be received. -/
def Seqr.syncAt (q : Seqr) (j : SeqJob) : Bool :=
  j.pair && (match recOp j.b with
    | 1 => decide (q.phase = 1 ∧ q.kblk.toNat % 8 = 0 ∧ q.fwd ≤ q.kblk.toNat / 8)
    | _ => decide (q.fwd = 0) && ((j.send && decide (q.phase = 3)) || (j.recv && decide (q.phase = 1 ∧ q.kblk = 0))))

/-- The step waits: a chunk that is not yet staged (R310), a lull that stops the sequencer at this point (R312), a fault record of its child. -/
def State.seqWaits (s : State) (c : CoreIx) (q : Seqr) (j : SeqJob) : Bool :=
  (j.staged && decide (q.phase = 1) && decide (j.chunks ≤ q.kblk.toNat / 8)) ||
    (q.atPoint && (((s.core c).grp.bind s.group).map (fun g => g.lullReq)).getD false) ||
    (match q.parent with
     | some id => ((s.tile id).map (fun u => u.fault.isSome)).getD true
     | none => false)

/-- The record of the sequencer has failed: it is a cancelled child (R316). -/
def State.seqCancelled (s : State) (q : Seqr) : Bool :=
  match q.parent with
  | some id => ((s.tile id).map (fun u => decide (u.st = .failed))).getD true
  | none => false

/-- The step of a sequencer performed (R311): with its write-back a child is complete, in the same event (R307). -/
def State.seqPerform (s : State) (c : CoreIx) (q : Seqr) (j : SeqJob) : State :=
  let w : TileWho := { ctx := s.ctxOf c, core := c, env := s.env c }
  match s.seqStep w j q with
  | (.error e, t) => t.seqFault c q e
  | (.ok fl, t) =>
    let q' := { (q.next j) with flags := q.flags ||| fl }
    if q.parent.isSome ∧ q.phase = 3 then t.seqDone c q' else t.modCore c (fun k => { k with seqr := some q' })

/-- MACRO_SEQUENCER_RUN (R297, R311, R316): the sequencer of a core starts, performs its next step, waits for the CSYNC of its tile group or the
forwarding after it, or finishes its record; one whose record has failed ends at its next interruption point, or where it waits. -/
def execMacroSequencerRun (c : CoreIx) (s : State) : Host.Outcome State Fault Refusal :=
  .next (match (s.core c).seqr with
    | none => s
    | some q =>
      if !q.ready then s.modCore c (fun k => k.seqStart q)
      else if q.fault.isSome then s
      else
        match s.seqJob q with
        | none => s.seqDone c q
        | some j =>
          if (s.core c).timed then (if s.windowsClosed c then s.endForward c else s)
          else if s.seqCancelled q ∧ (q.atPoint ∨ s.seqWaits c q j) then s.modCore c (fun k => { k with seqr := none })
          else if s.seqWaits c q j then s
          else if q.syncAt j then s.modCore c (fun k => { k with seqr := some { q with sync := true } })
          else if j.send ∧ q.phase = 3 then s.seqDone c q
          else s.seqPerform c q j)

/-! ### Completion (R300) -/

/-- Every piece of a record has been given out and every child has completed. -/
def State.tileFinished (s : State) (t : TileNode) : Bool :=
  decide (t.st = .accepted) && t.fault.isNone && t.blocks.isEmpty && (s.childrenOf t.id).all (fun c => decide (c.st = .complete)) &&
    (match t.level with
     | .span => decide (t.next ≠ 0)
     | .package => decide (s.pieces t ≤ t.next)
     | .die _ => (match t.src with
       | .parent p => ((s.tile p).map (fun r => decide (s.pieces r ≤ r.next) && r.blocks.isEmpty)).getD true
       | _ => true)
     | .cluster _ => true
     | .core _ => false)

/-- The completion of a record at its issuing level: the counter add, as a release at span scope (R72, R300). -/
def State.completeRoot (s : State) (t : TileNode) : State :=
  let s := s.dropTiles t.id
  match t.src with
  | .entry n q seq =>
    match (s.queue n q).entry seq 0 with
    | some e => s.entryDone n q e true
    | none => s
  | .tissue n _ c _ =>
    let v := fieldAt t.bytes 54 2
    let s := s.modCore c (fun k => { k with tissued := k.tissued.filter (fun i => decide (i ≠ t.id)) })
    if v ≠ 0 then s.addCounter n (byteAt t.bytes 52) (BitVec.ofNat 64 v) else s
  | .parent _ => s

/-- Rows of a TACR in turn. -/
def State.tacrRows (s : State) (w : TileWho) (j : SeqJob) : List Nat → Except TileErr (List Cell) × State
  | [] => (.ok [], s)
  | x :: xs =>
    match s.tacrRow w j x with
    | (.error e, s) => (.error e, s)
    | (.ok (cs, _), s) =>
      match State.tacrRows s w j xs with
      | (.error e, s) => (.error e, s)
      | (.ok r, s) => (.ok (cs ++ r), s)

/-- The part of a TACR that another member owns, written here once that member has finished (R306): into every C_p, from sums whose lanes of other
packages are free values. -/
def State.foreignPart (s : State) (t : TileNode) : State :=
  let o := s.outOf t
  let w := dieWho t.ctx 0
  let ms := s.members t.ctx
  let j : SeqJob := { b := t.bytes, staged := false, image := false, chunks := 0, i := o.r0, j := 0, m := o.rows, n := o.cols, lo := 0, hi := 0
                      send := false, recv := false, pair := false, own := ms.idxOf s.pkg.toNat, foreign := ms.length - 1 }
  let ps := rect o.r0 0 o.rows o.cols
  let fail (e : TileErr) : State := (s.modTile t.id (fun t => { t with st := .released })).tileFault t.id t.child .package false e 0
  if recOp t.bytes ≠ 8 then s.modTile t.id (fun t => { t with st := .complete })
  else
    match s.tacrRows w j (List.range o.rows) with
    | (.error e, _) => fail e
    | (.ok cs, u) =>
      match u.writeSlices w t.bytes (ps.zip cs) (List.range (recK t.bytes)) with
      | (.error e, _) => fail e
      | (.ok _, u) => u.modTile t.id (fun t => { t with st := .complete })

/-- TILE_RECORD_COMPLETE (R300): a record with every child complete completes; one at the issuing level makes its add. A
record run by another package completes by its answer. A failed record is gone once none of its descendants runs (R316). -/
def execTileRecordComplete (id : Nat) (s : State) : Host.Outcome State Fault Refusal :=
  .next (match s.tile id with
    | none => s
    | some t =>
      if t.st = .failed then
        if !t.isRoot then s
        else
          let s := s.failFamily id
          if s.familyRuns id then s else s.dropTiles id
      else if s.foreign t then (if t.fault.isSome ∨ t.st = .complete then s else s.foreignPart t)
      else if s.tileFinished t then
        if t.isRoot then s.completeRoot t
        else (s.endTileGroup t).modTile id (fun t => { t with st := .complete, group := none })
      else s)

end Sys2Proof.Machine
end

