-- ==== Sys2Proof/Machine/QueueCmds.lean ====
section
/-! DEFINITION. Commands in general (R37) and the queue commands (R61 to R71, Table 3.1): what each does when its turn comes.
The layouts of results are the model's (log 16). -/

namespace Sys2Proof

/-- The context that sent a command: the transport identifies it by its flow's tag (R37, R388). -/
def CmdHdr.issuer (h : CmdHdr) : Nat := Machine.tagCtx h.hdr.tag
/-- The context that a command names. -/
def CmdHdr.ctx (h : CmdHdr) : Nat := h.target.toNat
/-- The command names a tenant context. -/
def CmdHdr.tenant (h : CmdHdr) : Bool := decide (1 ≤ h.ctx ∧ h.ctx ≤ 64)
/-- The issuer is the system context. -/
def CmdHdr.bySystem (h : CmdHdr) : Bool := decide (h.issuer = 0)
/-- The issuer is the named context or the system context. -/
def CmdHdr.byOwner (h : CmdHdr) : Bool := decide (h.issuer = 0 ∨ h.issuer = h.ctx)

end Sys2Proof

namespace Sys2Proof.Machine

/-! ### Commands -/

/-- A command's checks in the order of R37, first failure first: the right, the state, the operands, the room. -/
def firstRefusal (right stateOk operands room : Bool) : Option Nat :=
  if !right then some 3 else if !stateOk then some 1 else if !operands then some 2 else if !room then some 5 else none

/-- READY or MIGRATING (R63, R83). -/
def CtxSt.working (t : CtxSt) : Bool := decide (t = .ready) || decide (t = .migrating)

/-! ### Table 3.1 -/

/-- QUEUE_OPEN; a kind above 1 and a home above 3 are BADOPND (log 150). -/
def State.cmdQueueOpen (s : State) (h : CmdHdr) (queue : BitVec 16) (kind : BitVec 8) (ring : Word) (k prio home : BitVec 8) :
    State :=
  let n := h.ctx
  let q := queue.toNat
  let c := s.ctx n
  let size := 2 ^ (k.toNat + 6)
  let shape := decide (q < c.desc.qmax.toNat) && decide (kind.toNat ≤ 1) && decide (6 ≤ k.toNat ∧ k.toNat ≤ 16) &&
    decide (ring.toNat % size = 0) && decide (prio.toNat ≤ c.desc.pmax.toNat) && decide (home.toNat ≤ 3) &&
    !(decide (kind = 1) && c.queues.toList.any (fun r => r.event && decide (r.st ≠ .closed)))
  let pages := if shape then s.mapPages n ring size .atomic else []
  match firstRefusal h.byOwner (c.st.working && decide ((c.queue q).st = .closed)) (shape && s.pagesServe n pages) true with
  | some e => s.reply h 0x20 e
  | none =>
    (s.modQueue n q (fun _ => { QRec.closed with
      st := .empty, event := decide (kind = 1), prio := prio.extractLsb' 0 3, ring := ring, s := k.toNat
      home := home.extractLsb' 0 2, ringPa := pages })).reply h 0x20 0

/-- QUEUE_CLOSE: undispatched entries are discarded, entries held as faulted count complete, the rest drain (Table 3.3). -/
def State.cmdQueueClose (s : State) (h : CmdHdr) (queue : BitVec 16) : State :=
  let n := h.ctx
  let q := queue.toNat
  match firstRefusal h.byOwner ((s.ctx n).st.working && decide ((s.queue n q).st ≠ .closed)) true true with
  | some e => s.reply h 0x21 e
  | none =>
    let faulted := (s.queue n q).inflight.filter (fun e => e.faulted)
    let s := s.modQueue n q (fun r => { r with st := .draining, a := r.d, head := none, headOk := false })
    let s := faulted.foldl (fun s e => s.entryDone n q e false) s
    let r := s.queue n q
    (if r.st = .draining ∧ (r.event ∨ r.c = r.d) then s.closeQueue n q else s).reply h 0x21 0

/-- QUEUE_SETPRIO. -/
def State.cmdQueueSetprio (s : State) (h : CmdHdr) (queue : BitVec 16) (prio : BitVec 8) : State :=
  let n := h.ctx
  let q := queue.toNat
  let d := (s.ctx n).desc
  let big := decide (d.qmax.toNat ≤ q)
  match firstRefusal h.byOwner ((s.ctx n).st.working && (big || decide ((s.queue n q).st ≠ .closed)))
      (!big && decide (prio.toNat ≤ d.pmax.toNat)) true with
  | some e => s.reply h 0x22 e
  | none => (s.modQueue n q (fun r => { r with prio := prio.extractLsb' 0 3 })).reply h 0x22 0

/-- The queue after a QUEUE_RESUME has settled the recorded error (R71): ERROR again with the lowest entry still held as
faulted, else ACTIVE or EMPTY. -/
def State.afterResume (s : State) (n q : Nat) : State :=
  let r := s.queue n q
  let s := s.modQueue n q (fun r => { ({ r with st := .empty } : QRec).wake with errCode := 0, errSeq := 0, errHead := false })
  match r.inflight.filter (fun e => e.faulted) with
  | [] => s
  | e :: es => s.queueError n q 7 (es.foldl (fun m f => min m f.seq) e.seq) false

/-- The recorded error settled by retry (mode 0) or skip (mode 1). A ring whose mapping changed is translated again (log 17). -/
def State.settleError (s : State) (n q : Nat) (skip : Bool) : State :=
  let s := s.mapRing n q
  let r := s.queue n q
  if r.ringPa.all Option.isSome = false then s.queueError n q 8 r.d true
  else if r.errCode = 8 then s.afterResume n q
  else if r.errHead then
    if skip then
      let e : InFlight := { seq := r.d, bytes := s.headBytes n q, launch := 0, faulted := false }
      (((s.modQueue n q (fun r => { r with d := r.d + 1 })).headLeaves n q).entryDone n q e false).afterResume n q
    else s.afterResume n q
  else
    match r.inflight.find? (fun e => decide (e.seq = r.errSeq)) with
    | none => s.afterResume n q
    | some e =>
      if skip then (s.entryDone n q e false).afterResume n q
      else
        match s.headCheck n e.bytes with
        | some code => s.queueError n q code e.seq false
        | none =>
          let s := s.modQueue n q (fun r => { r with inflight := r.inflight.filter (fun f => decide (f.seq ≠ e.seq)) })
          (s.startEntry n q e.bytes e.seq [(q, e.seq)]).afterResume n q

/-- QUEUE_RESUME; a mode above 1 is BADOPND (log 150). -/
def State.cmdQueueResume (s : State) (h : CmdHdr) (queue : BitVec 16) (mode : BitVec 8) : State :=
  let n := h.ctx
  let q := queue.toNat
  match firstRefusal h.byOwner ((s.ctx n).st.working && decide ((s.queue n q).st = .error)) (decide (mode.toNat ≤ 1)) true with
  | some e => s.reply h 0x23 e
  | none => (s.settleError n q (decide (mode = 1))).reply h 0x23 0

/-- The code of a queue state in a result. -/
def QSt.code : QSt → Nat
  | .closed => 0
  | .empty => 1
  | .active => 2
  | .blocked => 3
  | .error => 4
  | .draining => 5
  | .held => 6

/-- The queue record of R61 as QUEUE_READ returns it. -/
def QRec.record (r : QRec) : List Byte :=
  leBytes 1 r.st.code ++ leBytes 1 r.prio.toNat ++ leBytes 1 r.errCode.toNat ++ leBytes 5 0 ++ leBytes 8 r.a ++ leBytes 8 r.d ++
    leBytes 8 r.c ++ leBytes 8 r.errSeq ++ leBytes 8 r.overflow

/-- QUEUE_READ. A queue number of 64 or more names no record; it is answered BADOPND (log 119). -/
def State.cmdQueueRead (s : State) (h : CmdHdr) (queue : BitVec 16) : State :=
  match firstRefusal h.byOwner (decide ((s.ctx h.ctx).st ≠ .free)) (decide (queue.toNat < 64)) true with
  | some e => s.reply h 0x24 e
  | none => s.reply h 0x24 0 0 (s.queue h.ctx queue.toNat).record

/-- QUEUE_CONSUME. -/
def State.cmdQueueConsume (s : State) (h : CmdHdr) (queue : BitVec 16) (count : Word) : State :=
  let n := h.ctx
  let r := s.queue n queue.toNat
  match firstRefusal h.byOwner ((s.ctx n).st.working && decide (r.st ≠ .closed))
      (r.event && decide (r.consumed ≤ count.toNat ∧ count.toNat ≤ r.a)) true with
  | some e => s.reply h 0x25 e
  | none => (s.modQueue n queue.toNat (fun r => { r with consumed := count.toNat })).reply h 0x25 0

/-- FC_READ. -/
def State.cmdFcRead (s : State) (h : CmdHdr) (first count : BitVec 16) : State :=
  match firstRefusal h.byOwner (s.ctx h.ctx).st.working
      (decide (1 ≤ count.toNat ∧ first.toNat + count.toNat ≤ 256)) true with
  | some e => s.reply h 0x26 e
  | none => s.reply h 0x26 0 0 ((List.range count.toNat).flatMap (fun i =>
      leBytes 8 ((s.ctx h.ctx).counter (BitVec.ofNat 8 (first.toNat + i))).toNat))

/-! ### APPEND (R65, R66) -/

/-- An APPEND applied: all its entries or none, answered with the first sequence. -/
def State.applyAppend (s : State) (h : Hdr) (queue : BitVec 16) (entries : List (List Byte)) : State :=
  let n := tagCtx h.tag
  let q := queue.toNat
  match s.appendRefused n q entries.length with
  | some e => s.send h.port h.flow (.appendDone (BitVec.ofNat 8 e) 0)
  | none =>
    let first := (s.queue n q).a
    (s.appendEntries n q entries).send h.port h.flow (.appendDone 0 (BitVec.ofNat 48 first))

end Sys2Proof.Machine
end

