-- ==== Sys2Proof/Machine/PageEvents.lean ====
section
/-! DEFINITION. Events of device memory (17_page): walks over counter blocks (R369 to R372), accesses and walks as units see
them (R353, R363), page hashes (R85), integrity mismatches (R43), retired channels (R24, R350). -/

namespace Sys2Proof.Machine

/-! ### Walks (R369 to R372) -/

/-- Pending blocks start, in increasing index, up to 16 in progress (R369). -/
def Walk.refill (w : Walk) : Walk :=
  { w with busy := w.busy ++ w.pending.take (16 - w.busy.length), pending := w.pending.drop (16 - w.busy.length) }

/-- Waiting walks take the free slots of their die, 32 of them, the lowest first (R364, R369). -/
def State.fillSlots (s : State) (d : BitVec 2) : Nat → State
  | 0 => s
  | n + 1 =>
    match (s.die d).waitWalks with
    | [] => s
    | w :: r =>
      let used := (s.die d).walks.filterMap (fun w => (s.unit w.unit).slot)
      match (List.range 32).find? (fun i => !used.contains i) with
      | none => s
      | some i => ((s.modDie d (fun k => { k with walks := k.walks ++ [w], waitWalks := r })).setUnit { s.unit w.unit with slot := some i }).fillSlots d n

/-- Commands whose walks all have slots complete (R369). -/
def State.walkReplies (s : State) (d : BitVec 2) : State :=
  let waits (c : CmdHdr × Nat × List Nat) : Bool := c.2.2.any (fun u => (s.die d).waitWalks.any (fun w => decide (w.unit = u)))
  ((s.die d).walkCmds.filter (fun c => !waits c)).foldl (fun s c => s.reply c.1 c.2.1 0)
    (s.modDie d (fun k => { k with walkCmds := k.walkCmds.filter waits }))

/-- Walks of a die start. -/
def State.startWalks (s : State) (d : BitVec 2) : State :=
  ((s.fillSlots d (s.die d).waitWalks.length).modDie d (fun k => { k with walks := k.walks.map Walk.refill })).walkReplies d

/-- WALK_START (R369). -/
def execWalkStart (d : BitVec 2) (s : State) : Host.Outcome State Fault Refusal := .next (s.startWalks d)

/-- COUNTER_BLOCK_REWRITE (R369 to R372): the block of a unit that was started first is rewritten; the next one starts. -/
def execCounterBlockRewrite (d : BitVec 2) (unit : Nat) (s : State) : Host.Outcome State Fault Refusal :=
  .next (match (s.die d).walks.find? (fun w => decide (w.unit = unit) && !w.busy.isEmpty) with
    | none => s
    | some w =>
      let b := unit * 512 + w.busy.headD 0
      (((s.rewriteBlock (w.rekeys b) b).endBlock b).frameScrubbed (b / 16)).startWalks d)

/-- A frame scrubbed (R370): its 16 counter blocks are pending. -/
def State.scrubFrame (s : State) (n : Nat) : State := s.addWalk (n / 32) false ((List.range 16).map (fun i => n % 32 * 16 + i))

/-- A unit re-keyed (R364, R371): a new owner, root and nodes zero, all 512 blocks pending. -/
def State.rekeyUnit (s : State) (u : Nat) (owner : UnitOwner) : State :=
  (s.setUnit { s.unit u with owner := owner, root := 0, ctrs := [] }).addWalk u true (List.range 512)

/-- A command that completes once the walks of some units have their slots (R369). -/
def State.walkCmd (s : State) (h : CmdHdr) (code : Nat) (us : List Nat) : State :=
  s.modDie (homeDie (us.headD 0 * 2097152)) (fun k => { k with walkCmds := k.walkCmds ++ [(h, code, us)] })

/-- Every walk slot of the package filled. -/
def State.startAllWalks (s : State) : State := allDies.foldl State.startWalks s

/-! ### Accesses and walks -/

/-- MEMORY_ACCESS (R33, R363): a request at its home memory unit, after translation. One of a stale tag is dropped, one that the
frame table refuses is not served; a write is accepted, a read settles pending blocks. -/
def execMemoryAccess (tag : Tag) (pa : BitVec 48) (k : AccKind) (len : Nat) (data : List Byte) (s : State) :
    Host.Outcome State Fault Refusal :=
  .next (if !s.tagCurrent tag ∨ s.frameCheck (tagCtx tag) pa.toNat ≠ none then s
    else if isWrite k then (if s.sealed (pa.toNat / frameBytes) then s else s.putMem pa.toNat (data.take len))
    else (s.getMem pa.toNat len).2)

/-- TABLE_WALK (R353, R358): the walk of a core's access fills the TLBs; one that faults fills nothing. -/
def execTableWalk (c : CoreIx) (va : Word) (k : AccKind) (s : State) : Host.Outcome State Fault Refusal :=
  .next (match s.translate (s.ctxOf c) (dieOf c) (some c) va k 8 with
    | (.ok _, t) => t
    | (.error _, _) => s)

/-! ### Sealed code (R84, R85) -/

/-- The core waits for the hash of a page: the bundle that it fetches (R85). -/
def Ctl.hashOf (t : Ctl) (base : Word) : Option Word :=
  match t.wait with
  | some (.hash va bun) => if va.toNat / 65536 = base.toNat / 65536 then some bun else none
  | _ => none

/-- A kernel fails (Table 4.4): its groups that stand on cores end with the code-integrity fault, at the core and bundle of the fetch
that found it; a group without one is reported with its first core and the start of the code (log 110). -/
def State.failKernel (s : State) (n i : Nat) (base : Word) : State :=
  let k := (s.ctx n).kernel i
  let gs := s.groups.filter (fun g => decide (g.ctx = n ∧ g.kslot = i ∧ g.handle = k.handle ∧ g.st ≠ .ended) && g.tile.isNone && !g.cores.isEmpty)
  let s := (s.modKernel n i (fun k => { k with st := .failed })).recheckHeads n k.handle
  gs.foldl (fun s g =>
    let (c, bun) := (g.cores.findSome? (fun c => ((s.core c).ctl.hashOf base).map (fun b => (c, b)))).getD (g.cores.headD 0, k.codeVa)
    s.endGroup g.id 0x090 c bun 0) s

/-- A page of a kernel marked verified in the frame where it was hashed. -/
def KRec.verify (k : KRec) (va : Word) (frame : Nat) : KRec :=
  { k with pages := k.pages.map (fun p => if p.va = va then { p with verified := true, frame := frame } else p) }

/-- The core waits for a page to be hashed (R85). -/
def Ctl.waitsHash (t : Ctl) : Bool :=
  match t.wait with
  | some (.hash _ _) => true
  | _ => false

/-- Cores of a context that wait for a hash go on. -/
def State.endHashWaits (s : State) (n : Nat) : State :=
  allCores.foldl (fun s c => if (s.core c).ctl.waitsHash ∧ s.ctxOf c = n then s.endWait c else s) s

/-- PAGE_HASH (R85): an unverified sealed page that is mapped is hashed; a match verifies it, a mismatch fails the kernel. With
no mapping the fetch faults in the ordinary way. -/
def execPageHash (ctx : CtxNo) (va : Word) (s : State) : Host.Outcome State Fault Refusal :=
  let n := ctx.toNat
  let base : Word := BitVec.ofNat 64 (va.toNat / 65536 * 65536)
  let hit := (List.range 64).findSome? (fun i =>
    (((s.ctx n).kernel i).pages.find? (fun p => decide (p.va = base) && !p.verified)).map (fun p => (i, p)))
  .next (match hit with
    | none => s.endHashWaits n
    | some (i, p) =>
      match s.walk n base .fetch with
      | .error _ => s.endHashWaits n
      | .ok x =>
        let (bs, s) := s.getMem x.pa 65536
        if Config.sha256 bs = p.digest then (s.modKernel n i (fun k => k.verify base (x.pa / frameBytes))).endHashWaits n
        else (s.failKernel n i base).endHashWaits n)

/-! ### Integrity, retirement -/

/-- The context under whose key a line stands: the owner of its frame (R43, R367). -/
def State.lineOwner (s : State) (pa : Nat) : Nat := (s.frame (pa / frameBytes)).owner

/-- A virtual range of a core's context reaches a line. -/
def State.reachesLine (s : State) (c : CoreIx) (line : Nat) (va : Word) (n : Nat) : Bool :=
  match s.translateRange (s.ctxOf c) (dieOf c) (some c) va .read n with
  | (.ok ps, _) => ps.any (fun p => (linesOf p.1 p.2).contains line)
  | _ => false

/-- The device ranges of an endpoint's rows from one on. -/
def EndPt.spans (p : EndPt) (first rows len : Nat) (stride : Word) : List (Word × Nat) :=
  if p.space = .dm then (List.range (rows - first)).map (fun r => (p.addr + BitVec.ofNat 64 (first + r) * stride, len)) else []

/-- The device ranges that a started operation still reads or writes, from its progress point on. -/
def State.opSpans (s : State) (c : CoreIx) (e : EngEntry) : List (Word × Nat) :=
  match e.op with
  | .copy d p rows len ds ss => d.spans (e.prog / rowChunks len) rows len ds ++ p.spans (e.prog / rowChunks len) rows len ss
  | .stream b =>
    let w := strmWidth b
    let rb := fieldAt b 4 4
    (wordAt b 48, 8) :: (List.range (fieldAt b 32 4 - e.prog)).flatMap (fun j =>
      let i := e.prog + j
      let ia := wordAt b 8 + BitVec.ofNat 64 (i * w)
      let x := match s.readVa (s.ctxOf c) (dieOf c) none ia w with
        | (.ok bs, _) => leNat bs
        | _ => 0
      [(ia, w), (wordAt b 40 + BitVec.ofNat 64 (i * rb), rb), (wordAt b 16 + BitVec.ofNat 64 x * wordAt b 24, rb)])
  | .scatter _ n base => (List.range (n - e.prog)).map (fun j =>
      let off := fieldAt e.buf (8 * (e.prog + j)) 4
      (base + BitVec.ofNat 64 (off - off % 4), 4))
  | .rred _ dest n _ _ _ => if e.prog = 0 then [(dest, 4 * n)] else []
  | _ => []

/-- The access of a core that a line meets: its bundle, or the operation's progress point, and its address (R43): a read that is
outstanding, a store held in the gate, or a started engine operation. -/
def State.meetsLine (s : State) (c : CoreIx) (line : Nat) : Option (Word × Word) :=
  let k := s.core c
  let reads := k.devReads.map (fun r => match r with
    | .ldg l => (l.bun, l.va, l.w.bytes)
    | .fill _ e => (e.bun, e.va, 256))
  let ops := (k.eng.toList.filterMap (fun q => q.head?)).filter (fun e => e.started)
  ((reads.find? (fun r => s.reachesLine c line r.2.1 r.2.2)).map (fun r => (r.1, r.2.1))).or
    (((k.rs.gate.find? (fun h => decide (h.space = .dm ∧ h.addr / 64 = line))).map (fun h => (h.bun, h.va))).or
    (ops.findSome? (fun e => ((s.opSpans c e).find? (fun r => s.reachesLine c line r.1 r.2)).map (fun r => (BitVec.ofNat 64 e.prog, r.1)))))

/-- Cores of other contexts with an access that a line meets: a window peer is faulted, not frozen (R43). -/
def State.peerReaders (s : State) (pa owner : Nat) : List (CoreIx × Word × Word) :=
  allCores.filterMap (fun c => if s.ctxOf c = owner ∨ (s.core c).grp = none then none else (s.meetsLine c (pa / 64)).map (fun r => (c, r)))

/-- The device-memory addresses of elements at some places of an operand. -/
def TRef.addresses (r : TRef) (t : Ty) (ps : List (Nat × Nat)) : List Nat :=
  if r.space = 3 then ps.map (fun p => (r.elem t.width p.1 p.2).1) else []

/-- The addresses of the elements that a sub-tile's job reads and writes. -/
def SeqJob.addresses (j : SeqJob) : List Nat :=
  let f := recFmt j.b
  let all := rect j.i j.j j.m j.n
  let c := (recRefC j.b).addresses (fmtTD f) all
  match recOp j.b with
  | 1 => (recRefA j.b).addresses (fmtTA f) ((rect j.i 0 j.m (recK j.b)).map (swapIf (recTRA j.b))) ++
      (recRefB j.b).addresses (fmtTB f) ((rect 0 j.j (recK j.b) j.n).map (swapIf (recTRB j.b))) ++ c
  | 3 => (recRefA j.b).addresses (fmtTA f) ((List.range (j.hi - j.lo)).flatMap (fun b =>
      (List.range j.m).flatMap (fun x => redPlaces j.b (j.lo + b) (j.i + x)))) ++ c
  | 8 => (List.range (recK j.b)).flatMap (fun p =>
      ((recRefA j.b).slice p).addresses (fmtTA f) all ++ ((recRefC j.b).slice p).addresses (fmtTD f) all)
  | _ => (recRefA j.b).addresses (fmtTA f) ((List.range j.m).flatMap (rowPlaces j.b j.i j.j j.n)) ++
      (if mapBinary (recFn j.b) then (recRefB j.b).addresses (fmtTB f) all else []) ++ c

/-- The first of some addresses of a context that lies in a line. -/
def State.meetsAny (s : State) (ctx line : Nat) (as : List Nat) : Option Nat :=
  let vas := ((as.map (· / 65536)).eraseDups).filterMap (fun p =>
    match s.walk ctx (BitVec.ofNat 64 (p * 65536)) .read with
    | .ok x => if x.pa / 65536 = line / 1024 then some (p * 1024 + line % 1024) else none
    | .error _ => none)
  as.find? (fun a => vas.contains (a / 64))

/-- Requests of staging and of sequencers for a line of another context's key (R43): the child's record is faulted, and a TEXEC ends its
group. -/
def State.faultTiles (s : State) (pa owner : Nat) (detail : BitVec 4) : State :=
  let s := s.tiles.foldl (fun s u =>
    match u.level, u.src with
    | .core c, .parent p =>
      if u.ctx = owner ∨ (u.st ≠ .staging ∧ u.st ≠ .released) then s
      else
        match s.tile p with
        | some t =>
          match t.blocks.head?.bind (fun k => s.meetsAny u.ctx (pa / 64) (s.childJob t u k).addresses) with
          | some a =>
            let staging := decide (u.st = .staging)
            s.tileFaultAt u.id (if staging then t.bytes else u.bytes) u.child (if staging then t.level else .core c) staging (.integrity detail a)
              (((s.core c).seqr.map Seqr.word).getD 0)
          | none => s
        | none => s
    | _, _ => s) s
  allCores.foldl (fun s c =>
    match (s.core c).seqr with
    | some q =>
      if s.ctxOf c = owner ∨ q.parent.isSome then s
      else if ((s.seqJob q).bind (fun j => s.meetsAny (s.ctxOf c) (pa / 64) j.addresses)).isSome then
        s.endMine c (BitVec.ofNat 9 (0x140 + detail.toNat)) q.word 0
      else s
    | none => s) s

/-- What a mismatch would be found on is not filled from HBM4 (R367): a line, or a counter block, that its cache holds with newer bytes. -/
def State.unfilled (s : State) (pa : Nat) (detail : BitVec 4) : Bool :=
  (decide (detail = 1) && s.lineDirty pa) ||
    (decide (detail = 2) && (s.cache (homeDie pa)).any (fun e => decide (e.key = .lines (pa / 4096)) && e.dirty.getLsbD 64))

/-- INTEGRITY_MISMATCH (R43, R56, R401): the owner of the line's key is frozen; a peer whose access meets the line ends with the integrity
code, of detail 1 to 3. None is found on what is not filled (R367). A mismatch in a reset is part of it. The system context, whose key no rule of R43 covers, is not frozen (log 111). -/
def execIntegrityMismatch (pa : BitVec 48) (detail : BitVec 4) (s : State) : Host.Outcome State Fault Refusal :=
  .next (if !inRegion pa.toNat ∨ (s.frame (pa.toNat / frameBytes)).st = .free ∨ (s.frame (pa.toNat / frameBytes)).st = .retired ∨
      s.unfilled pa.toNat detail ∨ detail = 0 ∨ 3 < detail.toNat then s
    else
      let n := s.lineOwner pa.toNat
      let s := (s.faultTiles pa.toNat n detail)
      let s := (s.peerReaders pa.toNat n).foldl (fun s r => s.endMine r.1 (BitVec.ofNat 9 (0x140 + detail.toNat)) r.2.1 r.2.2) s
      if n = 0 then s else s.freeze n 0)

/-- The stack of a channel lies on its die (R23). -/
def stackDie (k : Fin 12) : BitVec 2 := BitVec.ofNat 2 (k.val / 3)

/-- The frames of the top 2 GiB of what is left of a die's region (R350). -/
def State.topFrames (s : State) (d : BitVec 2) : List Nat :=
  let gone := (317 - (s.die d).hbmUnits) / 4
  (List.range 32768).map (fun i => d.toNat * 2 ^ 22 + 2596864 - 32768 * (gone + 1) + i)

/-- CHANNEL_RETIREMENT (R24, R50, R350): the reserve of the stack, else another of the die, takes the channel; with none left the
top 2 GiB of the region retire, once their frames are free. -/
def execChannelRetirement (k : Fin 12) (s : State) : Host.Outcome State Fault Refusal :=
  let d := stackDie k
  let die := s.die d
  let count (s : State) : State := { s with boot := { s.boot with capGen := s.boot.capGen + 1 } }
  .next (match ((k.val % 3) :: [0, 1, 2]).find? (fun i => (die.reserve[i]?).getD false) with
    | some i => (count (s.modDie d (fun q => { q with reserve := q.reserve.set! i false, retired := q.retired + 1 }))).capacityChanged d
    | none =>
      let fs := s.topFrames d
      if fs.all (fun n => decide ((s.frame n).st = .free) || decide ((s.frame n).st = .retired)) then
        let lo := fs.headD 0
        let s := s.modDie d (fun q => { q with retired := q.retired + 1, hbmUnits := q.hbmUnits - 4 })
        let gone : List Frame := fs.map (fun n =>
          { no := n, st := .retired, toBound := false, owner := 0, dirty := false, win := Option.none })
        let kept := s.frames.filter (fun f => decide (f.no < lo ∨ lo + 32768 ≤ f.no))
        (count { s with frames := gone ++ kept }).capacityChanged d
      else s)

end Sys2Proof.Machine
end

