-- ==== Sys2Proof/Machine/PageCmds.lean ====
section
/-! DEFINITION. The page commands of Table 17.2 but for FAULT_ANSWER: frames (R361 to R364), TLB_INVAL (R359), the fault ring
(R374). -/

namespace Sys2Proof.Machine

/-- The frames that a command names. -/
def frameRange (pa : Word) (count : Nat) : List Nat := (List.range count).map (fun i => pa.toNat / frameBytes + i)

/-- A frame range is aligned and lies in one region (Table 17.2). -/
def frameRangeOk (pa : Word) (count : Nat) : Bool :=
  decide (pa.toNat % frameBytes = 0) && decide (1 ≤ count ∧ count ≤ 32768) && inRegion pa.toNat &&
    inRegion (pa.toNat + (count - 1) * frameBytes) && decide (pa.toNat / 2 ^ 38 = (pa.toNat + (count - 1) * frameBytes) / 2 ^ 38)

/-- The tag that owns a unit is that of a context which is FREE, or the unit has no owner, or its frames are all FREE or SCRUBBING
with bound 0: it is released (R364). -/
def State.unitReleased (s : State) (u : Nat) : Bool :=
  (match (s.unit u).owner with
   | .none => true
   | .ctx t => decide (tagCtx t ≠ 0 ∧ (s.ctx (tagCtx t)).st = .free)) ||
    (List.range 32).all (fun i =>
      let f := s.frame (u * 32 + i)
      decide (f.st = .free) || (decide (f.st = .scrubbing) && !f.toBound))

/-- A unit is owned by a context. -/
def State.unitOwnedBy (s : State) (u n : Nat) : Bool :=
  match (s.unit u).owner with
  | .none => false
  | .ctx t => decide (tagCtx t = n)

/-- The units of frames, each once. -/
def unitsOf (fs : List Nat) : List Nat := (fs.map (· / 32)).eraseDups

/-- PAGE_BIND (Table 17.3, R364): released units are claimed and re-keyed, and their frames are scrubbed before they are bound. -/
def State.cmdPageBind (s : State) (h : CmdHdr) (pa : Word) (count : BitVec 32) (tag : Tag) : State :=
  let fs := frameRange pa count.toNat
  let us := unitsOf fs
  let n := tagCtx tag
  let ok := decide (count.toNat ≤ 32768)
  match firstRefusal h.bySystem (!ok || fs.all (fun f =>
        decide ((s.frame f).st = .free) || (decide ((s.frame f).st = .scrubbing) && !(s.frame f).toBound)))
      (frameRangeOk pa count.toNat && decide (n ≤ 64) && s.tagCurrent tag && (decide (n = 0) || decide ((s.ctx n).st ≠ .free)) &&
        us.all (fun u => s.unitOwnedBy u n || s.unitReleased u)) true with
  | some e => s.reply h 0x40 e
  | none =>
    let claims := us.filter s.unitReleased
    let scrubs (f : Nat) : Bool := claims.contains (f / 32) || decide ((s.frame f).st = .scrubbing)
    let s := fs.foldl (fun s f => s.modFrame f (fun r =>
      { r with st := if scrubs f then .scrubbing else .bound, toBound := scrubs f, owner := n, dirty := false, win := none })) s
    let s := claims.foldl (fun s u => s.rekeyUnit u (.ctx tag)) s
    if claims.isEmpty then s.reply h 0x40 0 else (s.walkCmd h 0x40 claims).startAllWalks

/-- Frames unbound: SCRUBBING with bound 0, each scrubbed (R370). -/
def State.unbindFrames (s : State) (fs : List Nat) : State :=
  fs.foldl (fun s f => (s.modFrame f (fun r => { r with st := .scrubbing, toBound := false, dirty := false, win := none })).scrubFrame f) s

/-- Frames of one region in the order of their addresses, the last of which may be the first outside it. -/
def namedFrames (pa : Word) (count : BitVec 32) : List Nat := frameRange pa (min count.toNat 2596865)
/-- A frame number stands for a frame in a given state. -/
def State.frameIs (s : State) (f : Nat) (st : FrameSt) : Bool := inRegion (f * frameBytes) && decide ((s.frame f).st = st)

/-- PAGE_UNBIND (log 141). -/
def State.cmdPageUnbind (s : State) (h : CmdHdr) (pa : Word) (count : BitVec 32) : State :=
  let fs := namedFrames pa count
  match firstRefusal h.bySystem (fs.all (fun f => s.frameIs f .bound)) true true with
  | some e => s.reply h 0x41 e
  | none => if fs.isEmpty then s.reply h 0x41 0 else ((s.unbindFrames fs).walkCmd h 0x41 (unitsOf fs)).startAllWalks

/-- PAGE_RETIRE (log 141). -/
def State.cmdPageRetire (s : State) (h : CmdHdr) (pa : Word) (count : BitVec 32) : State :=
  let fs := namedFrames pa count
  match firstRefusal h.bySystem (fs.all (fun f => s.frameIs f .free)) true true with
  | some e => s.reply h 0x42 e
  | none => (fs.foldl (fun s f => s.modFrame f (fun r => { r with st := .retired })) s).reply h 0x42 0

/-- The code of a frame state in a result. -/
def FrameSt.code : FrameSt → Nat
  | .free => 0
  | .bound => 1
  | .window => 2
  | .tracked => 3
  | .scrubbing => 4
  | .retired => 5

/-- Counter blocks of a frame that a walk still has to rewrite. -/
def State.blocksPending (s : State) (f : Nat) : Nat :=
  let d := s.die (homeDie (f * frameBytes))
  ((List.range 16).filter (fun i => (d.walks ++ d.waitWalks).any (fun w => w.has (f * 16 + i)))).length

/-- PAGE_QUERY: state, bound flag, owner tag, dirty bit, blocks pending. -/
def State.cmdPageQuery (s : State) (h : CmdHdr) (pa : Word) : State :=
  match firstRefusal h.bySystem true true true with
  | some e => s.reply h 0x43 e
  | none =>
    let f := s.frame (pa.toNat / frameBytes)
    s.reply h 0x43 0 0 (leBytes 1 f.st.code ++ leBytes 1 f.toBound.toNat ++
      leBytes 2 (if f.st = .free ∨ f.st = .retired then 0 else (s.tagOf f.owner).toNat) ++ leBytes 1 f.dirty.toNat ++ leBytes 3 0 ++
      leBytes 4 (s.blocksPending f.no))

/-! ### TLB_INVAL (R359) -/

/-- Two ranges of virtual addresses share a page. -/
def rangesMeet (a n b m : Nat) : Bool := decide (a < b + m ∧ b < a + n)

/-- A page of a mapping that was translated has no translation now, or another. -/
def unmapped (old new : List (Option Nat)) : Bool := (old.zip new).any (fun p => p.1.isSome && decide (p.2 ≠ p.1))

/-- The mapping of open rings in a range walked again (R62, R359): one that has lost or changed a page is RINGFAULT and goes on over the
pages that it now has. A queue that is in ERROR already keeps the error it recorded (log 17), and a DRAINING one has none to enter. -/
def State.recheckRings (s : State) (n lo len : Nat) : State :=
  (List.range 64).foldl (fun s q =>
    let r := s.queue n q
    if r.st = .closed ∨ !rangesMeet lo len r.ring.toNat (2 ^ (r.s + 6)) then s
    else
      let now := s.ringPages n r
      let s := s.modQueue n q (fun r => { r with ringPa := now })
      if !unmapped r.ringPa now ∨ r.st = .draining ∨ r.st = .error ∨ (r.st = .held ∧ r.heldFrom = .error) then s
      else s.queueError n q 8 r.d true) s

/-- The mapping of sealed code in a range walked again: a page whose frame changed is unverified (R85, R359). -/
def State.recheckSeals (s : State) (n lo len : Nat) : State :=
  (List.range 64).foldl (fun s i =>
    s.modKernel n i (fun k => { k with pages := k.pages.map (fun p =>
      if rangesMeet lo len p.va.toNat 65536 then
        match s.walk n p.va .fetch with
        | .ok x => if x.pa / frameBytes = p.frame then p else { p with frame := x.pa / frameBytes, verified := false }
        | .error _ => { p with verified := false }
      else p) })) s

/-- Watched ranges that overlap are told to their host and dropped (R396). -/
def State.noteWatches (s : State) (n lo len : Nat) : State :=
  let hit (w : Word × Nat × EthPort × BitVec 10) : Bool := rangesMeet lo len w.1.toNat (w.2.1 * 65536)
  let s := ((s.ctx n).watches.filter hit).foldl (fun s w =>
    let a := max lo w.1.toNat / 65536
    let b := (min (lo + len) (w.1.toNat + w.2.1 * 65536) + 65535) / 65536
    s.send w.2.2.1 w.2.2.2 (.xnote (BitVec.ofNat 64 (a * 65536)) (b - a))) s
  s.modCtx n (fun c => { c with watches := c.watches.filter (fun w => !hit w) })

/-- Every cached translation of a range removed, and the range walked again (R359). Contexts by number. -/
def State.invalidate (s : State) (tag : Option Tag) (ns : List Nat) (lo len : Nat) : State :=
  ns.foldl (fun s n => ((s.recheckRings n lo len).recheckSeals n lo len).noteWatches n lo len) (s.tlbDrop tag lo (lo + len))

/-- The range of a TLB_INVAL: its operands hold, its start and length, and the contexts whose range it is (Table 17.2); a stale tag names no
context's range. -/
def invalOk (va len : Word) : Bool := decide (va.toNat % 65536 = 0) && decide (va.toNat + len.toNat * 65536 ≤ 2 ^ 52)
def invalRange (va len : Word) : Nat × Nat := if len = 0 then (0, 2 ^ 52) else (va.toNat, len.toNat * 65536)
def State.invalCtxs (s : State) (tag : Tag) : List Nat :=
  if tag = 0 then (List.range 64).map (· + 1) else if s.tagCurrent tag then [tagCtx tag] else []

/-- TLB_INVAL. -/
def State.cmdTlbInval (s : State) (h : CmdHdr) (tag : Tag) (va len : Word) : State :=
  match firstRefusal h.bySystem true (invalOk va len) true with
  | some e => s.reply h 0x44 e
  | none =>
    let (lo, n) := invalRange va len
    (s.invalidate (if tag = 0 then none else some tag) (s.invalCtxs tag) lo n).reply h 0x44 0

/-- FAULT_RING (R374). -/
def State.cmdFaultRing (s : State) (h : CmdHdr) (pa : Word) (k : BitVec 8) : State :=
  match firstRefusal h.bySystem true (decide (6 ≤ k.toNat ∧ k.toNat ≤ 16) && decide (pa.toNat % 2 ^ (k.toNat + 6) = 0) &&
      decide (pa.toNat < 2 ^ 48) && (decide (16 < k.toNat) || s.ctx0Range pa.toNat (2 ^ (k.toNat + 6)))) true with
  | some e => s.reply h 0x45 e
  | none =>
    let s : State := { s with ring := some (pa.toNat, k.toNat) }
    (s.faultWait.foldl (fun s _ => s.drainFaults) s).reply h 0x45 0

end Sys2Proof.Machine
end

