-- ==== Sys2Proof/Machine/Loader.lean ====
section
/-! DEFINITION. The frozen-latency loader (R89 to R94): the split of a kernel's code into packets and the rescheduling of its
felt loads. -/

namespace Sys2Proof.Machine

/-- How control leaves a packet: it falls through, may branch, jumps, calls, goes where the loader cannot know, or ends. -/
inductive Leave | none | br | jump | call | dyn | exit
  deriving DecidableEq, Repr

/-- A packet as the loader handles it: its offset in the image (none for an inserted null packet), its bundles, its slots, RMARK,
the offset of its branch target and the bundle that holds the transfer. -/
structure LPkt where
  id : Option Nat
  raw : List (List Byte)
  slots : List Instr
  rmark : Bool
  tgt : Option Nat
  tb : Nat
  deriving DecidableEq, Repr

/-- The control transfer of a slot (R93). -/
def Instr.xfer : Instr → Leave
  | .bEq _ _ _ | .bNe _ _ _ | .bLt _ _ _ | .bGe _ _ _ | .bLtu _ _ _ | .bGeu _ _ _ | .loop _ _ => .br
  | .j _ => .jump
  | .call _ => .call
  | .ret _ => .dyn
  | .eret => .dyn
  | .exit => .exit
  | _ => .none

/-- The offset field of a transfer, in bytes (R155). -/
def Instr.offset : Instr → Option Int
  | .bEq _ _ o | .bNe _ _ o | .bLt _ _ o | .bGe _ _ o | .bLtu _ _ o | .bGeu _ _ o | .loop _ o => some (2 * o.toInt)
  | .j o => some (2 * o.toInt)
  | .call o => some (2 * o.toInt)
  | _ => none

/-- The spaces that a slot stores to (R93): ST, VST, RECV into XB, the destination of a copy, and TEXEC, whose record may write C to XB before
the core goes on (R295, R297). -/
def Instr.storesTo : Instr → List (BitVec 2)
  | .stB _ _ p _ | .stH _ _ p _ | .stW _ _ p _ | .stD _ _ p _ => [p]
  | .vst _ _ p _ => [p]
  | .recv _ _ _ => [0]
  | .cpy _ _ _ _ _ y _ => [y]
  | .cpy2d _ _ _ _ _ y _ => [y]
  | .cpyb _ _ _ _ _ y _ => [y]
  | .texec _ => [0]
  | _ => []

/-- A load from XB or WB: destination, base, space. -/
def Instr.feltLoad : Instr → Option (BitVec 5 × BitVec 5 × BitVec 2)
  | .ldB d b p _ | .ldH d b p _ | .ldW d b p _ | .ldD d b p _ | .ldBu d b p _ | .ldHu d b p _ | .ldWu d b p _ =>
    if p.toNat < 2 then some (d, b, p) else none
  | _ => none

/-- The exposed latency of a slot under felt timing (R92, Table 4.5); 0 where it has none. -/
def Instr.latency : Instr → Nat
  | .mul _ _ _ _ | .mulh _ _ _ _ | .mulhu _ _ _ _ => 3
  | .div _ _ _ _ | .divu _ _ _ _ | .rem _ _ _ _ | .remu _ _ _ _ => 20
  | .ldB _ _ p _ | .ldH _ _ p _ | .ldW _ _ p _ | .ldD _ _ p _ | .ldBu _ _ p _ | .ldHu _ _ p _ | .ldWu _ _ p _ =>
    if p.toNat < 2 then 6 else 4
  | .setfmt _ => 4
  | .setshape _ _ _ => 2
  | .settile _ _ => 2
  | _ => 1

def isCsync : Instr → Bool
  | .csync => true
  | _ => false
def isEret : Instr → Bool
  | .eret => true
  | _ => false
def isTrap : Instr → Bool
  | .trap _ => true
  | _ => false

def LPkt.xfer (p : LPkt) : Leave := ((p.slots.map Instr.xfer).find? (fun x => decide (x ≠ .none))).getD .none
def LPkt.reads (p : LPkt) : List (BitVec 5) := p.slots.flatMap Instr.xReads
def LPkt.writes (p : LPkt) : List (BitVec 5) := p.slots.flatMap Instr.xWrites
def LPkt.stores (p : LPkt) : List (BitVec 2) := p.slots.flatMap Instr.storesTo
def LPkt.len (p : LPkt) : Nat := (p.raw.map List.length).sum
/-- A path may fall through to the next packet. -/
def LPkt.falls (p : LPkt) : Bool := decide (p.xfer = .none) || decide (p.xfer = .br)
/-- The packet after it is a return point (R93). -/
def LPkt.returns (p : LPkt) : Bool := decide (p.xfer = .call) || p.slots.any isTrap

/-- A null packet (R93). -/
def LPkt.null : LPkt := { id := none, raw := [[0x20, 0x00]], slots := [], rmark := false, tgt := none, tb := 0 }

/-! ### The split (R90) -/

/-- The slots of a bundle, where each decodes. -/
def bundleInstrs (b : RawBundle) : Option (List Instr) :=
  b.words.foldr (fun w acc =>
    match decodeSlot w.1 b.lit w.2, acc with
    | .ok i, some l => some (i :: l)
    | _, _ => none) (some [])

/-- The bundle at an offset, if it lies whole in the code and decodes. -/
def bundleAt (code : List Byte) (o : Nat) : Option (RawBundle × List Byte × List Instr) :=
  let hb := (code.drop o).take 2
  let n := bundleLen (headerOf hb)
  if hb.length < 2 ∨ (headerOf hb).extractLsb' 8 8 ≠ 0 ∨ code.length < o + n then none
  else
    let bs := (code.drop o).take n
    (bundleInstrs (readBundle bs)).map (fun is => (readBundle bs, bs, is))

/-- The transfer of a packet's bundles: its target offset and its bundle. -/
def targetOf (o : Nat) (bs : List (Nat × List Instr)) : Option (Int × Nat) :=
  bs.zipIdx.findSome? (fun p => (p.1.2.findSome? Instr.offset).map (fun f => (((o + p.1.1 : Nat) : Int) + f, p.2)))

/-- One packet at an offset, and its length. -/
def packetAt (code : List Byte) (o : Nat) : Option (LPkt × Nat) :=
  match bundleAt code o with
  | none => none
  | some (b, bs, is) =>
    let make (raw : List (List Byte)) (slots : List (Nat × List Instr)) : Option (LPkt × Nat) :=
      let t := targetOf o slots
      if (t.map (fun p => decide (p.1 < 0))).getD false then none
      else some ({ id := some o, raw := raw, slots := slots.flatMap Prod.snd, rmark := b.rmark
                   tgt := t.map (fun p => p.1.toNat), tb := (t.map Prod.snd).getD 0 }, (raw.map List.length).sum)
    if b.stop then make [bs] [(0, is)]
    else
      match bundleAt code (o + bs.length) with
      | none => none
      | some (b2, bs2, is2) => if b2.stop then make [bs, bs2] [(0, is), (bs.length, is2)] else none

/-- The packets from an offset to the end of the code. -/
def packetsFrom (code : List Byte) : Nat → Nat → Option (List LPkt)
  | 0, _ => none
  | n + 1, o =>
    if code.length ≤ o then some []
    else
      match packetAt code o with
      | none => none
      | some (p, k) => (packetsFrom code n (o + k)).map (fun l => p :: l)

/-- The split starts at the entry and at every target (R90); a target before the entry moves the start, and code before it stays
as it is. It fails when one of them falls inside a packet. -/
def splitCode (code : List Byte) (entry : Nat) : Nat → Nat → Option (Nat × List LPkt)
  | 0, _ => none
  | n + 1, start =>
    match packetsFrom code (code.length + 1) start with
    | none => none
    | some l =>
      let low := (l.filterMap LPkt.tgt).foldl min start
      if low < start then splitCode code entry n low
      else if (entry :: l.filterMap LPkt.tgt).all (fun t => l.any (fun p => decide (p.id = some t))) then some (start, l) else none

/-! ### Rescheduling (R93, R94) -/

/-- The place of a packet. -/
def placeOfPkt (l : List LPkt) (id : Nat) : Nat := l.findIdx (fun p => decide (p.id = some id))
def pktAt (l : List LPkt) (i : Nat) : LPkt := l.getD i LPkt.null

/-- Packets that a path reaches next. -/
def nextPkts (l : List LPkt) (i : Nat) : List Nat :=
  let p := pktAt l i
  (match p.tgt with
   | some t => [placeOfPkt l t]
   | none => []) ++ (if p.falls && decide (i + 1 < l.length) then [i + 1] else [])

/-- Packets at an issue distance on every path; none when a RET or ERET issues before it. -/
def atDistance (l : List LPkt) (i : Nat) : Nat → Option (List Nat)
  | 0 => some [i]
  | n + 1 =>
    match atDistance l i n with
    | none => none
    | some f => if f.any (fun j => decide ((pktAt l j).xfer = .dyn)) then none else some ((f.flatMap (nextPkts l)).eraseDups)

/-- Keep (R93): no packet at distance 4 or 5 reads or writes the destination. -/
def keeps (l : List LPkt) (i : Nat) (d : BitVec 5) : Bool :=
  match atDistance l i 4, atDistance l i 5 with
  | some a, some b => (a ++ b).all (fun j => !((pktAt l j).reads ++ (pktAt l j).writes).contains d)
  | _, _ => false

/-- Branch targets: those of transfers, the entry, and every return point. -/
def isTarget (l : List LPkt) (entry : Nat) (i : Nat) : Bool :=
  (match (pktAt l i).id with
   | some id => decide (id = entry) || l.any (fun p => decide (p.tgt = some id))
   | none => false) || (decide (0 < i) && (pktAt l (i - 1)).returns)

/-- A RET leaves the packet: where it goes is not known, and every return point of a CALL may follow. -/
def isRet : Instr → Bool
  | .ret _ => true
  | _ => false

/-- Packets that may lie in a timed region, once the packets given do (R94, R319): each path goes on through branches, calls and returns up to a
packet with RMARK, an EXIT or a TRAP, whose trap entry ends the region. An ERET goes where a trap was taken, which is anywhere. -/
def timedStep (l : List LPkt) (f : List Bool) : List Bool :=
  let ons := (List.range l.length).filter (fun i =>
    f.getD i false && decide ((pktAt l i).xfer ≠ .exit) && !(pktAt l i).slots.any isTrap)
  let next := ons.flatMap (nextPkts l)
  let rets := ons.any (fun i => (pktAt l i).slots.any isRet)
  let erets := ons.any (fun i => (pktAt l i).slots.any isEret)
  l.zipIdx.map (fun p => f.getD p.2 false || (!p.1.rmark && (erets || next.contains p.2 ||
    (rets && decide (0 < p.2) && decide ((pktAt l (p.2 - 1)).xfer = .call)))))
/-- Packets between a CSYNC and the end of its timed region, on some path (R94). -/
def timedFlags (l : List LPkt) : List Bool :=
  (List.range l.length).foldl (fun f _ => timedStep l f) (l.map (fun p => p.slots.any isCsync))

/-- Hoist (R93). -/
def hoists (l : List LPkt) (entry i : Nat) (d b : BitVec 5) (sp : BitVec 2) : Bool :=
  let p := pktAt l i
  let timed (j : Nat) : Bool := (timedFlags l).getD j false
  decide (2 ≤ i) && decide (p.slots.length = 1) && !isTarget l entry i && !p.rmark && !timed i &&
    [i - 1, i - 2].all (fun j =>
      let q := pktAt l j
      !isTarget l entry j && decide (q.xfer = .none) && !q.slots.any isTrap && !q.rmark && !timed j &&
        !q.writes.contains d && !q.writes.contains b && !q.stores.contains sp)

/-- Packets from which a path comes. -/
def prevPkts (l : List LPkt) (i : Nat) : List Nat := (List.range l.length).filter (fun j => (nextPkts l j).contains i)

/-- A result of an earlier packet may still be outstanding when the next packet after `i` issues (R93); what comes from a handler
or a callee is not known, and counts as outstanding (log 18). `d` is the distance looked at next. -/
def outstandingFrom (l : List LPkt) (front : List Nat) : Nat → Nat → Bool
  | 0, _ => false
  | n + 1, d =>
    if front.any (fun j => decide (0 < j) && (pktAt l (j - 1)).returns) then true
    else
      let prev := (front.flatMap (prevPkts l)).eraseDups
      prev.any (fun j => (pktAt l j).slots.any (fun i => decide (d + 1 < Instr.latency i))) || outstandingFrom l prev n (d + 1)

/-- Pad (R93). `x` is the load's place among its packet's slots. -/
def pads (l : List LPkt) (entry i x : Nat) : Bool :=
  let p := pktAt l i
  let own := p.slots.zipIdx.any (fun s => decide (s.2 ≠ x ∧ 1 < Instr.latency s.1))
  decide (p.xfer = .none) && !p.slots.any isTrap && !((timedFlags l).getD i false) &&
    ([1, 2, 3, 4, 5].all (fun k => !(decide (i + k < l.length) && isTarget l entry (i + k)))) && !own &&
    !outstandingFrom l [i] 19 1

/-- One load treated: the packets, hoisted and padded loads counted; none sends the kernel to interlocked mode. -/
def treatLoad (entry : Nat) (acc : Option (List LPkt × Nat × Nat)) (ld : Nat × Nat × BitVec 5 × BitVec 5 × BitVec 2) :
    Option (List LPkt × Nat × Nat) :=
  match acc with
  | none => none
  | some (l, h, p) =>
    let (id, x, d, b, sp) := ld
    let i := placeOfPkt l id
    if keeps l i d then some (l, h, p)
    else if hoists l entry i d b sp then some (l.take (i - 2) ++ [pktAt l i, pktAt l (i - 2), pktAt l (i - 1)] ++ l.drop (i + 1), h + 1, p)
    else if pads l entry i x then some (l.take (i + 1) ++ [LPkt.null, LPkt.null] ++ l.drop (i + 1), h, p + 1)
    else none

/-- The felt-reaching loads of the code, in order. -/
def feltLoads (l : List LPkt) : List (Nat × Nat × BitVec 5 × BitVec 5 × BitVec 2) :=
  l.flatMap (fun p => p.slots.zipIdx.filterMap (fun s =>
    match p.id, Instr.feltLoad s.1 with
    | some id, some (d, b, sp) => some (id, s.2, d, b, sp)
    | _, _ => none))

/-! ### Placing (R90, R93) -/

/-- The address of each packet from a start. -/
def addresses : Nat → List LPkt → List Nat
  | _, [] => []
  | a, p :: r => a :: addresses (a + p.len) r

/-- The S slot's word of a bundle with its offset field set (R155): 12 bits of a branch, 25 of a J or CALL. -/
def setOffset (bits : Nat) (raw : List Byte) (off : Int) : List Byte :=
  let w := BitVec.ofNat 32 (fieldAt raw 2 4)
  let mask : Cell := BitVec.ofNat 32 (2 ^ bits - 1)
  setBytes raw 2 (leBytes 4 ((w &&& ~~~mask) ||| (BitVec.ofInt 32 off &&& mask)).toNat)

/-- A packet's bytes with its offset recomputed; none when it does not fit. -/
def placePkt (start : Nat) (l : List LPkt) (as : List Nat) (p : LPkt) (a : Nat) : Option (List Byte) :=
  match p.tgt with
  | none => some p.raw.flatten
  | some t =>
    let bun := a + ((p.raw.take p.tb).map List.length).sum
    let off : Int := ((as.getD (placeOfPkt l t) start : Nat) : Int) - (bun : Int)
    let bits := if p.xfer = .br then 12 else 25
    if off / 2 < -(2 ^ (bits - 1) : Nat) ∨ (2 ^ (bits - 1) : Nat) ≤ off / 2 then none
    else some (p.raw.mapIdx (fun i b => if i = p.tb then setOffset bits b (off / 2) else b)).flatten

/-- The rescheduled code, its entry offset, loads hoisted and padded (R93). -/
def reschedule (code : List Byte) (entry : Nat) : Option (List Byte × Nat × Nat × Nat) :=
  match splitCode code entry (code.length + 1) entry with
  | none => none
  | some (start, l0) =>
    match (feltLoads l0).foldl (treatLoad entry) (some (l0, 0, 0)) with
    | none => none
    | some (l, h, p) =>
      let as := addresses start l
      let parts := (l.zip as).map (fun q => placePkt start l as q.1 q.2)
      if parts.any Option.isNone then none
      else some (code.take start ++ (parts.filterMap id).flatten, as.getD (placeOfPkt l entry) entry, h, p)

/-- The code as placed (R90): run mode, bytes, entry, loads hoisted and padded. -/
def placeCode (h code : List Byte) (range : Nat) : RunMode × List Byte × Nat × Nat × Nat :=
  let entry := fieldAt h 20 4
  if fieldAt h 36 4 ≤ 1048576 ∧ fieldAt h 40 4 ≤ 1048576 then (.native, code, entry, 0, 0)
  else if (byteAt h 7).getLsbD 0 then (.interlocked, code, entry, 0, 0)
  else
    match reschedule code entry with
    | some (bs, e, hoisted, padded) =>
      if bs.length ≤ range then (.feltTimed, bs, e, hoisted, padded) else (.interlocked, code, entry, 0, 0)
    | none => (.interlocked, code, entry, 0, 0)

end Sys2Proof.Machine
end

