-- ==== Sys2Proof/Machine/KernelCmds.lean ====
section
/-! DEFINITION. Kernel images and commands (04_kernel): the checks of Table 4.2, placement and sealing (R84), KERNEL_LOAD, UNLOAD,
QUERY and CODEKEY_SET (Tables 4.3, 4.4). -/

namespace Sys2Proof.Machine

/-! ### The checks of Table 4.2 -/

/-- A field of fmt0 is not reserved (Table 4.1): reserved bits zero, types and rounding defined. -/
def fmt0Ok (v : Nat) : Bool :=
  let f : Word := BitVec.ofNat 64 v
  fmtOk f && [fmtTA f, fmtTB f, fmtTD f].all (fun t => decide (t.code.toNat < 13))

/-- LENGTH (0x01). -/
def imageLengthOk (b : List Byte) (len : Nat) : Bool :=
  let l := fieldAt b 16 4
  decide (96 ≤ len) && decide (len = 96 + l + 16224) && decide (l % 2 = 0 ∧ 2 ≤ l ∧ l ≤ 16777216) &&
    decide (fieldAt b 20 4 % 2 = 0 ∧ fieldAt b 20 4 < l)

/-- FORMAT (0x02). -/
def imageFormatOk (b : List Byte) : Bool :=
  let gmin := fieldAt b 24 2
  let gmax := fieldAt b 26 2
  let rows := (byteAt b 28).toNat
  let cols := (byteAt b 29).toNat
  let row0 := (byteAt b 30).toNat
  decide (fieldAt b 0 4 = 0x314B584B) && decide (fieldAt b 4 2 = 1) && decide (byteAt b 6 = 1) &&
    decide ((byteAt b 7).toNat < 2) && decide (1 ≤ gmin ∧ gmin ≤ gmax ∧ gmax ≤ 128) && decide (rows ≤ 64 ∧ cols ≤ 64) &&
    decide (row0 ≤ 63 ∧ row0 + (if rows = 0 then 64 else rows) ≤ 64) && decide (byteAt b 31 = 0) && fmt0Ok (fieldAt b 32 4) &&
    decide (fieldAt b 36 4 ≤ 2097152 ∧ fieldAt b 40 4 ≤ 2097152 ∧ fieldAt b 44 4 ≤ 65536) && decide (fieldAt b 48 4 ≤ 4096) &&
    decide (fieldAt b 52 4 < 64) && decide ((byteAt b 58).toNat ≤ 15) && zeroBytes b 59 5

/-- The code-signing key of an image's slot, for a context, among the keys as they stood when the load began (R81). -/
def signKey (keys : Vector (Option CodeKey) 16) (n : Nat) (b : List Byte) : Option CodeKey :=
  match (keys[(byteAt b 58).toNat]?).getD none with
  | some k => if k.mask.getLsbD (n - 1) then some k else none
  | none => none

/-- RESOURCE (0x08): the extents fit every core of the partition, gmin the cores of some die. -/
def State.resourceOk (s : State) (part : Nat) (b : List Byte) : Bool :=
  match (s.parts[part % 64]?).getD none with
  | none => false
  | some p =>
    allCores.all (fun c => !p.mask.getLsbD c.toNat || (decide (fieldAt b 36 4 ≤ (s.core c).xbCap) &&
      decide (fieldAt b 40 4 ≤ (s.core c).wbCap) && decide (fieldAt b 44 4 ≤ (s.core c).gbCap))) &&
      allDies.any (fun d => decide (fieldAt b 24 2 ≤ maskOnDie p.conf d))

/-- The frames of a code range, each mapped for fetch to a frame bound to the context. -/
def State.codeFrames (s : State) (n : Nat) (code : Word) (range : Nat) : Option (List Nat) :=
  (List.range (range / 65536)).foldr (fun i acc =>
    let a := BitVec.ofNat 64 (code.toNat + 65536 * i)
    match s.walk n a .fetch, acc with
    | .ok x, some l =>
      let f := s.frame (x.pa / frameBytes)
      if f.owner = n ∧ (f.st = .bound ∨ f.st = .tracked ∨ (f.st = .scrubbing ∧ f.toBound)) then some (f.no :: l) else none
    | _, _ => none) (some [])

/-- The range of a window of a context, as owner or peer (R44, R45), or of a host window. -/
def State.windowRanges (s : State) (n : Nat) : List (Nat × Nat) :=
  (s.windows.filter (fun w => !w.revoking)).flatMap (fun w => (if w.owner = n then [(w.base.toNat, w.len.toNat)] else []) ++
    (match w.peerBase with
     | some b => if tagCtx w.peer = n then [(b.toNat, w.len.toNat)] else []
     | none => [])) ++
    ((s.ctx n).hwins.toList.filterMap (fun w => w.map (fun w => (w.base.toNat, w.len.toNat))))

/-- RANGE (0x09). -/
def State.codeRangeOk (s : State) (n : Nat) (image : Word) (len : Nat) (code range : Word) (l : Nat) : Bool :=
  decide (code.toNat % 65536 = 0 ∧ range.toNat % 65536 = 0 ∧ l ≤ range.toNat ∧ code.toNat + range.toNat ≤ 2 ^ 52) &&
    !rangesMeet code.toNat range.toNat image.toNat len &&
    (s.windowRanges n).all (fun w => !rangesMeet code.toNat range.toNat w.1 w.2) &&
    (match s.codeFrames n code range.toNat with
     | some fs => fs.all (fun f => !s.sealed f)
     | none => false)

/-- The first failing check of Table 4.2 in order, with its detail; `full` is the last (0x0A). -/
def State.loadCheck (s : State) (n : Nat) (keys : Vector (Option CodeKey) 16) (b : List Byte) (image : Word) (len : Nat) (code range : Word)
    (full : Bool) : Option Nat :=
  let l := fieldAt b 16 4
  let digest := (b.drop 64).take 32
  let body := (b.drop 96).take l
  if !imageLengthOk b len then some 0x01
  else if !imageFormatOk b then some 0x02
  else if (Config.sha256 (b.take 64 ++ body)).toNat ≠ leNat digest then some 0x03
  else
    match signKey keys n b with
    | none => some 0x04
    | some k =>
      if !Config.slhVerify192 k.key digest (b.drop (96 + l)) then some 0x05
      else if fieldAt b 8 8 < (s.ctx n).desc.svfloor.toNat then some 0x06
      else if BitVec.ofNat 32 (fieldAt b 52 4) &&& (s.ctx n).desc.fmask ≠ 0 then some 0x07
      else if !s.resourceOk (s.ctx n).desc.part.toNat b then some 0x08
      else if !s.codeRangeOk n image len code range l then some 0x09
      else if full then some 0x0A
      else none

/-! ### KERNEL_LOAD -/

/-- The image as a read of the context; none where a byte cannot be read (IMAGE, 0x0B). -/
def State.readImage (s : State) (n : Nat) (image : Word) (len : Nat) : Option (List Byte) × State :=
  if image.toNat % 64 ≠ 0 then (none, s)
  else
    match s.readVa n 0 none image len with
    | (.ok bs, s) => (some bs, s)
    | (.error _, s) => (none, s)

/-- The code placed and sealed (R84): the bytes written, a digest of each page of the range kept. -/
def State.placeKernel (s : State) (n i : Nat) (b : List Byte) : State :=
  let k := (s.ctx n).kernel i
  let l := fieldAt b 16 4
  let (mode, bytes, entry, hoisted, padded) := placeCode b ((b.drop 96).take l) k.range
  let frames := (s.codeFrames n k.codeVa k.range).getD []
  let s := frames.zipIdx.foldl (fun s p => s.putMem (p.1 * frameBytes) ((bytes.drop (65536 * p.2)).take 65536)) s
  let (pages, s) := frames.zipIdx.foldl (fun (acc : List SealedPage × State) p =>
    let (bs, s) := acc.2.getMem (p.1 * frameBytes) 65536
    (acc.1 ++ [{ va := BitVec.ofNat 64 (k.codeVa.toNat + 65536 * p.2), digest := Config.sha256 bs, frame := p.1, verified := true }], s)) ([], s)
  let c := s.ctx n
  let count := c.loadCount + 1
  (s.modCtx n (fun c => { c with loadCount := count })).modKernel n i (fun k =>
    { k with st := .loaded, handle := count ++ BitVec.ofNat 6 i, header := b.take 96, placed := bytes.length, entry := entry
             mode := mode, hoisted := hoisted, padded := padded, active := 0, pages := pages, cmd := none, load := none })

/-- KERNEL_LOAD (R82, R86): the lowest free slot (log 151) enters LOADING; with none free the checks are made at once, FULL the last. -/
def State.cmdKernelLoad (s : State) (h : CmdHdr) (image : Word) (len : BitVec 32) (code range : Word) : State :=
  let n := h.ctx
  match firstRefusal h.byOwner (s.ctx n).st.working true true with
  | some e => s.reply h 0x30 e
  | none =>
    match (List.range 64).find? (fun i => decide (((s.ctx n).kernel i).st = .absent)) with
    | some i =>
      s.modKernel n i (fun _ => { KRec.absent with
        st := .loading, codeVa := code, range := range.toNat, cmd := some h, load := some (image, len, s.codekeys) })
    | none =>
      match s.readImage n image len.toNat with
      | (none, s) => s.reply h 0x30 2 0x0B
      | (some b, s) => s.reply h 0x30 2 ((s.loadCheck n s.codekeys b image len.toNat code range true).getD 0x0A)

/-- KERNEL_LOAD_CHECKS_DONE (R82, R84, R86): the load of a slot ends: refused with its detail, or placed, sealed and answered with
its handle. -/
def execKernelLoadChecksDone (ctx : CtxNo) (slot : BitVec 6) (s : State) : Host.Outcome State Fault Refusal :=
  let n := ctx.toNat
  let i := slot.toNat
  let k := (s.ctx n).kernel i
  .next (match k.st, k.cmd, k.load with
    | .loading, some h, some (image, len, keys) =>
      match s.readImage n image len.toNat with
      | (none, s) => (s.modKernel n i (fun _ => KRec.absent)).reply h 0x30 2 0x0B
      | (some b, s) =>
        match s.loadCheck n keys b image len.toNat k.codeVa (BitVec.ofNat 64 k.range) false with
        | some d => (s.modKernel n i (fun _ => KRec.absent)).reply h 0x30 2 d
        | none =>
          let s := s.placeKernel n i b
          s.reply h 0x30 0 0 (leBytes 4 ((s.ctx n).kernel i).handle.toNat)
    | _, _, _ => s)

/-- A load in progress ended with ABORTED (R87). -/
def State.abortLoads (s : State) (n : Nat) : State :=
  (List.range 64).foldl (fun s i =>
    let k := (s.ctx n).kernel i
    match k.st, k.cmd with
    | .loading, some h => (s.modKernel n i (fun _ => KRec.absent)).reply h 0x30 4
    | _, _ => s) s

/-! ### The other kernel commands -/

/-- LAUNCHes of a kernel that stand at a head and pass their check have reached it before an unload (R87). -/
def State.passLaunches (s : State) (n : Nat) (handle : BitVec 32) : State :=
  (List.range 64).foldl (fun s q =>
    let b := s.headBytes n q
    if (s.queue n q).head.isSome ∧ byteAt b 0 = 0x80 ∧ BitVec.ofNat 32 (fieldAt b 4 4) = handle ∧ s.headFails n q = none then
      s.modQueue n q (fun r => { r with headOk := true })
    else s) s

/-- KERNEL_UNLOAD (Table 4.4, R83): a kernel that runs, or that a LAUNCH past its check still launches (R87), is UNLOADING until that has
ended (log 116). -/
def State.cmdKernelUnload (s : State) (h : CmdHdr) (handle : BitVec 32) : State :=
  let n := h.ctx
  let hit := (s.ctx n).byHandle handle
  match firstRefusal h.byOwner ((s.ctx n).st.working && (hit.map (fun p => decide (p.2.st ≠ .unloading))).getD true) hit.isSome true with
  | some e => s.reply h 0x31 e
  | none =>
    match hit with
    | none => s
    | some (i, _) =>
      let s := s.passLaunches n handle
      let waits := s.headLaunch n handle
      (s.modKernel n i (fun k => if k.st = .active ∨ (k.st = .loaded ∧ waits) then { k with st := .unloading } else KRec.absent)).reply h 0x31 0

/-- The code of a kernel state and of a run mode in a result. -/
def KSt.code : KSt → Nat
  | .absent => 0
  | .loading => 1
  | .loaded => 2
  | .active => 3
  | .unloading => 4
  | .failed => 5
def RunMode.code : RunMode → Nat
  | .native => 0
  | .interlocked => 1
  | .feltTimed => 2

/-- KERNEL_QUERY (Table 4.3). -/
def State.cmdKernelQuery (s : State) (h : CmdHdr) (handle : BitVec 32) : State :=
  let hit := (s.ctx h.ctx).byHandle handle
  match firstRefusal h.byOwner (s.ctx h.ctx).st.working hit.isSome true with
  | some e => s.reply h 0x32 e
  | none =>
    match hit with
    | none => s
    | some (_, k) =>
      s.reply h 0x32 0 0 (leBytes 1 k.st.code ++ leBytes 1 k.mode.code ++ leBytes 2 0 ++ leBytes 4 k.placed ++ leBytes 4 k.hoisted ++
        leBytes 4 k.padded ++ leBytes 8 (fieldAt k.header 8 8) ++ leBytes 4 k.active)

/-- CODEKEY_SET (R81). -/
def State.cmdCodekeySet (s : State) (h : CmdHdr) (slot : BitVec 8) (key : BitVec 384) (mask : BitVec 64) : State :=
  match firstRefusal h.bySystem true (decide (slot.toNat < 16)) true with
  | some e => s.reply h 0x33 e
  | none => ({ s with codekeys := s.codekeys.set! slot.toNat (some { key := key, mask := mask }) }).reply h 0x33 0

end Sys2Proof.Machine
end

