-- ==== Sys2Proof/Machine/Windows.lean ====
section
/-! DEFINITION. Shared windows (R44 to R47): grant, acceptance, revocation. The re-encryption of a range is one act (log 19). -/

namespace Sys2Proof.Machine

/-- Windows that hold a slot. -/
def State.liveWindows (s : State) : List Window := s.windows.filter (fun w => !w.revoking)
/-- Windows that a context owns or holds. -/
def State.windowsOf (s : State) (n : Nat) : List Window :=
  s.liveWindows.filter (fun w => decide (w.owner = n ∨ tagCtx w.peer = n))

/-- Every line of a frame re-encrypted, in increasing address: its minor advances (R368). -/
def State.recryptFrame (s : State) (f : Nat) : State :=
  ((List.range 16).foldl (fun s i => s.setBlock ((List.range 64).foldl CtrBlock.write (s.block (f * 16 + i)))) s).cacheLines
    (f * frameBytes) frameBytes

/-- The frames of a range of a context's own pages, each BOUND to it and not sealed. -/
def State.ownFrames (s : State) (n : Nat) (va : Word) (len : Nat) : Option (List Nat) :=
  (List.range (len / 65536)).foldr (fun i acc =>
    match s.walk n (BitVec.ofNat 64 (va.toNat + 65536 * i)) .read, acc with
    | .ok x, some l =>
      let f := s.frame (x.pa / frameBytes)
      if f.owner = n ∧ f.st = .bound ∧ !s.sealed f.no then some (f.no :: l) else none
    | _, _ => none) (some [])

/-- WIN_GRANT (R44, R368). The handle is the count of grants, and the result its 4 bytes (log 149). -/
def State.cmdWinGrant (s : State) (h : CmdHdr) (base len : Word) (peer : Tag) : State :=
  let n := h.ctx
  let c := s.ctx n
  let p := tagCtx peer
  let shape := decide (base.toNat % 65536 = 0 ∧ len.toNat % 65536 = 0 ∧ 65536 ≤ len.toNat ∧ len.toNat ≤ 2 ^ 34 ∧
    base.toNat + len.toNat ≤ 2 ^ 52)
  let frames := if shape then s.ownFrames n base len.toNat else none
  let own := (s.liveWindows.filter (fun w => decide (w.owner = n))).length
  match firstRefusal (decide (h.issuer = n))
      (decide (c.st = .ready) && (decide (64 < p) || decide (p = 0) || decide ((s.ctx p).st = .ready)))
      (c.desc.flags.getLsbD 0 && !c.desc.fmask.getLsbD 5 && decide (1 ≤ p ∧ p ≤ 64 ∧ p ≠ n) && s.tagCurrent peer && frames.isSome)
      (decide (own < 8) && decide (s.liveWindows.length < 64)) with
  | some e => s.reply h 0x10 e
  | none =>
    let id : BitVec 32 := BitVec.ofNat 32 (s.winCount + 1)
    let fs := frames.getD []
    let w : Window := { handle := id, owner := n, base := base, len := len, peer := peer, peerBase := none, key := s.keyCount + 1
                        revoking := false }
    let s : State := { s with winCount := s.winCount + 1, keyCount := s.keyCount + 1, windows := s.windows ++ [w] }
    let s := fs.foldl (fun s f => (s.recryptFrame f).modFrame f (fun r => { r with st := .window, win := some id })) s
    s.reply h 0x10 0 0 (leBytes 4 id.toNat)

/-- WIN_ACCEPT (R45). The window of a second accept is not in the state for it: ILLSTATE, and the mapping stays (log 122). -/
def State.cmdWinAccept (s : State) (h : CmdHdr) (handle : BitVec 32) (base : Word) : State :=
  let n := h.ctx
  let w := s.liveWindows.find? (fun w => decide (w.handle = handle))
  match firstRefusal (decide (h.issuer = n)) (decide ((s.ctx n).st = .ready) && (w.map (fun w => w.peerBase.isNone)).getD true)
      ((w.map (fun w => decide (w.peer = s.tagOf n) && decide (base.toNat + w.len.toNat ≤ 2 ^ 52))).getD false &&
        decide (base.toNat % 65536 = 0)) true with
  | some e => s.reply h 0x11 e
  | none =>
    let len := (w.map (fun w => w.len.toNat)).getD 0
    let meets (v : Window) : Bool := v.revoking && decide (tagCtx v.peer = n) &&
      (match v.peerBase with
       | some b => rangesMeet b.toNat v.len.toNat base.toNat len
       | none => true)
    ({ s with windows := (s.windows.filter (fun v => !meets v)).map (fun (v : Window) =>
        if v.handle = handle then { v with peerBase := some base } else v) }).reply h 0x11 0

/-- A window revoked (R47): the peer's cached translations go, the pages return to the owner's key, the slot is freed; a record
stays to tell a later access of the peer why it faults. The event carries the window's handle (log 15). -/
def State.revokeWindow (s : State) (w : Window) (told : Nat) : State :=
  let s := match w.peerBase with
    | some b => s.tlbDrop (some w.peer) b.toNat (b.toNat + w.len.toNat)
    | none => s
  let fs := ((s.frames.filter (fun f => decide (f.st = .window ∧ f.win = some w.handle))).map (fun f => f.no)).mergeSort
  let s := fs.foldl (fun s f => (s.recryptFrame f).modFrame f (fun r => { r with st := .bound, win := none })) s
  let s : State := { s with windows := s.windows.map (fun v => if v.handle = w.handle then { v with revoking := true } else v) }
  s.event told 0x05 (evData [(16, leBytes 4 w.handle.toNat)])

/-- WIN_REVOKE (R47). -/
def State.cmdWinRevoke (s : State) (h : CmdHdr) (handle : BitVec 32) : State :=
  let n := h.ctx
  let w := s.liveWindows.find? (fun w => decide (w.handle = handle))
  let side := (w.map (fun w => decide (w.owner = n ∨ w.peer = s.tagOf n))).getD true
  let st := (s.ctx n).st
  match firstRefusal (decide (h.issuer = n) && side) (decide (st = .ready ∨ st = .lulled ∨ st = .frozen)) w.isSome true with
  | some e => s.reply h 0x12 e
  | none =>
    match w with
    | none => s
    | some w => (s.revokeWindow w (if w.owner = n then tagCtx w.peer else w.owner)).reply h 0x12 0

/-- Every window of a context ended by its reset or destroy (R47): the other side is told. -/
def State.revokeAll (s : State) (n : Nat) : State :=
  (s.windowsOf n).foldl (fun s w => s.revokeWindow w (if w.owner = n then tagCtx w.peer else w.owner)) s

end Sys2Proof.Machine
end

