-- ==== Sys2Proof/Machine/Flows.lean ====
section
/-! DEFINITION. Flows that end (R388, R393) and the descriptor of a context as bytes (Table 2.1). -/

namespace Sys2Proof.Machine

/-! ### Flows -/

/-- The event that a message carries, kept for the retry of R59. -/
def Msg.asEvent : Msg → Option Event
  | .event r => some { code := BitVec.ofNat 16 (fieldAt r 0 2), tag := BitVec.ofNat 16 (fieldAt r 2 2)
                       seq := BitVec.ofNat 64 (fieldAt r 8 8), data := r.drop 16 }
  | _ => none

/-- A flow is lost or closed (R393): its unacknowledged messages are discarded, but for events, which are retried; requests to host
windows on it fail; its number is free. -/
def State.dropFlow (s : State) (p : EthPort) (n : BitVec 10) : State :=
  match s.flow p n with
  | none => s
  | some f =>
    let evs := (f.unacked.map OutMsg.msg ++ (s.waitOut.filter (fun o => decide (o.port = p ∧ o.flow = n))).map WaitMsg.msg).filterMap Msg.asEvent
    let s := s.modCtx f.ctx (fun c => { c with
      events := c.events ++ evs, watches := c.watches.filter (fun w => decide (¬(w.2.2.1 = p ∧ w.2.2.2 = n))) })
    { s with flows := s.flows.filter (fun g => decide (¬(g.port = p ∧ g.no = n)))
             waitOut := s.waitOut.filter (fun o => decide (¬(o.port = p ∧ o.flow = n)))
             hostReqs := s.hostReqs.map (fun r => if r.port = p ∧ r.flow = n ∧ !r.done then { r with failed := true } else r) }

/-- FLOW_LOST (R393): to the system context on flow 0 and, when asked for, to the flow's context. -/
def State.loseFlow (s : State) (p : EthPort) (n : BitVec 10) (tellCtx : Bool) : State :=
  match s.flow p n with
  | none => s
  | some f =>
    let data := evData [(16, leBytes 2 n.toNat)]
    let s := (s.dropFlow p n).event 0 0x09 data
    if tellCtx ∧ f.ctx ≠ 0 then s.event f.ctx 0x09 data else s

/-- The flows of a context closed by its destroy or release (R388). -/
def State.closeFlows (s : State) (n : Nat) : State :=
  (s.flows.filter (fun f => decide (f.ctx = n))).foldl (fun s f => s.loseFlow f.port f.no false) s

/-! ### The descriptor (Table 2.1) -/

/-- The 16 bytes of an address, little-endian as every field of a record (R5). -/
def addrOf (bs : List Byte) : BitVec 128 := BitVec.ofNat 128 (leNat bs)
def addrBytes (a : BitVec 128) : List Byte := leBytes 16 a.toNat

/-- A descriptor read from its image. -/
def descOf (b : List Byte) : Desc :=
  { part := byteAt b 2, flags := byteAt b 3, fmask := BitVec.ofNat 32 (fieldAt b 4 4), sroot := BitVec.ofNat 64 (fieldAt b 8 8)
    qmax := BitVec.ofNat 16 (fieldAt b 16 2), pmax := byteAt b 18, slice := BitVec.ofNat 32 (fieldAt b 20 4)
    svfloor := BitVec.ofNat 64 (fieldAt b 24 8)
    budget := (List.range 12).map (fun i => BitVec.ofNat 32 (fieldAt b (32 + 4 * i) 4)), evhost := addrOf ((b.drop 80).take 16) }

/-- The 128-byte image of a descriptor with its tag. -/
def Desc.image (d : Desc) (tag : Tag) : List Byte :=
  leBytes 2 tag.toNat ++ [d.part, d.flags] ++ leBytes 4 d.fmask.toNat ++ leBytes 8 d.sroot.toNat ++ leBytes 2 d.qmax.toNat ++
    [d.pmax, 0] ++ leBytes 4 d.slice.toNat ++ leBytes 8 d.svfloor.toNat ++ d.budget.flatMap (fun v => leBytes 4 v.toNat) ++
    addrBytes d.evhost ++ List.replicate 32 0

/-- A physical table address: [47:16], other bits zero (Table 2.1). -/
def srootOk (v : Word) : Bool := decide (v.toNat % 65536 = 0 ∧ v.toNat < 2 ^ 48)

/-- The fields of an image lie in their limits, reserved ones zero, no minimum above its cap (R34, R35). -/
def imageFieldsOk (b : List Byte) : Bool :=
  let d := descOf b
  decide (b.length = 128) && decide (d.part.toNat ≤ 63) && decide (d.flags.toNat < 4) && decide (d.fmask.toNat < 64) &&
    srootOk d.sroot && decide (1 ≤ d.qmax.toNat ∧ d.qmax.toNat ≤ 64) && decide (d.pmax.toNat ≤ 7) && decide (byteAt b 19 = 0) &&
    decide (d.slice = 0 ∨ (100 ≤ d.slice.toNat ∧ d.slice.toNat ≤ 100000)) && zeroBytes b 96 32 &&
    (List.range 6).all (fun i => decide ((d.budget.getD (2 * i) 0).toNat ≤ (d.budget.getD (2 * i + 1) 0).toNat))

end Sys2Proof.Machine
end

