-- ==== Sys2Proof/Machine/ContextCmds.lean ====
section
/-! DEFINITION. The context commands (02_context): creation, descriptor, binding, lull and thaw, reset (R54 to R56), destroy,
migration states, dirty bits, and the partition table (R38, R39). -/

namespace Sys2Proof.Machine

/-! ### Generations, queues, groups of a context -/

/-- The generation after another (R33). -/
def nextGen (g : BitVec 9) : BitVec 9 := if g = 511 then 1 else g + 1

/-- Groups of a context that are not ended. -/
def State.groupsOf (s : State) (n : Nat) : List Group := s.groups.filter (fun g => decide (g.ctx = n ∧ g.st ≠ .ended))
/-- Groups of a context that stand on cores. -/
def State.placedGroups (s : State) (n : Nat) : List Group :=
  (s.groupsOf n).filter (fun g => decide (g.st = .resident ∨ g.st = .restoring ∨ g.st = .lulling))

/-- Open queues enter HELD when the context leaves READY and MIGRATING (R69). -/
def QRec.hold (r : QRec) : QRec :=
  if r.st = .empty ∨ r.st = .active ∨ r.st = .blocked ∨ r.st = .error then { r with heldFrom := r.st, st := .held } else r
/-- A held queue re-enters its state, re-evaluated (R69). -/
def QRec.unhold (r : QRec) : QRec := if r.st = .held then ({ r with st := r.heldFrom } : QRec).wake else r

/-- Frames of a context in TRACKED return to BOUND (Table 17.3). -/
def State.untrack (s : State) (n : Nat) : State :=
  { s with frames := s.frames.map (fun f => if f.st = .tracked ∧ f.owner = n then { f with st := .bound } else f) }

/-- A partition gains a context, or loses its active one; the turn of one that leaves passes on as at a slice boundary, else to any other. -/
def State.activate (s : State) (n : Nat) : State :=
  let i := (s.ctx n).desc.part.toNat % 64
  match (s.parts[i]?).getD none with
  | some p => if p.active.isNone then s.giveTurn i n else s
  | none => s
def State.deactivate (s : State) (n : Nat) : State :=
  let i := (s.ctx n).desc.part.toNat % 64
  match (s.parts[i]?).getD none with
  | some p =>
    if p.active = some n then
      match (s.nextCtx i n).or (s.boundCtxs.find? (fun m => decide (m ≠ n ∧ (s.ctx m).desc.part.toNat = i))) with
      | some m => s.giveTurn i m
      | none => { s with parts := s.parts.set! i (some { p with active := none }) }
    else s
  | none => s

/-! ### CTX_CREATE, CTX_WRITE, CTX_READ, CTX_BIND -/

/-- A free context number taken (Table 2.2): generation advanced, descriptor zeroed, a fresh key (R33, R41). -/
def State.freshCtx (s : State) (n : Nat) : State :=
  let c := s.ctx n
  let s : State := { s with keyCount := s.keyCount + 1 }
  s.setCtx n { Ctx.free with gen := nextGen c.gen, gens := c.gens + 1, st := .configured, key := s.keyCount, cmdQ := c.cmdQ }

/-- CTX_CREATE (R36). -/
def State.cmdCtxCreate (s : State) (h : CmdHdr) : State :=
  match firstRefusal h.bySystem (!h.tenant || decide ((s.ctx h.ctx).st = .free)) h.tenant true with
  | some e => s.reply h 0x01 e
  | none => (s.freshCtx h.ctx).reply h 0x01 0

/-- States in which a descriptor may be written (Table 2.6). -/
def CtxSt.writable (t : CtxSt) : Bool :=
  decide (t = .configured) || decide (t = .ready) || decide (t = .lulled) || decide (t = .frozen) || decide (t = .migrating)

/-- The image keeps what only CONFIGURED may change (R35). -/
def State.keepsFixed (s : State) (n : Nat) (d : Desc) : Bool :=
  let c := s.ctx n
  decide (c.st = .configured) || decide (d.part = c.desc.part ∧ d.sroot = c.desc.sroot ∧ d.qmax = c.desc.qmax)

/-- The budgets of an image fit the ports (R35). -/
def State.budgetsOk (s : State) (n : Nat) (d : Desc) : Bool :=
  [EthPort.a, EthPort.b].all (fun p =>
    let others := ((s.boundCtxs.filter (fun m => decide (m ≠ n))).flatMap (fun m => (s.ctx m).desc.minimaOn p)).sum
    decide (others + (d.minimaOn p).sum ≤ s.capacity p) &&
      (decide ((s.port p).factor = 0x10000) ||
        ((d.minimaOn p).zip ((s.ctx n).desc.minimaOn p)).all (fun q => decide (q.1 ≤ q.2))))

/-- CTX_WRITE (R35): the whole image or nothing. -/
def State.cmdCtxWrite (s : State) (h : CmdHdr) (image : List Byte) : State :=
  let n := h.ctx
  let c := s.ctx n
  let d := descOf image
  match firstRefusal h.bySystem (!h.tenant || (c.st.writable && s.keepsFixed n d))
      (h.tenant && imageFieldsOk image && decide (c.desc.svfloor.toNat ≤ d.svfloor.toNat) && s.budgetsOk n d &&
        (d.flags.getLsbD 0 || !c.desc.flags.getLsbD 0 || (s.windowsOf n).isEmpty) &&
        (d.flags.getLsbD 1 || !c.desc.flags.getLsbD 1 || !(decide (c.st = .migrating) || (decide (c.st = .lulled) && c.tracking))))
      true with
  | some e => s.reply h 0x02 e
  | none =>
    let old (p : EthPort) : List Nat := s.inForce p n
    let (oa, ob) := (old .a, old .b)
    let s := s.modCtx n (fun c => { c with
      desc := d
      queues := c.queues.map (fun r => if d.pmax.toNat < r.prio.toNat then { r with prio := d.pmax.extractLsb' 0 3 } else r) })
    let keep (o : List Nat) (q : Port) : Port := if (q.minima.lookup n).isNone then { q with minima := (n, o) :: q.minima } else q
    let s := (s.modPort .a (keep oa)).modPort .b (keep ob)
    let s := if c.bound then s.rebudgets else s
    s.reply h 0x02 0

/-- CTX_READ (R34). -/
def State.cmdCtxRead (s : State) (h : CmdHdr) : State :=
  match firstRefusal h.byOwner (!h.tenant || decide ((s.ctx h.ctx).st ≠ .free)) h.tenant true with
  | some e => s.reply h 0x03 e
  | none => s.reply h 0x03 0 0 ((s.ctx h.ctx).desc.image (s.tagOf h.ctx))

/-- The partition of a number is defined. -/
def State.partDefined (s : State) (i : Nat) : Bool := ((s.parts[i]?).getD none).isSome

/-- CTX_BIND (Table 2.2). -/
def State.cmdCtxBind (s : State) (h : CmdHdr) : State :=
  let n := h.ctx
  let c := s.ctx n
  match firstRefusal h.bySystem (!h.tenant || decide (c.st = .configured))
      (h.tenant && s.partDefined c.desc.part.toNat && decide (c.desc.sroot ≠ 0)) true with
  | some e => s.reply h 0x04 e
  | none =>
    let s := s.modCtx n (fun c => { c with st := .ready, bound := true })
    (s.activate n).rebudgets.reply h 0x04 0

/-! ### CTX_LULL and CTX_THAW (R52, R53) -/

/-- A lull completes when no group of the context stands on a core any more (R52). -/
def State.lullDone (s : State) (n : Nat) : State :=
  match (s.ctx n).cmd with
  | some (.lull h) => if (s.placedGroups n).isEmpty then (s.modCtx n (fun c => { c with cmd := none })).reply h 0x05 0 else s
  | _ => s

/-- CTX_LULL: dispatch stops, every resident group is asked to lull. -/
def State.cmdCtxLull (s : State) (h : CmdHdr) : State :=
  let n := h.ctx
  let c := s.ctx n
  match firstRefusal h.bySystem (!h.tenant || c.st.working) h.tenant true with
  | some e => s.reply h 0x05 e
  | none =>
    let s := s.modCtx n (fun c => { c with st := .lulled, lulledMig := decide (c.st = .migrating), cmd := some (.lull h)
                                           queues := c.queues.map QRec.hold })
    let s : State := { s with groups := s.groups.map (fun g =>
      if g.ctx = n ∧ (g.st = .resident ∨ g.st = .restoring) then { g with lullReq := true } else g) }
    s.lullDone n

/-- Saved groups become pending and the queues go on (R53, Tables 2.2 and 5.1). -/
def State.thaw (s : State) (n : Nat) (st : CtxSt) : State :=
  let s := s.modCtx n (fun c => { c with st := st, queues := c.queues.map QRec.unhold })
  { s with groups := s.groups.map (fun g => if g.ctx = n ∧ g.st = .saved then { g with st := .pending } else g) }

/-- Everything of an import has arrived (R457). -/
def Ctx.importComplete (c : Ctx) : Bool :=
  decide (c.imageSeq ≠ 0) && decide (c.imageSeq < c.importSeq) && c.finalMap.all (fun i => c.finalDone.contains i)

/-- Frames of every code range of a context, or none where one is not wholly mapped to its frames (R98). -/
def State.rangesMapped (s : State) (n : Nat) : Bool :=
  (s.ctx n).kernels.toList.all (fun k => decide (k.st = .absent) || (s.codeFrames n k.codeVa k.range).isSome)

/-- The pages of an imported kernel sealed in their frames, unverified (R98). -/
def State.sealKernel (s : State) (n i : Nat) : State :=
  let fs := (s.codeFrames n ((s.ctx n).kernel i).codeVa ((s.ctx n).kernel i).range).getD []
  s.modKernel n i (fun k => { k with pages := k.pages.zipIdx.map (fun p => { p.1 with frame := fs.getD p.2 0, verified := false }) })

/-- The rings of an imported context translated through its table (R62, R98); one that is not mapped is in ERROR. -/
def State.openRings (s : State) (n : Nat) : State :=
  (List.range 64).foldl (fun s q =>
    let r := s.queue n q
    if r.st = .closed then s
    else
      let s := s.mapRing n q
      if (s.queue n q).ringPa.all Option.isSome then s else s.queueError n q 8 r.d true) s

/-- CTX_THAW (R53, R98, R457). -/
def State.cmdCtxThaw (s : State) (h : CmdHdr) : State :=
  let n := h.ctx
  let c := s.ctx n
  let lulled := decide (c.st = .lulled) && !c.exported
  let imported := decide (c.st = .importing) && c.importComplete
  match firstRefusal h.bySystem (!h.tenant || lulled || imported) h.tenant true with
  | some e => s.reply h 0x06 e
  | none =>
    if lulled then
      ((s.thaw n (if c.lulledMig then .migrating else .ready)).modCtx n (fun c => { c with lulledMig := false })).reply h 0x06 0
    else if !s.rangesMapped n then s.reply h 0x06 2 0x09
    else
      let s := (List.range 64).foldl (fun s i => s.sealKernel n i) s
      let s := ((s.activate n).thaw n .ready).openRings n
      (s.event n 0x06 []).reply h 0x06 0

/-! ### CTX_RESET, CTX_DESTROY, CTX_RELEASE (R54 to R56) -/

/-- Open fault records of a context answered with terminate, with no completion (R376). -/
def State.dropFaults (s : State) (n : Nat) : State :=
  let s : State := { s with faults := s.faults.filter (fun r => decide (r.ctx ≠ n))
                            faultWait := s.faultWait.filter (fun r => decide (r.1.ctx ≠ n)) }
  s.faultWait.foldl (fun s _ => s.drainFaults) s

/-- Groups of a context halted and discarded without save, their cores and frame slots free. -/
def State.dropGroups (s : State) (n : Nat) : State :=
  let s := (s.groupsOf n).foldl State.retireGroup s
  { s with groups := s.groups.filter (fun g => decide (g.ctx ≠ n)), slotsUsed := s.slotsUsed.filter (fun p => decide (p.1 ≠ n)) }

/-- A command in progress, or a load, ended with ABORTED (R37, R87). -/
def State.abortCmd (s : State) (n : Nat) : State :=
  let s := match (s.ctx n).cmd with
    | some (.lull h) => (s.modCtx n (fun c => { c with cmd := none })).reply h 0x05 4
    | _ => s
  s.abortLoads n

/-- Step 1 of a reset (R54): APPEND refused, dispatch stopped, groups discarded, windows revoked, tracking off. -/
def State.resetStop (s : State) (n : Nat) (cmd : CmdNow) : State :=
  let s := ((s.abortCmd n).dropGroups n).revokeAll n
  let s := (s.untrack n).dropFaults n
  s.modCtx n (fun c => { c with st := .resetting, lulledMig := false, exported := false, tracking := false, cmd := some cmd
                                queues := c.queues.map QRec.hold
                                importSeq := 0, imageSeq := 0, finalMap := [], finalDone := [], imported := [] })

/-- CTX_RESET: step 1 at once; one that arrives in a reset joins it (R37). -/
def State.cmdCtxReset (s : State) (h : CmdHdr) : State :=
  let n := h.ctx
  let c := s.ctx n
  match firstRefusal h.byOwner (!h.tenant || decide (c.st ≠ .free)) h.tenant true with
  | some e => s.reply h 0x07 e
  | none =>
    match c.cmd with
    | some (.reset hs k) => s.modCtx n (fun c => { c with cmd := some (.reset (hs ++ [h]) k) })
    | _ => s.resetStop n (.reset [h] 1)

/-- CTX_DESTROY. -/
def State.cmdCtxDestroy (s : State) (h : CmdHdr) : State :=
  match firstRefusal h.bySystem (!h.tenant || decide ((s.ctx h.ctx).st ≠ .free ∧ (s.ctx h.ctx).st ≠ .resetting)) h.tenant true with
  | some e => s.reply h 0x08 e
  | none => s.resetStop h.ctx (.destroy h false)

/-- CTX_RELEASE: of an exported context. -/
def State.cmdCtxRelease (s : State) (h : CmdHdr) : State :=
  match firstRefusal h.bySystem (!h.tenant || (decide ((s.ctx h.ctx).st = .lulled) && (s.ctx h.ctx).exported)) h.tenant true with
  | some e => s.reply h 0x0E e
  | none => s.resetStop h.ctx (.destroy h true)

/-- Step 2 (R54): what the context still has in the package is discarded: tile records, host reads and writes not yet performed,
messages to host windows. -/
def State.resetDrain (s : State) (n : Nat) : State :=
  let s := (s.tiles.filter (fun t => decide (t.ctx = n))).foldl (fun s t => s.dropTiles t.id) s
  let access (m : Hdr × InMsg) : Bool :=
    match m.2 with
    | .read _ _ _ => true
    | .write _ _ _ => true
    | _ => false
  let asks (m : Msg) : Bool :=
    match m with
    | .readReq _ _ _ => true
    | .writeReq _ _ _ => true
    | _ => false
  let mine (p : EthPort) (k : BitVec 10) : Bool := ((s.flow p k).map (fun f => decide (f.ctx = n))).getD false
  { s with
    flows := s.flows.map (fun f => if f.ctx = n then { f with inq := f.inq.filter (fun m => !access m) } else f)
    hostReqs := s.hostReqs.filter (fun r => !mine r.port r.flow)
    waitOut := s.waitOut.filter (fun o => !(mine o.port o.flow && asks o.msg)) }

/-- Step 3 (R54, R360): the generation advances and every TLB entry of the context goes; its flows bear the new tag. -/
def State.resetGeneration (s : State) (n : Nat) : State :=
  let old := s.tagOf n
  (s.modCtx n (fun c => { c with gen := nextGen c.gen, gens := c.gens + 1 })).tlbDrop (some old) 0 (2 ^ 64)

/-- Step 4 (R54): cores on which the context last ran are scrubbed. -/
def State.scrubCores (s : State) (n : Nat) : State :=
  let used := (s.ctx n).coresUsed
  let s := allCores.foldl (fun s c =>
    if used.getLsbD c.toNat ∧ (s.core c).lastCtx = n ∧ (s.core c).grp.isNone then
      s.modCore c (fun k => { k with xb := [], wb := [], gb := [], grid := Grid.reset })
    else s) s
  s.modCtx n (fun c => { c with coresUsed := 0 })

/-- Step 5 (R54, R371): a fresh key, the new tag as owner of every unit, each re-keyed; the pages pass through SCRUBBING and stay
bound. -/
def State.rekeyContext (s : State) (n : Nat) : State :=
  let s : State := { s with keyCount := s.keyCount + 1 }
  let s := s.modCtx n (fun c => { c with key := s.keyCount })
  let us := (s.units.filter (fun u => s.unitOwnedBy u.no n)).map (fun u => u.no)
  let s : State := { s with frames := s.frames.map (fun f =>
    if f.owner = n ∧ (f.st = .bound ∨ f.st = .tracked) then { f with st := .scrubbing, toBound := true, dirty := false } else f) }
  (us.foldl (fun s u => s.rekeyUnit u (.ctx (s.tagOf n))) s).startAllWalks

/-- A queue after step 6: open ones EMPTY with all counts 0 (Table 3.3), a DRAINING one among them (log 121). -/
def QRec.cleared (r : QRec) : QRec :=
  if r.st = .closed then r
  else { r with st := .empty, heldFrom := .closed, a := 0, d := 0, c := 0, consumed := 0, errCode := 0, errSeq := 0, errHead := false
                kept := [], inflight := [], join := [], head := none, headOk := false }

/-- Step 6 (R54): queues emptied, counters 0, kernels unloaded, RESET_DONE under the new tag, and the commands completed. -/
def State.resetRestore (s : State) (n : Nat) (hs : List CmdHdr) : State :=
  let s := s.modCtx n (fun c => { c with
    st := if c.bound then .ready else .configured, queues := c.queues.map QRec.cleared, fc := Vector.replicate 256 0
    kernels := Vector.replicate 64 KRec.absent, tissues := 0, cmd := none })
  hs.foldl (fun s h => s.reply h 0x07 0) (s.event n 0x04 [])

/-- The pages of a context that enters FREE pass to SCRUBBING with bound 0 (Table 17.3). -/
def State.freePages (s : State) (n : Nat) : State :=
  let fs := (s.frames.filter (fun f => decide (f.owner = n) &&
    (decide (f.st = .bound) || decide (f.st = .tracked) || decide (f.st = .window) || decide (f.st = .scrubbing)))).map (fun f => f.no)
  (s.unbindFrames fs).startAllWalks

/-- The context becomes FREE (Table 2.2): pages unbound, flows closed, descriptor zeroed. -/
def State.freeContext (s : State) (n : Nat) (h : CmdHdr) (code : Nat) : State :=
  let s := ((s.deactivate n).freePages n).closeFlows n
  let c := s.ctx n
  let s := (s.setCtx n { Ctx.free with gen := c.gen, gens := c.gens, cmdQ := c.cmdQ }).dropBudget n
  s.rebudgets.reply h code 0

/-- RESET_DRAIN_DONE (R54): every unit has reported; steps 2 to 6, or the end of a destroy or release. -/
def execResetDrainDone (ctx : CtxNo) (s : State) : Host.Outcome State Fault Refusal :=
  let n := ctx.toNat
  let body (s : State) : State := (((s.resetDrain n).resetGeneration n).scrubCores n).rekeyContext n
  .next (match (s.ctx n).cmd with
    | some (.reset hs _) => (body s).resetRestore n hs
    | some (.destroy h rel) => (body s).freeContext n h (if rel then 0x0E else 0x08)
    | _ => s)

/-! ### Migration states (R57) -/

/-- CTX_MIGRATE: BOUND frames become TRACKED, their bits 0. -/
def State.cmdCtxMigrate (s : State) (h : CmdHdr) : State :=
  let n := h.ctx
  let c := s.ctx n
  match firstRefusal h.bySystem (!h.tenant || decide (c.st = .ready))
      (h.tenant && c.desc.flags.getLsbD 1 && (s.windowsOf n).isEmpty) true with
  | some e => s.reply h 0x09 e
  | none =>
    let s := s.modCtx n (fun c => { c with st := .migrating, tracking := true })
    let s : State := { s with frames := s.frames.map (fun f =>
      if f.owner = n ∧ f.st = .bound then { f with st := .tracked, dirty := false } else f) }
    s.reply h 0x09 0

/-- CTX_MIGRATE_ABORT. -/
def State.cmdCtxMigrateAbort (s : State) (h : CmdHdr) : State :=
  let n := h.ctx
  let c := s.ctx n
  match firstRefusal h.bySystem
      (!h.tenant || decide (c.st = .migrating) || (decide (c.st = .lulled) && c.lulledMig && !c.exported)) h.tenant true with
  | some e => s.reply h 0x0A e
  | none =>
    let s := (s.untrack n).modCtx n (fun c => { c with
      st := if c.st = .migrating then .ready else .lulled, tracking := false, lulledMig := false })
    s.reply h 0x0A 0

/-- Bits of a list as bytes, the first in bit 0. -/
def bitBytes (l : List Bool) : List Byte :=
  (List.range ((l.length + 7) / 8)).map (fun i => BitVec.ofNat 8 (bitsNat ((l.drop (8 * i)).take 8)))

/-- CTX_DIRTY (R57, R373): the bits of a range of frames, read and cleared. -/
def State.cmdCtxDirty (s : State) (h : CmdHdr) (first : BitVec 64) (count : BitVec 32) : State :=
  let n := h.ctx
  let c := s.ctx n
  match firstRefusal h.bySystem
      (!h.tenant || decide (c.st = .migrating) || (decide (c.st = .lulled) && c.tracking))
      (h.tenant && decide (1 ≤ count.toNat ∧ count.toNat ≤ 65536 ∧ first.toNat + count.toNat ≤ 4 * 2596864)) true with
  | some e => s.reply h 0x0B e
  | none =>
    let fs := (List.range count.toNat).map (fun i => frameOfIndex (first.toNat + i))
    let mine (f : Frame) : Bool := decide (f.st = .tracked ∧ f.owner = n)
    let bits := fs.map (fun i => let f := s.frame i; mine f && f.dirty)
    ({ s with frames := s.frames.map (fun (f : Frame) => if mine f ∧ fs.contains f.no then { f with dirty := false } else f) }).reply h 0x0B 0 0
      (bitBytes bits)

/-! ### The partition table (R38, R39) -/

/-- PARTITION_TABLE_WRITE: refused whole, with BADOPND, when a crossbar bit joins a core outside the partition, when a core belongs to another
partition, or when a weight lies outside 1 to 15. No message carries the status of a table write; the state holds it (log 126). -/
def execPartitionTableWrite (part : BitVec 6) (mask : BitVec 512) (weights : List Nat) (xbar : List (CoreIx × CoreIx)) (s : State) :
    Host.Outcome State Fault Refusal :=
  let others := (List.range 64).filter (fun i => decide (i ≠ part.toNat))
  let shares := others.any (fun i => (((s.parts[i]?).getD none).map (fun p => decide (p.conf &&& mask ≠ 0))).getD false)
  let bad := xbar.any (fun e => !mask.getLsbD e.1.toNat || !mask.getLsbD e.2.toNat) || weights.any (fun w => decide (w = 0 ∨ 15 < w))
  .next (if shares ∨ bad then { s with partStatus := 2 }
    else
      let old := s.parts[part.toNat]'part.isLt
      let new : Partition := { mask := mask, conf := mask, weights := weights, xbar := xbar
                               configured := (allCores.filter (fun c => mask.getLsbD c.toNat)).length
                               active := (old.map (fun p => p.active)).getD none }
      { s with parts := s.parts.set part.toNat (some new) part.isLt, partStatus := 0 })

end Sys2Proof.Machine
end

