-- ==== Sys2Proof/Machine/Answers.lean ====
section
/-! DEFINITION. FAULT_ANSWER (R376, R377, R279, R315): what resume, terminate and complete do to the agent that waits for a fault
record. -/

namespace Sys2Proof.Machine

/-- An engine operation that waits for a record continues from its progress point. -/
def EngEntry.resume (n : Nat) (e : EngEntry) : EngEntry := if e.faulted = some n then { e with faulted := none } else e

/-- The agent of a record goes on (R376): a core rolls on from its mark or tries its packet again, every other agent continues from its
progress point. -/
def State.resumeAgent (s : State) (n : Nat) : State :=
  let queues (q : Vector (List EngEntry) 6) : Vector (List EngEntry) 6 := q.map (fun l => l.map (EngEntry.resume n))
  let seqr (q : Option Seqr) : Option Seqr := q.map (fun q => if q.fault = some n then { q with fault := none } else q)
  { s with
    cores := s.cores.map (fun k =>
      let k : Core := { k with eng := queues k.eng, seqr := seqr k.seqr }
      if k.ctl.wait = some (.fault n) then
        { k with ctl := { k.ctl with
            wait := none
            st := if k.ctl.st = .rollback then (if k.rs.log.isEmpty then .run else .replay) else k.ctl.st } }
      else k)
    groups := s.groups.map (fun g => { g with
      saved := g.saved.map (fun v => { v with eng := queues v.eng, seqr := seqr v.seqr })
      prog := g.prog.map (fun p => if p.fault = some n then { p with fault := none } else p) })
    tiles := s.tiles.map (fun t => if t.answer = some n then { t with fault := none, answer := none } else t) }

/-- A store that FAULT_ANSWER completed counts as performed: its packet is tried again and passes over it (R376). -/
def State.completeStore (s : State) (r : FaultRec) : State :=
  (s.resumeAgent r.seq).modCtl r.core (fun t => { t with skip := if (s.core r.core).ctl.wait = some (.fault r.seq) then r.stg else t.skip })

/-- The agent of a record is terminated (R376): a core's group ends with the page fault, an engine's with the engine fault (R279), a
TEXEC's with its own (R316), a tile record fails, a save has its context reset. A frozen group has ended already, without a GROUP_FAULT (R411). -/
def State.terminateAgent (s : State) (r : FaultRec) : State :=
  match r.tile with
  | some t => s.failRecord t
  | none =>
    if r.agent = 4 then (if (s.ctx r.ctx).st = .resetting then s else s.resetStop r.ctx (.reset [] 1))
    else
      match r.group with
      | none => s
      | some g =>
        if (s.ctx r.ctx).st = .frozen then s
        else if r.agent = 2 ∨ r.agent = 3 then s.endGroup g 0x111 r.core r.whr r.va
        else if r.agent = 6 then s.endGroup g 0x115 r.core r.whr r.va
        else s.endGroup g (0x080 + r.detail.setWidth 9) r.core r.whr r.va

/-- FAULT_ANSWER: BADOPND for a sequence that no unanswered record has, or a complete that is not allowed. The slot of the record is
free, and a record that waits for one is written. -/
def State.cmdFaultAnswer (s : State) (h : CmdHdr) (seq : Word) (act : AnswerAct) : State :=
  let rec? := s.faults.find? (fun r => decide (r.seq = seq.toNat))
  let ok := match rec? with
    | none => false
    | some r => decide (act ≠ .complete) || (decide (r.agent = 1) && decide (r.detail = 0x07) && r.stg.isSome)
  match firstRefusal h.bySystem true ok true with
  | some e => s.reply h 0x46 e
  | none =>
    match rec? with
    | none => s
    | some r =>
      let s : State := { s with faults := s.faults.filter (fun q => decide (q.seq ≠ r.seq)) }
      let s := match act with
        | .resume => s.resumeAgent r.seq
        | .terminate => s.terminateAgent r
        | .complete => s.completeStore r
      s.drainFaults.reply h 0x46 0

end Sys2Proof.Machine
end

