-- ==== Sys2Proof/Machine/Image.lean ====
section
/-! DEFINITION. The body of a transfer image (R58): the spec lists what it holds and fixes no layout (R454), so the two directions
are uninterpreted; a body is an image where it is the body that CTX_EXPORT writes of it (log 7). -/

namespace Sys2Proof.Config

/-- The body that CTX_EXPORT writes. -/
opaque imageBody : Machine.XImage → List Byte
/-- The image that a reading of a body finds. -/
opaque imageRead : List Byte → Option Machine.XImage

end Sys2Proof.Config

namespace Sys2Proof.Machine

/-- What CTX_IMPORT takes from a body: an image whose body it is. -/
def imageOf (bs : List Byte) : Option XImage := (Config.imageRead bs).filter (fun x => decide (Config.imageBody x = bs))

end Sys2Proof.Machine
end

