-- ==== Sys2Proof/Machine/Migration.lean ====
section
/-! DEFINITION. Migration (R58, R453 to R457): MKEY_SET, CTX_EXPORT, CTX_IMPORT, PAGE_EXPORT, PAGE_IMPORT, and the sealed blobs they
exchange (R454). -/

namespace Sys2Proof.Machine

def State.mkey (s : State) (h : BitVec 8) : Option MKey := (s.mkeys[h.toNat]?).getD none
def State.modMkey (s : State) (h : BitVec 8) (f : MKey → MKey) : State :=
  { s with mkeys := s.mkeys.set! h.toNat ((s.mkey h).map f) }

/-- A physical range named by a command lies below 2^48 in frames BOUND to context 0 (R357). -/
def State.sysRange (s : State) (a : Word) (n : Nat) : Bool := decide (a.toNat < 2 ^ 48) && s.ctx0Range a.toNat n

/-- MKEY_SET (Table 26.3). -/
def State.cmdMkeySet (s : State) (h : CmdHdr) (handle : BitVec 8) (key : BitVec 256) (buf len : Word) (part : BitVec 8) (sroot : Word) :
    State :=
  let shape := decide (handle.toNat ≤ 7) && decide (buf.toNat % 65536 = 0) && decide (1048576 ≤ len.toNat ∧ len.toNat < 2 ^ 38) &&
    decide (part.toNat ≤ 63) && srootOk sroot
  match firstRefusal h.bySystem true (shape && s.sysRange buf len.toNat) true with
  | some e => s.reply h 0x0F e
  | none =>
    let k : MKey := { key := key, buf := buf, len := len, part := part, sroot := sroot, seq := 0 }
    ({ s with mkeys := s.mkeys.set! handle.toNat (some k) }).reply h 0x0F 0

/-! ### Blobs (R454) -/

/-- The header of a blob. -/
def blobHeader (page seq : Nat) (final image : Bool) (tag : Tag) (len : Nat) : List Byte :=
  leBytes 8 page ++ leBytes 4 seq ++ leBytes 1 (final.toNat + 2 * image.toNat) ++ [0] ++ leBytes 2 tag.toNat ++ leBytes 4 0 ++
    leBytes 4 len ++ leBytes 8 0
/-- The IV: header bytes 0 to 11, the first most significant. -/
def blobIv (hdr : List Byte) : BitVec 96 := BitVec.ofNat 96 (leNat (hdr.take 12).reverse)
/-- A body sealed under a key. -/
def sealBlob (key : BitVec 256) (hdr body : List Byte) : List Byte :=
  let (c, t) := gcmSeal key (blobIv hdr) hdr body
  hdr ++ c ++ t
/-- The body of a blob whose tag verifies. -/
def openBlob (key : BitVec 256) (hdr cipher tag : List Byte) : Option (List Byte) := gcmOpen key (blobIv hdr) hdr cipher tag

/-- The bytes of a page blob. -/
def pageBlob : Nat := 65584

/-! ### Export -/

/-- A frame lies in the frame slots of a context (R114). -/
def State.slotFrame (s : State) (n f : Nat) : Bool :=
  let lo := s.framePa n 0
  decide (lo ≤ f * frameBytes ∧ f * frameBytes < lo + 1024 * 0x420000)

/-- Page indices of a context's frames whose bit is set: the final bitmap. Its frame slots travel in the image. -/
def State.finalBitmap (s : State) (n : Nat) : List Nat :=
  (s.frames.filter (fun f => decide (f.st = .tracked ∧ f.owner = n) && f.dirty && !s.slotFrame n f.no)).map (fun f => indexOfFrame f.no)

/-- The undispatched entries of a context's queues. -/
def State.unserved (s : State) (n : Nat) : List (Nat × Nat × List Byte) :=
  (List.range 64).flatMap (fun q =>
    let r := s.queue n q
    if r.st = .closed then []
    else (List.range (r.a - r.d)).map (fun i => (q, r.d + i, (s.ringRead n q (r.d + i)).getD (List.replicate 64 0))))

/-- The transfer image of a context (R58). -/
def State.imageFor (s : State) (n : Nat) : XImage :=
  let c := s.ctx n
  let gs := s.groupsOf n
  let slot (i : Nat) : Nat × Memory := (i, Memory.blit [] 0 s.mem (s.framePa n i) 0x420000)
  { desc := c.desc, fc := c.fc, queues := c.queues.toList, unserved := s.unserved n, groups := gs
    frames := (gs.filter (fun g => decide (g.st = .saved))).flatMap (fun g => g.slots.map slot)
    tiles := s.tiles.filter (fun t => decide (t.ctx = n)), kernels := c.kernels.toList, loadCount := c.loadCount
    final := s.finalBitmap n, source := s.tagOf n }

/-- The frame slots of a context's saved groups read as the context reads them: their pending blocks are rewritten (R372). -/
def State.settleSlots (s : State) (n : Nat) : State :=
  ((s.groupsOf n).filter (fun g => decide (g.st = .saved))).foldl (fun s g =>
    g.slots.foldl (fun s i => s.settleRange (s.framePa n i) 0x420000) s) s

/-- CTX_EXPORT (R58, R60): the image written at the start of the handle's buffer, under its next sequence. A buffer whose frames are no longer
the system context's refuses the write (R357, log 145). -/
def State.cmdCtxExport (s : State) (h : CmdHdr) (handle : BitVec 8) : State :=
  let n := h.ctx
  let c := s.ctx n
  let k := s.mkey handle
  let v := s.settleSlots n
  let body := Config.imageBody (v.imageFor n)
  let room := match k with
    | some k => decide (48 + body.length ≤ k.len.toNat ∧ k.seq + 1 < 2 ^ 32)
    | none => true
  match firstRefusal h.bySystem (!h.tenant || (decide (c.st = .lulled) && c.lulledMig && !c.exported && c.cmd.isNone))
      (h.tenant && (k.map (fun k => s.ctx0Range k.buf.toNat (48 + body.length))).getD false) room with
  | some e => s.reply h 0x0C e
  | none =>
    match k with
    | none => s
    | some k =>
      let hdr := blobHeader (2 ^ 64 - 1) (k.seq + 1) false true (s.tagOf n) body.length
      let s := v.putMem k.buf.toNat (sealBlob k.key hdr body)
      let s := (s.modMkey handle (fun k => { k with seq := k.seq + 1 })).modCtx n (fun c => { c with exported := true })
      s.reply h 0x0C 0

/-- The frames of a command, exported in turn, each read line by line as the context reads it (R455). -/
def State.exportPages (s : State) (k : MKey) (tag : Tag) (final : Bool) (out : Nat) : List Nat → Nat → State
  | [], _ => s
  | f :: fs, seq =>
    let (bs, s) := s.getMem (f * frameBytes) frameBytes
    let s := s.putMem out (sealBlob k.key (blobHeader (indexOfFrame f) seq final false tag frameBytes) bs)
    State.exportPages s k tag final (out + pageBlob) fs (seq + 1)

/-- PAGE_EXPORT (Table 26.3). -/
def State.cmdPageExport (s : State) (h : CmdHdr) (handle : BitVec 8) (tag : Tag) (pa : Word) (count : BitVec 32) (out : Word) : State :=
  let n := tagCtx tag
  let c := s.ctx n
  let num := count.toNat
  let k := s.mkey handle
  let fs := frameRange pa (min num 64)
  let mine (f : Nat) : Bool := let r := s.frame f; decide (r.owner = n ∧ (r.st = .bound ∨ r.st = .tracked))
  match firstRefusal h.bySystem (decide (c.st = .migrating) || (decide (c.st = .lulled) && c.tracking))
      (k.isSome && s.tagCurrent tag && decide (1 ≤ num ∧ num ≤ 64) && decide (pa.toNat % frameBytes = 0) && fs.all mine &&
        s.sysRange out (num * pageBlob))
      ((k.map (fun k => decide (k.seq + num < 2 ^ 32))).getD true) with
  | some e => s.reply h 0x47 e
  | none =>
    match k with
    | none => s
    | some k =>
      let s := s.exportPages k tag c.exported out.toNat fs (k.seq + 1)
      (s.modMkey handle (fun k => { k with seq := k.seq + num })).reply h 0x47 0

/-! ### Import -/

/-- A blob at an address of context 0: header, cipher text and tag, with the body length of its header. -/
def State.readBlob (s : State) (a : Nat) (room : Nat) : Option (List Byte × List Byte × List Byte) :=
  let hdr := s.peek a 32
  let len := fieldAt hdr 20 4
  if room < len + 48 then none else some (hdr, s.peek (a + 32) len, s.peek (a + 32 + len) 16)

/-- The blob read: the pending blocks that it meets are rewritten (R372). -/
def State.settleBlob (s : State) (a : Nat) : State := s.settleRange a (fieldAt (s.peek a 32) 20 4 + 48)

/-- What the buffer of a handle holds, if its tag verifies and it is an image, its frames in the canonical form of a
byte store. -/
def State.readXImage (s : State) (k : MKey) : Option (Nat × XImage) :=
  match s.readBlob k.buf.toNat k.len.toNat with
  | none => none
  | some (hdr, c, t) =>
    if fieldAt hdr 0 8 ≠ 2 ^ 64 - 1 ∨ fieldAt hdr 12 1 ≠ 2 then none
    else
      (((openBlob k.key hdr c t).bind imageOf).filter (fun x => x.frames.all (fun f => f.2.wf))).map
        (fun x => (fieldAt hdr 8 4, x))

/-- Imported groups, records and dispatches take fresh numbers here: `g`, `t` and `o` are added to those of the source. -/
def Seqr.renumber (t : Nat) (q : Seqr) : Seqr := { q with parent := q.parent.map (· + t), fault := none }
def InFlight.renumber (o : Nat) (e : InFlight) : InFlight := { e with launch := if e.launch = 0 then 0 else e.launch + o }
def Group.renumber (n g t o : Nat) (r : Group) : Group :=
  { r with
    id := r.id + g, ctx := n, order := r.order + o, tile := r.tile.map (· + t), cores := [], prog := [], lullReq := false, lost := []
    saved := r.saved.map (fun v => { v with
      tissued := v.tissued.map (· + t), seqr := v.seqr.map (Seqr.renumber t)
      eng := v.eng.map (fun l => l.map (fun e => { e with faulted := none })) }) }
def TileSrc.renumber (n g t : Nat) : TileSrc → TileSrc
  | .entry _ q seq => .entry n q seq
  | .tissue _ id c a => .tissue n (id + g) c a
  | .parent id => .parent (id + t)
def TileNode.renumber (n g t : Nat) (r : TileNode) : TileNode :=
  { r with id := r.id + t, ctx := n, src := r.src.renumber n g t, group := r.group.map (· + g), fault := none, answer := none }

/-- The image loaded into a context number (R58, R98, R453): code ranges are recorded and no frame is sealed, and rings are not yet
translated. -/
def State.loadImage (s : State) (n : Nat) (k : MKey) (seq : Nat) (x : XImage) : State :=
  let g := s.nextGroup
  let t := s.tileCount
  let o := s.dispatched
  let ks := x.kernels.map (fun (r : KRec) => { r with pages := r.pages.map (fun p => { p with frame := 2 ^ 32, verified := false }) })
  let s := s.freshCtx n
  let s := s.modCtx n (fun c => { c with
    st := .importing, bound := true, desc := { x.desc with part := k.part, sroot := k.sroot }, fc := x.fc
    queues := Vector.ofFn (fun i =>
      let r := (x.queues.getD i.val QRec.closed).hold
      { r with ringPa := [], inflight := r.inflight.map (InFlight.renumber o) })
    kernels := Vector.ofFn (fun i => ks.getD i.val KRec.absent), loadCount := x.loadCount
    importSeq := 0, imageSeq := seq, finalMap := x.final, finalDone := [], imported := x.frames })
  { s with
    groups := s.groups ++ x.groups.map (Group.renumber n g t o)
    nextGroup := g + (x.groups.map (fun r => r.id)).foldl max 0 + 1
    dispatched := o + (x.groups.map (fun r => r.order)).foldl max 0
    slotsUsed := s.slotsUsed ++ x.groups.flatMap (fun r => r.slots.map (fun i => (n, i)))
    tiles := s.tiles ++ x.tiles.map (TileNode.renumber n g t)
    tileCount := t + (x.tiles.map (fun r => r.id)).foldl max 0 + 1 }

/-- A kernel of an image fits the destination partition (R98): the RESOURCE check of Table 4.2 on its header. -/
def State.imageFits (s : State) (k : MKey) (x : XImage) : Bool :=
  s.partDefined k.part.toNat && x.kernels.all (fun r => decide (r.st = .absent) || s.resourceOk k.part.toNat r.header)

/-- CTX_IMPORT (Table 2.2, R58, R98, R453). -/
def State.cmdCtxImport (s : State) (h : CmdHdr) (handle : BitVec 8) : State :=
  let n := h.ctx
  let k := s.mkey handle
  let x := k.bind s.readXImage
  match firstRefusal h.bySystem (!h.tenant || decide ((s.ctx n).st = .free)) (h.tenant && x.isSome) true with
  | some e => s.reply h 0x0D e
  | none =>
    match k, x with
    | some k, some (seq, x) =>
      let s := s.settleBlob k.buf.toNat
      if !s.imageFits k x then s.reply h 0x0D 2 0x08
      else ((s.loadImage n k seq x).rebudgets.reply h 0x0D 0)
    | _, _ => s

/-- PAGE_IMPORT (Table 26.3, R457): every line of the frame written as the context writes it; a line of a block that still waits for
its walk has the block rewritten first (R372). -/
def State.cmdPageImport (s : State) (h : CmdHdr) (handle : BitVec 8) (pa blob : Word) : State :=
  let n := h.ctx
  let c := s.ctx n
  let f := s.frame (pa.toNat / frameBytes)
  let mine := decide (pa.toNat % frameBytes = 0 ∧ f.owner = n ∧ (f.st = .bound ∨ (f.st = .scrubbing ∧ f.toBound = true)))
  let body := if s.sysRange blob pageBlob then
      (s.mkey handle).bind (fun k =>
        (s.readBlob blob.toNat pageBlob).bind (fun b =>
          if fieldAt b.1 20 4 = frameBytes ∧ fieldAt b.1 12 1 < 2 then (openBlob k.key b.1 b.2.1 b.2.2).map (fun p => (b.1, p)) else none))
    else none
  match firstRefusal h.bySystem (!h.tenant || decide (c.st = .importing))
      (h.tenant && mine && ((body.map (fun b => decide (c.importSeq < fieldAt b.1 8 4))).getD false)) true with
  | some e => s.reply h 0x48 e
  | none =>
    match body with
    | none => s
    | some (hdr, bs) =>
      let s := (s.settleBlob blob.toNat).putMem pa.toNat bs
      let s := s.modCtx n (fun c => { c with
        importSeq := fieldAt hdr 8 4
        finalDone := if fieldAt hdr 12 1 = 1 then fieldAt hdr 0 8 :: c.finalDone else c.finalDone })
      s.reply h 0x48 0

end Sys2Proof.Machine
end

