-- ==== Sys2Proof/Machine/Links.lean ====
section
/-! DEFINITION. Die links and package links (18_link): flits (R380 to R382), link states (R383, R384), changes of route (R385), what a
lost route or die does (R387), and the link commands but those of flows (Table 18.6). Traffic inside the package acts at once: the
flits that carry it are not formed (log 21). -/

namespace Sys2Proof.Machine

/-- The place of a link among the 20. -/
def linkIx : LinkId → Nat
  | .die n => n.val
  | .pkg n => 6 + n.val
  | .eth p => 18 + (portIx p).val
/-- Kind and number of a link: 0 die, 1 package, 2 Ethernet. -/
def linkName : LinkId → Nat × Nat
  | .die n => (0, n.val)
  | .pkg n => (1, n.val)
  | .eth p => (2, (portIx p).val)
/-- The lanes of a link (Table 18.1). -/
def fullLanes : LinkId → Nat
  | .die _ => 64
  | .pkg _ => 8
  | .eth _ => 8
/-- The code of a link state, in the order of R383. -/
def LinkSt.code : LinkSt → Nat
  | .reset => 0
  | .training => 1
  | .up => 2
  | .degraded => 3
  | .detour => 4
  | .down => 5
  | .retired => 6

def State.linkOf (s : State) (l : LinkId) : LinkRec := s.link (linkIx l)
def State.modLinkOf (s : State) (l : LinkId) (f : LinkRec → LinkRec) : State := s.modLink (linkIx l) f

/-- A link changes state; LINK_CHANGE tells the system context (R383; layout of the data: log 15). -/
def State.linkTo (s : State) (l : LinkId) (t : LinkSt) : State :=
  let r := s.linkOf l
  let s := s.modLinkOf l (fun r => { r with st := t })
  if r.st = t then s
  else
    let (k, n) := linkName l
    s.event 0 0x0A (evData [(16, [BitVec.ofNat 8 k, BitVec.ofNat 8 n, BitVec.ofNat 8 r.st.code, BitVec.ofNat 8 t.code,
      BitVec.ofNat 8 r.lanes])])

/-! ### Flits (R380 to R382) -/

/-- One byte of a CRC-32 (that of IEEE 802.3, log 147). -/
def crcByte (c : BitVec 32) (b : Byte) : BitVec 32 :=
  (List.range 8).foldl (fun c _ => if c.getLsbD 0 then (c >>> 1) ^^^ 0xEDB88320#32 else c >>> 1) (c ^^^ b.setWidth 32)
def crc32 (bs : List Byte) : BitVec 32 := ~~~ bs.foldl crcByte 0xFFFFFFFF#32

/-- Bytes 0 to 11 of a flit's header (Table 18.2). -/
def flitHeader (f : Flit) : List Byte :=
  leBytes 2 f.tag.toNat ++ [f.cls, BitVec.ofNat 8 (f.srcDie.toNat + 4 * f.dstDie.toNat)] ++
    leBytes 2 (f.srcPkg.toNat + 2 ^ 8 * f.dstPkg.toNat) ++ leBytes 4 f.routeSeq.toNat ++ leBytes 2 f.linkAck.toNat

/-- The CRC of bytes 12 to 15, over the header before it and the payload. -/
def flitCrc (f : Flit) : BitVec 32 := crc32 (flitHeader f ++ f.payload)
def flitWhole (f : Flit) : Bool := decide (f.crc = flitCrc f)

/-- What a flit carries (R380, R381). -/
inductive Traffic
  | request | response | release | acquire | counter | seqCst | barrier | command | copy | staging | stream | train
  deriving DecidableEq, Repr
/-- Its class (Table 18.2, R381). -/
def Traffic.cls : Traffic → BitVec 8
  | .request => 0
  | .response => 1
  | .release | .acquire | .counter | .seqCst | .barrier | .command => 2
  | .copy | .staging | .stream | .train => 3

/-- The key of a route: source, destination, class (R381). -/
def flitRoute (f : Flit) : Nat :=
  f.srcPkg.toNat + 2 ^ 6 * (f.dstPkg.toNat + 2 ^ 6 * (f.srcDie.toNat + 2 ^ 2 * (f.dstDie.toNat + 2 ^ 2 * (f.cls.toNat % 256))))
/-- The route sequence accepted last on a flit's route; the first is 1. -/
def State.accepted (s : State) (f : Flit) : Nat := (s.routes.lookup (flitRoute f)).getD 0

/-- A flit's tag is good (R33, R399): one from this package bears the current generation, one over a package link the tag held here for
its source package; the system context's tag is 0. -/
def State.flitTagOk (s : State) (f : Flit) : Bool :=
  if f.srcPkg = s.pkg then s.tagCurrent f.tag
  else decide (f.tag = 0) || decide (((s.ctx (tagCtx f.tag)).spanTags.lookup f.srcPkg.toNat) = some f.tag)

/-- A flit accepted in the order of its route (R381). -/
def State.acceptFlit (s : State) (f : Flit) : State :=
  let s : State := { s with routes := ((flitRoute f), f.routeSeq.toNat) :: s.routes.filter (fun e => decide (e.1 ≠ (flitRoute f))) }
  if s.flitTagOk f then { s with delivered := s.delivered ++ [f] } else s

/-- Flits held past a gap of their route are accepted once the gap has filled. -/
def State.releaseHeld : Nat → State → State
  | 0, s => s
  | n + 1, s =>
    match s.flitHeld.find? (fun f => decide (f.routeSeq.toNat = s.accepted f + 1)) with
    | none => s
    | some f => State.releaseHeld n (({ s with flitHeld := s.flitHeld.filter (fun g => decide (g ≠ f)) } : State).acceptFlit f)

/-- The die that owns a package link port (R26): PL(3d) to PL(3d + 2) are those of die d. -/
def portOwner (n : Nat) : BitVec 2 := BitVec.ofNat 2 (n / 3)

/-- A package link port whose link carries traffic, and whose die is not lost, takes the traffic of another port for a destination. -/
def State.pkgRoute (s : State) (n : Nat) (dst : Nat) : Option Nat :=
  match Config.packageRoute n dst with
  | some m => if m < 12 ∧ m ≠ n ∧ (s.link (6 + m)).st.carries ∧ !(s.die (portOwner m)).lost then some m else none
  | none => none

/-- A flit sent on a link (R382): it takes the next link sequence and stays in the retry buffer; on a link that carries nothing it goes no
further. With 512 flits in the buffer, or others waiting, it waits. -/
def LinkRec.sendFlit (r : LinkRec) (f : Flit) : LinkRec :=
  if 512 ≤ r.retry.length ∨ !r.waiting.isEmpty then { r with waiting := r.waiting ++ [f] }
  else
    let f : Flit := { f with linkSeq := r.txSeq + 1, linkAck := r.rxSeq }
    let f : Flit := { f with crc := flitCrc f }
    { r with txSeq := r.txSeq + 1, retry := r.retry ++ [f], sent := if r.st.carries then r.sent ++ [f] else r.sent }

/-- A flit for another package goes to the link that the routing table names, or to that of its detour (R385, log 133); where none carries
traffic it waits there. Class 2 waits while its route changes. -/
def State.passOn (s : State) (f : Flit) : State :=
  match Config.packageRoute 12 f.dstPkg.toNat with
  | none => s
  | some n =>
    if 12 ≤ n then s
    else
      let r := s.link (6 + n)
      if f.cls = 2 ∧ r.held2 then s.modLink (6 + n) (fun r => { r with waiting := r.waiting ++ [f] })
      else s.modLink (6 + (if r.st.carries then n else (s.pkgRoute n f.dstPkg.toNat).getD n)) (fun r => r.sendFlit f)

/-- Flits that waited at a link go on, in order. -/
def State.drainLink (s : State) (l : LinkId) : State :=
  let r := s.linkOf l
  let s := s.modLinkOf l (fun r => { r with waiting := [] })
  r.waiting.foldl (fun s f => match l with
    | .pkg _ => s.passOn f
    | _ => s.modLinkOf l (fun r => r.sendFlit f)) s

/-- Traffic of a context for another package: it takes the next sequence of its route (R381) and goes out. -/
def State.sendPackage (s : State) (ctx : Nat) (p : BitVec 6) (k : Traffic) (payload : List Byte) : State :=
  let f : Flit :=
    { tag := s.tagOf ctx, cls := k.cls, srcDie := 0, dstDie := 0, srcPkg := s.pkg, dstPkg := p, routeSeq := 0, linkSeq := 0, linkAck := 0
      crc := 0, payload := (payload ++ List.replicate 256 0).take 256 }
  let n := (s.routeTx.lookup (flitRoute f)).getD 0 + 1
  let s : State := { s with routeTx := (flitRoute f, n) :: s.routeTx.filter (fun e => decide (e.1 ≠ flitRoute f)) }
  s.passOn { f with routeSeq := BitVec.ofNat 32 n }

/-- Package records for other members of a span go to them (R301, R305); one to a package that cannot be reached fails (R387). The dies
that a record leaves from and goes to are 0 (log 147). -/
def State.sendRecords (s : State) : State :=
  (s.tiles.filter (fun t => s.foreign t && decide (t.st = .waiting ∧ t.next = 0))).foldl (fun s t =>
    if s.unreachPkg.getLsbD t.child then s.cutRecord t.id
    else (s.sendPackage t.ctx (BitVec.ofNat 6 t.child) .request t.bytes).modTile t.id (fun t => { t with next := 1 })) s

/-- A flit that the link has received goes to its destination here: a duplicate is discarded, one past a gap of its route is held; a flit
for another package passes on. A reserved class is dropped. -/
def State.routeFlit (s : State) (f : Flit) : State :=
  if 3 < f.cls.toNat then s
  else if f.dstPkg ≠ s.pkg then s.passOn f
  else if f.routeSeq.toNat ≤ s.accepted f ∨ s.flitHeld.contains f then s
  else if f.routeSeq.toNat = s.accepted f + 1 then
    let s := s.acceptFlit f
    State.releaseHeld s.flitHeld.length s
  else { s with flitHeld := s.flitHeld ++ [f] }

/-- Flits of a retry buffer that an acknowledgement covers leave it. -/
def LinkRec.acked (r : LinkRec) (ack : BitVec 16) : LinkRec :=
  if r.retry.any (fun f => decide (f.linkSeq = ack)) then
    { r with retry := (r.retry.dropWhile (fun f => decide (f.linkSeq ≠ ack))).drop 1, again := none }
  else r

/-- FLIT_RECEIVE (R380 to R382): a CRC error, a gap in link sequence or no room in the input buffer drops the flit and returns a negative
acknowledgement; the next flit in link sequence is taken, with the acknowledgement it carries. The input buffer has no size in the spec: the row says
whether it has room (log 147). -/
def execFlitReceive (l : LinkId) (f : FlitIn) (s : State) : Host.Outcome State Fault Refusal :=
  let r := s.linkOf l
  let room := f.room
  let f := f.flit
  let nak : BitVec 16 := r.rxSeq + 1
  .next (match l with
    | .eth _ => s
    | _ =>
      if !r.st.carries then s
      else if !flitWhole f then s.modLinkOf l (fun r => { r with crcErrors := r.crcErrors + 1, naks := r.naks ++ [nak] })
      else if f.linkSeq ≠ nak ∨ !room then s.modLinkOf l (fun r => { r with naks := r.naks ++ [nak] })
      else
        let s := s.modLinkOf l (fun r => ({ r with rxSeq := f.linkSeq } : LinkRec).acked f.linkAck)
        (s.drainLink l).routeFlit f)

/-- IDLE_FLIT (R382): a link with nothing to send sends a flit without payload; it bears the link acknowledgement, and neither takes a link
sequence nor enters the retry buffer (log 21). -/
def execIdleFlit (l : LinkId) (s : State) : Host.Outcome State Fault Refusal :=
  let r := s.linkOf l
  .next (match l with
    | .eth _ => s
    | _ =>
      if r.st.carries ∧ r.retry.isEmpty then
        let f : Flit := { tag := 0, cls := 0, srcDie := 0, dstDie := 0, srcPkg := s.pkg, dstPkg := s.pkg, routeSeq := 0, linkSeq := r.txSeq
                          linkAck := r.rxSeq, crc := 0, payload := [] }
        s.modLinkOf l (fun r => { r with sent := r.sent ++ [{ f with crc := flitCrc f }] })
      else s)

/-! ### Changes of route (R385) -/

/-- The dies that a die link joins (Table 1.4). -/
def linkEnds (n : Nat) : BitVec 2 × BitVec 2 :=
  match n with
  | 0 => (0, 1)
  | 1 => (2, 3)
  | 2 => (0, 2)
  | 3 => (1, 3)
  | 4 => (0, 3)
  | _ => (1, 2)

/-- An alternative route exists for a link. -/
def State.alternative (s : State) (l : LinkId) : Bool :=
  match l with
  | .die n => (s.thirdDie (linkEnds n.val).1 (linkEnds n.val).2).isSome
  | .pkg n => (List.range 64).any (fun d => (s.pkgRoute n.val d).isSome)
  | .eth _ => false

/-- The first link of a flit's new route. On a die link the end that sends it is the one that it does not go to; one that passes through to
a third die comes from its source. -/
def State.newHop (s : State) (l : LinkId) (f : Flit) : Option Nat :=
  match l with
  | .die n =>
    let (a, b) := linkEnds n.val
    let from' := if f.dstDie = b then a else if f.dstDie = a then b else f.srcDie
    (s.thirdDie a b).map (fun c => dieLink from' c)
  | .pkg n => ((s.pkgRoute n.val f.dstPkg.toNat).filter (fun m => decide (f.srcPkg ≠ s.pkg) || s.dieReach f.srcDie (portOwner m))).map (fun m => 6 + m)
  | .eth _ => none

/-- Step 2: the flits of the retry buffer resent on the new route, in order and with their route sequences. -/
def State.resendOnRoute (s : State) (l : LinkId) : State :=
  let fs := (s.linkOf l).retry
  let s := s.modLinkOf l (fun r => { r with
    retry := [], again := none, held2 := true, before2 := r.before2 ++ fs.filter (fun f => decide (f.cls = 2)) })
  fs.foldl (fun s f =>
    match s.newHop l f with
    | some m => s.modLink m (fun r => r.sendFlit f)
    | none => s.modLinkOf l (fun r => { r with retry := r.retry ++ [f] })) s

/-- A flit has been accepted by its destination: here by its route sequence; one for another package, when no retry buffer here holds it any
more. -/
def State.arrived (s : State) (f : Flit) : Bool :=
  if f.dstPkg = s.pkg then decide (f.routeSeq.toNat ≤ s.accepted f)
  else !s.links.toList.any (fun r => (r.retry ++ r.waiting).any (fun g => decide (flitRoute g = flitRoute f ∧ g.routeSeq = f.routeSeq)))

/-- CLASS2_RESUME (R385 step 4): once the class 2 flits sent before the change have been accepted, class 2 goes on. -/
def execClass2Resume (l : LinkId) (s : State) : Host.Outcome State Fault Refusal :=
  .next (if (s.linkOf l).before2.all s.arrived then (s.modLinkOf l (fun r => { r with held2 := false, before2 := [] })).drainLink l
    else s)

/-! ### Link states (Table 18.3) -/

/-- A link fails in UP or DEGRADED: DETOUR with an alternative route, else DOWN; retraining goes on. -/
def State.failLink (s : State) (l : LinkId) : State :=
  let s := s.modLinkOf l (fun r => { r with attempts := 0 })
  if s.alternative l then (s.resendOnRoute l).linkTo l .detour else s.linkTo l .down

/-- A port's flows are lost as it enters DOWN or RETIRED (R393). -/
def State.losePort (s : State) (p : EthPort) : State :=
  (s.flows.filter (fun f => decide (f.port = p))).foldl (fun s f => s.loseFlow f.port f.no true) s

/-- LINK_FAILURE (R382, Table 18.3). -/
def execLinkFailure (l : LinkId) (s : State) : Host.Outcome State Fault Refusal :=
  .next (match l with
    | .eth _ => s
    | _ => if (s.linkOf l).st.carries then s.recount (s.failLink l) else s)

/-- NEGATIVE_ACKNOWLEDGEMENT (R382): the sender resends every flit from the dropped one on; a flit resent 8 times in a row fails the link. -/
def execNegativeAcknowledgement (l : LinkId) (seq : BitVec 16) (s : State) : Host.Outcome State Fault Refusal :=
  let r := s.linkOf l
  let again := r.retry.dropWhile (fun f => decide (f.linkSeq ≠ seq))
  let times := match r.again with
    | some (q, n) => if q = seq then n + 1 else 1
    | none => 1
  .next (match l with
    | .eth _ => s
    | _ =>
      if !r.st.carries ∨ again.isEmpty then s
      else
        let s := s.modLinkOf l (fun r => { r with retry := again, sent := r.sent ++ again, retries := r.retries + again.length
                                                  again := some (seq, times) })
        if 8 ≤ times then s.recount (s.failLink l) else s)

/-- LANE_FAILURE (R384): a package link drops the pair of the failed lane and retrains; below 4 lanes it fails. -/
def execLaneFailure (l : LinkId) (lane : BitVec 3) (s : State) : Host.Outcome State Fault Refusal :=
  let r := s.linkOf l
  let pair := [lane.toNat / 2 * 2, lane.toNat / 2 * 2 + 1]
  .next (match l with
    | .pkg _ =>
      if !r.st.carries ∨ r.badLanes.contains lane.toNat then s
      else if r.lanes < 6 then s.recount (s.failLink l)
      else s.recount ((s.modLinkOf l (fun r => { r with badLanes := r.badLanes ++ pair, lanes := r.lanes - 2, attempts := 0 })).linkTo l .training)
    | _ => s)

/-- The lanes on which training passes, if it does: all of them, or for a package link 6 or 4. -/
def LinkRec.trained (r : LinkRec) (l : LinkId) (good : Nat) : Option Nat :=
  let full := fullLanes l - r.badLanes.length
  match l with
  | .pkg _ =>
    let n := min good full
    if 8 ≤ n then some 8 else if 6 ≤ n then some 6 else if 4 ≤ n then some 4 else none
  | _ => if full ≤ good then some full else none

/-- What a route that has come back can reach waits anew when it is lost again (R387). -/
def State.reachAgain (s : State) : State :=
  let s := allDies.foldl (fun s a => s.modDie a (fun k => { k with
    unreach := allDies.foldl (fun m d => if s.dieReach a d then m &&& ~~~ (1#4 <<< d.toNat) else m) k.unreach })) s
  let up (p : Nat) : Bool := match Config.packageRoute 12 p with
    | some n => decide (n < 12) && ((s.link (6 + n)).st.carries || (s.pkgRoute n p).isSome)
    | none => false
  if s.unreachPkg = 0 then s
  else { s with unreachPkg := (List.range 64).foldl (fun m p => if up p then m &&& ~~~ (1#64 <<< p) else m) s.unreachPkg }

/-- Training has passed: UP on every lane, DEGRADED on fewer. The flits that waited in the retry buffer go in order (R383, R384); a DETOUR
returns to its own route, which holds class 2 as any change (R385). -/
def State.linkUp (s : State) (l : LinkId) (n : Nat) : State :=
  let back := decide ((s.linkOf l).st = .detour)
  let old := if back then s.links.toList.flatMap (fun r => r.retry.filter (fun f => decide (f.cls = 2))) else []
  let s := s.modLinkOf l (fun r => { r with
    lanes := n, attempts := 0, again := none, held2 := r.held2 || back, before2 := r.before2 ++ old, sent := r.sent ++ r.retry })
  (s.linkTo l (if n = fullLanes l then .up else .degraded)).reachAgain

/-- A training of a link has ended, on so many good lanes (Table 18.3). -/
def State.trainingDone (s : State) (l : LinkId) (goodLanes : Nat) : State :=
  let r := s.linkOf l
  match r.st with
  | .training =>
    (match r.trained l goodLanes with
     | some n => s.recount (s.linkUp l n)
     | none =>
       if r.attempts < 2 then s.modLinkOf l (fun r => { r with attempts := r.attempts + 1 })
       else
         let s := s.recount (s.failLink l)
         match l with
         | .eth p => s.losePort p
         | _ => s)
  | .detour | .down =>
    (match r.trained l goodLanes with
     | some n => s.recount (s.linkUp l n)
     | none =>
       if r.attempts < 2 then s.modLinkOf l (fun r => { r with attempts := r.attempts + 1 })
       else s.recount (s.linkTo l .retired))
  | _ => s

/-- TRAINING_DONE. -/
def execTrainingDone (l : LinkId) (goodLanes : Nat) (s : State) : Host.Outcome State Fault Refusal := .next (s.trainingDone l goodLanes)

/-- ETHERNET_PORT_FAILURE (R383, R393): a port that was UP enters DOWN and loses its flows. -/
def execEthernetPortFailure (port : EthPort) (s : State) : Host.Outcome State Fault Refusal :=
  .next (if (s.linkOf (.eth port)).st = .up then
      s.recount (((s.modLinkOf (.eth port) (fun r => { r with attempts := 0 })).linkTo (.eth port) .down).losePort port)
    else s)

/-! ### Unreachable destinations (R387) -/

/-- A die keeps a working die link. -/
def State.dieLinked (s : State) (d : BitVec 2) : Bool :=
  (allDies.filter (fun e => decide (e ≠ d))).any (fun e => (s.link (dieLink d e)).st.carries)

/-- A group waits for a destination die from a die that has no route to it: an outstanding LDG, an unsettled fill, or a slot that waits for
a route to it. A started engine operation ends at its next chunk. -/
def State.waitsFor (s : State) (g : Group) (d : BitVec 2) : Option CoreIx :=
  g.cores.find? (fun c =>
    let k := s.core c
    let far (va : Word) : Bool := decide (s.dieHome g.ctx va = some d)
    let held : Bool := match k.ctl.wait with
      | some (.route va) => far va
      | _ => false
    !s.dieReach (dieOf c) d && (held || k.rs.ldgs.any (fun l => far l.va) ||
      k.grid.queues.toList.any (fun q => q.entries.any (fun e => !e.settled && far e.va))))

/-- A die without a working die link is lost, in the order of R387: its clusters retire, its frames become RETIRED and are unbound, and
every context that held one of them or had a group there enters FROZEN. -/
def State.loseDie (s : State) (d : BitVec 2) : State :=
  if (s.die d).lost then s
  else
    let fs := s.frames.filter (fun f => decide (homeDie (f.no * frameBytes) = d ∧ f.st ≠ .free ∧ f.st ≠ .retired))
    let hit := (List.range 65).filter (fun n => fs.any (fun f => decide (f.owner = n)) ||
      s.groups.any (fun g => decide (g.ctx = n) && g.cores.any (fun c => decide (dieOf c = d))))
    let s := s.modDie d (fun k => { k with
      lost := true, felt := false, spares := Vector.replicate 8 false, hbmUnits := 0, reserve := Vector.replicate 3 false })
    let s := (clustersOf d).foldl State.retireCluster s
    let s : State := { s with frames := s.frames.map (fun f =>
      if homeDie (f.no * frameBytes) = d then { f with st := .retired, owner := 0, toBound := false, dirty := false, win := none } else f) }
    (hit.filter (fun n => decide (n ≠ 0))).foldl (fun s n => s.freeze n 1) s

/-- UNREACHABLE_TIMEOUT (R387): for a die, every group that waits for it ends with the link-unreachable fault, later requests to it do the
same, and a die that keeps no working link is lost; for a package, records that its member runs fail, and end their groups. -/
def execUnreachableTimeout (d : Unreach) (s : State) : Host.Outcome State Fault Refusal :=
  .next (match d with
    | .die d =>
      let s := s.groups.foldl (fun s g =>
        match (if g.st = .resident then s.waitsFor g d else none) with
        | some c => s.endGroup g.id 0x150 c (s.core c).ctl.pc 0
        | none => s) s
      let s := allDies.foldl (fun s a =>
        if s.dieReach a d then s else s.modDie a (fun k => { k with unreach := k.unreach ||| (1#4 <<< d.toNat) })) s
      if s.dieLinked d then s else s.loseDie d
    | .pkg p =>
      if p = s.pkg then s
      else
        let s : State := { s with unreachPkg := s.unreachPkg ||| (1#64 <<< p.toNat) }
        (s.tiles.filter (fun t => s.foreign t && (s.members t.ctx).contains p.toNat)).foldl (fun s t => s.cutRecord t.id) s)

/-! ### Link commands (Table 18.6) -/

/-- LINK_QUERY: state, lanes, error and retry counts (layout: log 16). -/
def State.cmdLinkQuery (s : State) (h : CmdHdr) (l : LinkId) : State :=
  match firstRefusal h.bySystem true true true with
  | some e => s.reply h 0x54 e
  | none =>
    let r := s.linkOf l
    s.reply h 0x54 0 0 (leBytes 1 r.st.code ++ leBytes 1 r.lanes ++ leBytes 2 0 ++ leBytes 4 r.crcErrors ++ leBytes 4 r.retries)

/-- LINK_RETIRE: DETOUR and DOWN retire (Table 18.3); so does a link in any other state, whose routes then change as for a
failure (log 130). -/
def State.cmdLinkRetire (s : State) (h : CmdHdr) (l : LinkId) : State :=
  match firstRefusal h.bySystem (decide ((s.linkOf l).st ≠ .retired)) true true with
  | some e => s.reply h 0x55 e
  | none =>
    let s := if (s.linkOf l).st.carries ∧ s.alternative l then s.resendOnRoute l else s
    let s := s.recount (s.linkTo l .retired)
    let s := match l with
      | .eth p => s.losePort p
      | _ => s
    s.reply h 0x55 0

/-- SPAN_SET (R399). -/
def State.cmdSpanSet (s : State) (h : CmdHdr) (mask : BitVec 64) (tags : List Tag) : State :=
  let n := h.ctx
  let ps := (List.range 64).filter (fun i => mask.getLsbD i)
  match firstRefusal h.bySystem (!h.tenant || decide ((s.ctx n).st = .configured))
      (h.tenant && mask.getLsbD s.pkg.toNat && decide (tags.length = ps.length) && tags.all (fun t => decide (tagCtx t = n)) &&
        decide ((ps.zip tags).lookup s.pkg.toNat = some (s.tagOf n))) true with
  | some e => s.reply h 0x53 e
  | none => (s.modCtx n (fun c => { c with spanMask := mask, spanTags := ps.zip tags })).reply h 0x53 0

/-- SPAN_GEN (R399). -/
def State.cmdSpanGen (s : State) (h : CmdHdr) (member : BitVec 8) (tag : Tag) : State :=
  let n := h.ctx
  let c := s.ctx n
  match firstRefusal h.bySystem (!h.tenant || decide (c.st ≠ .free))
      (h.tenant && decide (member.toNat < 64) && c.spanMask.getLsbD member.toNat && decide (tagCtx tag = n)) true with
  | some e => s.reply h 0x56 e
  | none =>
    (s.modCtx n (fun c => { c with spanTags := (member.toNat, tag) :: c.spanTags.filter (fun p => decide (p.1 ≠ member.toNat)) })).reply
      h 0x56 0

end Sys2Proof.Machine
end

