-- ==== Sys2Proof/Machine/Bringup.lean ====
section
/-! DEFINITION. Bring-up, firmware, fuses, capacity and power (20_bringup, R412 to R420), and the reports of errors (R409, R410). -/

namespace Sys2Proof.Machine

/-! ### Firmware (R413 to R416) -/

/-- Bits of a fuse counter that are blown (R414). -/
def blown (w : Word) : Nat := ((List.range 64).filter (fun i => w.getLsbD i)).length
def Boot.fuse (b : Boot) (i : Nat) : Word := (b.fuses[i]?).getD 0

/-- The three parts of a firmware image (R413): a header of 128 bytes, the code, a signature of 29,792 bytes; what is signed is the first
two. -/
def fwParts (bytes : List Byte) : Option (List Byte × List Byte) :=
  if bytes.length < 128 + 29792 then none else some (bytes.take (bytes.length - 29792), bytes.drop (bytes.length - 29792))

/-- The checks of R413 in order: the number of the first that fails, or the image. -/
def Boot.fwCheck (b : Boot) (bytes : List Byte) : Except Nat FwImage :=
  match (fwParts bytes).bind (fun p => (Config.fwFields (p.1.take 128)).map (fun f => (f, p))) with
  | none => .error 1
  | some ((comp, version, key), body, sig) =>
    let pub := Config.fwPublicKey body
    if 5 < comp ∨ 64 < version ∨ 3 < key ∨ pub.length ≠ 64 then .error 1
    else if (b.fuse 6).getLsbD key then .error 2
    else if Config.sha256 pub ≠ Config.fusedKeyDigest (BitVec.ofNat 2 key) then .error 3
    else if !Config.slhVerify256 pub (leBytes 64 (Config.sha512 body).toNat) sig then .error 4
    else if version < blown (b.fuse comp) then .error 5
    else .ok { component := comp, version := version, key := key, bytes := bytes }

/-- The image of a component in a flash slot, checked again. -/
def Boot.checked (b : Boot) (slot : Vector (Option FwImage) 6) (i : Nat) : Option FwImage :=
  match (slot[i]?).getD none with
  | some f =>
    match b.fwCheck f.bytes with
    | .ok g => if g.component = i then some g else none
    | .error _ => none
  | none => none

/-- An image put into the slot from which the package did not boot. -/
def Boot.loaded (b : Boot) (f : FwImage) : Boot :=
  let b := { b with newest := b.newest.set! f.component (some (!b.bootB)) }
  if b.bootB then { b with slotA := b.slotA.set! f.component (some f) } else { b with slotB := b.slotB.set! f.component (some f) }

/-- FW_LOAD (R416): the image goes to the flash slot from which the package did not boot, once it passes its checks, and the next boot takes
it from there (log 146). -/
def State.cmdFwLoad (s : State) (h : CmdHdr) (image : Word) (len : BitVec 32) : State :=
  let ok := decide (len ≠ 0) && s.sysRange image len.toNat
  match firstRefusal h.bySystem true ok true with
  | some e => s.reply h 0x60 e (if h.bySystem then 1 else 0)
  | none =>
    let (bs, s) := s.getMem image.toNat len.toNat
    match s.boot.fwCheck bs with
    | .error d => s.reply h 0x60 2 d
    | .ok f => ({ s with boot := s.boot.loaded f }).reply h 0x60 0

/-- FW_COMMIT (R415): refused, already met, or begun: its bits are blown one at a time. -/
def State.cmdFwCommit (s : State) (h : CmdHdr) (component value : BitVec 8) : State :=
  let c := component.toNat
  let v := value.toNat
  let run := (s.boot.running[c]?).getD none
  let main := (s.boot.running[0]?).getD none
  let ok :=
    if c ≤ 5 then decide (v ≤ blown (s.boot.fuse c)) || (run.map (fun f => decide (v ≤ f.version))).getD false
    else decide (c = 6 ∧ v ≤ 3) && (main.map (fun f => decide (f.key ≠ v))).getD true
  match firstRefusal h.bySystem true ok true with
  | some e => s.reply h 0x61 e
  | none =>
    if (if c = 6 then (s.boot.fuse 6).getLsbD v else decide (v ≤ blown (s.boot.fuse c))) then s.reply h 0x61 0
    else { s with boot := { s.boot with commit := some (h, c, v) } }

/-- One blow of the FW_COMMIT in progress: complete, or not made (R415). -/
def State.blowFuse (s : State) : State :=
  match s.boot.commit with
  | none => s
  | some (h, c, v) =>
    let w := s.boot.fuse c
    let bit := if c = 6 then v else ((List.range 64).find? (fun i => !w.getLsbD i)).getD 63
    let w := setBit w bit true
    let s : State := { s with boot := { s.boot with fuses := s.boot.fuses.set! c w } }
    if c = 6 ∨ v ≤ blown w then ({ s with boot := { s.boot with commit := none } }).reply h 0x61 0 else s

/-! ### Capacity (R417) -/

/-- CAP_READ: the record of Table 20.4. -/
def State.cmdCapRead (s : State) (h : CmdHdr) : State :=
  match firstRefusal h.bySystem true true true with
  | some e => s.reply h 0x62 e
  | none => s.reply h 0x62 0 0 (leBytes 8 s.boot.capGen.toNat ++ s.capFields ++ List.replicate 32 0)

/-! ### Power (R419, R420) -/

/-- Units of a kind and their range in mW (Table 20.5). -/
def powerKind (k : Nat) : Option (Nat × Nat × Nat) :=
  match k with
  | 0 => some (64, 8000, 40000)
  | 1 => some (12, 20000, 40000)
  | 2 => some (6, 10000, 25000)
  | 3 => some (12, 5000, 12500)
  | 4 => some (2, 15000, 15000)
  | _ => none

/-- POWER_SET. -/
def State.cmdPowerSet (s : State) (h : CmdHdr) (kind index : BitVec 8) (mw : BitVec 32) : State :=
  let hit (e : Nat × Nat × Nat) : Bool := decide (e.1 = kind.toNat) && (decide (index = 0xFF) || decide (e.2.1 = index.toNat))
  let new := s.boot.limits.map (fun e => if hit e then (e.1, e.2.1, mw.toNat) else e)
  let ok := match powerKind kind.toNat with
    | some (n, lo, hi) => decide (index = 0xFF ∨ index.toNat < n) && decide (lo ≤ mw.toNat ∧ mw.toNat ≤ hi)
    | none => false
  match firstRefusal h.bySystem true (ok && decide ((new.map (fun e => e.2.2)).sum + 300000 ≤ 3300000)) true with
  | some e => s.reply h 0x63 e
  | none => ({ s with boot := { s.boot with limits := new } }).reply h 0x63 0

/-- A core of a cluster stands in a timed region. -/
def State.clusterTimed (s : State) (cl : ClusterIx) : Bool :=
  (List.range 8).any (fun i => (s.core (coreIn cl (BitVec.ofNat 3 i))).timed)

/-- A cluster's clock set, or kept waiting while a core stands in a timed region (R15). -/
def State.setClock (s : State) (cl : ClusterIx) (mhz : Nat) : State :=
  s.modCluster cl (fun k => if s.clusterTimed cl then { k with pendMhz := some mhz } else { k with mhz := mhz, pendMhz := none })
/-- A clock that a cluster may take (R420); one at 105 °C takes the lowest. -/
def State.clockFor (s : State) (cl : ClusterIx) (mhz : Nat) : Option Nat :=
  if mhz < 650 ∨ 1300 < mhz ∨ (mhz - 650) % 25 ≠ 0 then none
  else some (if s.boot.lowest.contains (0, cl.toNat) then 650 else mhz)
/-- Changes of frequency that waited for the end of a timed region take effect (R15). -/
def State.applyClocks (s : State) : State :=
  if s.clusters.toList.any (fun k => k.pendMhz.isSome) then
    (List.range 64).foldl (fun s i =>
      let cl : ClusterIx := BitVec.ofNat 6 i
      if s.clusterTimed cl then s else s.modCluster cl Cluster.clock) s
  else s

/-- POWER_WINDOW (R419): a cluster meets its limit by frequency; links and memory controllers space what they send, and nothing
else of theirs changes. -/
def execPowerWindow (kind index : BitVec 8) (mhz : Nat) (s : State) : Host.Outcome State Fault Refusal :=
  .next (if kind = 0 ∧ index.toNat < 64 then
      let cl : ClusterIx := index.extractLsb' 0 6
      match s.clockFor cl mhz with
      | some m => s.setClock cl m
      | none => s
    else s)

/-- FREQUENCY_CHANGE (R15). -/
def execFrequencyChange (cl : ClusterIx) (mhz : Nat) (s : State) : Host.Outcome State Fault Refusal :=
  .next (match s.clockFor cl mhz with
    | some m => s.setClock cl m
    | none => s)

/-! ### Boot, reset, loss of power -/

/-- What stays of a package that loses power or is reset: its position, flash, fuses (those of its felt dies among them) and configuration
record; the counters behind keys and free values go on (R20, R412, R414 to R416). -/
def State.powerDown (s : State) : State :=
  { State.reset with
    pkg := s.pkg, free := s.free, keyCount := s.keyCount, inputs := s.inputs, saveWrite := s.saveWrite, out := s.out
    boot := { Boot.reset with
      slotA := s.boot.slotA, slotB := s.boot.slotB, newest := s.boot.newest, fuses := s.boot.fuses, feltOff := s.boot.feltOff
      flow0 := s.boot.flow0, addrs := s.boot.addrs } }

/-- PACKAGE_RESET (R383, R416): every link is in RESET and nothing runs; the boot sequence starts with POWER_ON. -/
def execPackageReset (s : State) : Host.Outcome State Fault Refusal := .next s.powerDown

/-- POWER_LOSS (R415): all running state is lost; a floor that was being raised keeps the bits blown. -/
def execPowerLoss (s : State) : Host.Outcome State Fault Refusal := .next s.powerDown

/-- THERMAL_LIMIT (R420): a unit at 105 °C runs at its lowest setting; at 115 °C the package is held in reset. -/
def execThermalLimit (t : Thermal) (s : State) : Host.Outcome State Fault Refusal :=
  .next (match t with
    | .unit105 kind index =>
      let s : State := { s with boot := { s.boot with lowest := (kind.toNat, index.toNat) :: s.boot.lowest.filter (fun e =>
        decide (e ≠ (kind.toNat, index.toNat))) } }
      if kind = 0 ∧ index.toNat < 64 then s.setClock (index.extractLsb' 0 6) 650 else s
    | .die115 => { s.powerDown with boot := { s.powerDown.boot with halted := true } })

/-- The image that a boot takes of a component: that of the slot loaded last, else of slot `b`; where it fails its checks, the other slot's. The
slot goes with it. -/
def Boot.take (k : Boot) (b : Bool) (i : Nat) : Option (Bool × FwImage) :=
  let b := (k.newest[i]?.getD none).getD b
  let at' (b : Bool) : Option (Bool × FwImage) := (k.checked (if b then k.slotB else k.slotA) i).map (fun f => (b, f))
  (at' b).or (at' (!b))

/-- Boot step 1: the main firmware of slot A, else of slot B, and the microcode images that pass (R412, R413); an image that FW_LOAD wrote
comes first (R416, log 146). -/
def Boot.firmware (b : Boot) : Option (Bool × Vector (Option FwImage) 6) :=
  (b.take false 0).map (fun m => (m.1, Vector.ofFn (fun i => if i.val = 0 then some m.2 else (b.take m.1 i.val).map Prod.snd)))

/-- A link takes its training results in turn (Table 18.3): one pass, or the failed attempts that retire it (R383, R412). -/
def State.trainLink (s : State) (l : LinkId) (good : Nat) : State :=
  (List.range 6).foldl (fun s _ => if (s.linkOf l).st.carries then s else s.trainingDone l good) s

/-- The lanes of a link that its test finds good. -/
def goodLanes (t : BootTests) (l : LinkId) : Nat :=
  if t.failedLinks.contains l then 0
  else match l with
    | .pkg n => (t.lanes.lookup n).getD 8
    | _ => fullLanes l

/-- Boot step 2: links trained, units tested; what fails is retired, and a felt die that fails, or is fused, is off (R18, R20, R412, R418). -/
def State.bootUnits (s : State) (t : BootTests) : State :=
  let ls : List LinkId := (List.finRange 6).map LinkId.die ++ (List.finRange 12).map LinkId.pkg
  let s := ls.foldl (fun s l => s.linkTo l .training) s
  let (bad, good) := ls.partition (fun l => decide (goodLanes t l = 0))
  let s := (good ++ bad).foldl (fun s l => s.trainLink l (goodLanes t l)) s
  let off := allDies.filter (fun d => t.failedFelt.contains d || s.boot.feltOff.getLsbD d.toNat)
  let s : State := { s with boot := { s.boot with feltOff := off.foldl (fun m d => m ||| (1#4 <<< d.toNat)) s.boot.feltOff } }
  let s := off.foldl (fun s d =>
    let s := s.modDie d (fun k => { k with felt := false })
    (allCores.filter (fun c => decide (dieOf c = d))).foldl (fun s c =>
      s.modCore c (fun k => { k with xbCap := 1048576, wbCap := 1048576 })) s) s
  let s := t.failedSpares.foldl (fun s p => s.modDie p.1 (fun k => { k with spares := k.spares.set p.2 false })) s
  let s := t.failedCores.foldl (fun s c =>
    match execCoreSubstitution c (s.modCtl c (fun q => { q with st := .failed })) with
    | .next u => u
    | _ => s) s
  t.failedChannels.foldl (fun s k =>
    match execChannelRetirement k s with
    | .next u => u
    | _ => s) s

/-- Flow 0 of a port, for the system context (R388, R412). -/
def State.openFlow (s : State) (p : EthPort) (n : BitVec 10) (ctx : Nat) (ip : BitVec 128) (udp : BitVec 16) (key : BitVec 256) : State :=
  { s with flows := s.flows ++
    [{ port := p, no := n, ctx := ctx, ip := ip, udp := udp, key := key, tx := 0, rx := 0, held := [], inq := [], unacked := []
       sacked := [], retries := 0, pendAck := 0, acks := 0, renewed := false }] }

/-- Boot step 4: a port trained, with its addresses and its flow 0 (R378, R388). -/
def State.bootPort (s : State) (t : BootTests) (p : EthPort) : State :=
  let s := s.linkTo (.eth p) .training
  if t.failedLinks.contains (.eth p) then s.linkTo (.eth p) .down
  else
    let s := (s.modLinkOf (.eth p) (fun r => { r with lanes := 8 })).linkTo (.eth p) .up
    let s := s.modPort p (fun k => { k with addr := s.boot.addrs[portIx p] })
    match s.boot.flow0 with
    | some (ip, udp, key) => s.openFlow p 0 0 ip udp key
    | none => s

/-- The free key of a die, generated at boot (R364). -/
def State.freeKeyAt (s : State) (d : BitVec 2) : State :=
  ({ s with keyCount := s.keyCount + 1 } : State).modDie d (fun k => { k with freeKey := s.keyCount + 1 })

/-- POWER_ON (R412): the boot sequence of Table 20.1, as one act; a package that has booted is not touched. The LINK_CHANGEs of step 2 are the
system context's first events, sent once its flow 0 is open (R59, log 43). -/
def execPowerOn (t : BootTests) (s : State) : Host.Outcome State Fault Refusal :=
  .next (if s.boot.booted then s
    else
      let s := s.powerDown
      match s.boot.firmware with
      | none => { s with boot := { s.boot with halted := true, statusOk := false } }
      | some (b, run) =>
        let s : State := { s with boot := { s.boot with bootB := b, running := run } }
        let s := s.bootUnits t
        if t.seedFails then { s with boot := { s.boot with halted := true, statusOk := false } }
        else
          let s : State := { s with keyCount := s.keyCount + 1 }
          let s := s.modCtx 0 (fun c => { c with st := .ready, key := s.keyCount })
          let s := allDies.foldl State.freeKeyAt s
          let s := (s.bootPort t .a).bootPort t .b
          ({ s with boot := { s.boot with booted := true } } : State).event 0 0x0F [])

/-! ### Error reports (R409, R410) -/

/-- The number of a unit in a CORRECTED event (log 15). -/
def State.errUnit (s : State) : ErrUnit → Nat
  | .core c => (s.coreid c).toNat % 65536
  | .memCtl k => 0x4000 + k.val
  | .link l => 0x5000 + linkIx l

/-- CORRECTED_ERROR (R409): counted under its unit and detail, and reported. -/
def execCorrectedError (u : ErrUnit) (detail : BitVec 4) (s : State) : Host.Outcome State Fault Refusal :=
  .next (if detail = 0 ∨ 5 < detail.toNat then s else s.corrected (s.errUnit u) detail.toNat)

/-- UNCORRECTABLE_ERROR (R410): the group of the reading agent ends; an instruction line is refetched and reported; a core is marked
failed (R18), within a lull without an end of its group. -/
def execUncorrectableError (e : UncErr) (s : State) : Host.Outcome State Fault Refusal :=
  .next (match e with
    | .buffer c => s.endMine c 0x162 (s.core c).ctl.pc 0
    | .hbm c => s.endMine c 0x163 (s.core c).ctl.pc 0
    | .icache c => (s.modCore c (fun k => { k with icache := [] })).corrected (s.errUnit (.core c)) 5
    | .core c => s.failCore c 0x161 (s.core c).ctl.pc 0)

end Sys2Proof.Machine
end

