-- ==== Sys2Proof/Machine/FlowCmds.lean ====
section
/-! DEFINITION. The flow commands (Table 18.6) and the order of commands (R37): which act a command is, and when its turn comes. -/

namespace Sys2Proof.Machine

/-- FLOW_OPEN (R388, R398). -/
def State.cmdFlowOpen (s : State) (h : CmdHdr) (port : EthPort) (flow : BitVec 16) (tag : Tag) (ip : BitVec 128) (udp : BitVec 16)
    (key : BitVec 256) : State :=
  let n := tagCtx tag
  let no : BitVec 10 := flow.extractLsb' 0 10
  let ok := decide (1 ≤ flow.toNat ∧ flow.toNat ≤ 1023) && (s.flow port no).isNone && s.tagCurrent tag &&
    (decide (n = 0) || (decide (n ≤ 64) && decide ((s.ctx n).st ≠ .free)))
  match firstRefusal h.bySystem true ok (decide ((s.flows.filter (fun f => decide (f.port = port))).length < 1024)) with
  | some e => s.reply h 0x50 e
  | none => (s.openFlow port no n ip udp key).reply h 0x50 0

/-- FLOW_CLOSE (R393, R398). -/
def State.cmdFlowClose (s : State) (h : CmdHdr) (port : EthPort) (flow : BitVec 16) : State :=
  let no : BitVec 10 := flow.extractLsb' 0 10
  let ok := decide (1 ≤ flow.toNat ∧ flow.toNat ≤ 1023) && (s.flow port no).isSome
  match firstRefusal h.bySystem true ok true with
  | some e => s.reply h 0x51 e
  | none => (s.loseFlow port no true).reply h 0x51 0

/-- A range of a context meets nothing that a host window may not overlap: another host window, a window, sealed code, an open ring. -/
def State.hwinFree (s : State) (n i lo len : Nat) : Bool :=
  let c := s.ctx n
  let others := (c.hwins.toList.zipIdx.filter (fun p => decide (p.2 ≠ i))).filterMap (fun p => p.1)
  others.all (fun w => !rangesMeet lo len w.base.toNat w.len.toNat) &&
    (s.liveWindows.all (fun w =>
      !(decide (w.owner = n) && rangesMeet lo len w.base.toNat w.len.toNat) &&
        (match w.peerBase with
         | some b => !(decide (tagCtx w.peer = n) && rangesMeet lo len b.toNat w.len.toNat)
         | none => true))) &&
    c.kernels.toList.all (fun k => k.pages.all (fun p => !rangesMeet lo len p.va.toNat 65536)) &&
    c.queues.toList.all (fun r => decide (r.st = .closed) || !rangesMeet lo len r.ring.toNat (2 ^ (r.s + 6)))

/-- HWIN_SET (R397, R398). -/
def State.cmdHwinSet (s : State) (h : CmdHdr) (win : BitVec 8) (base len : Word) (port : EthPort) (flow : BitVec 16) (hbase : Word) :
    State :=
  let n := h.ctx
  let no : BitVec 10 := flow.extractLsb' 0 10
  let mine := decide (flow.toNat ≤ 1023) && ((s.flow port no).map (fun f => decide (f.ctx = n))).getD false
  let ok := h.tenant && decide (win.toNat < 16) &&
    (decide (len = 0) || (decide (base.toNat % 65536 = 0 ∧ len.toNat % 65536 = 0 ∧ len.toNat ≤ 2 ^ 40 ∧ base.toNat + len.toNat ≤ 2 ^ 52 ∧
      hbase.toNat % 64 = 0) && mine && s.hwinFree n win.toNat base.toNat len.toNat))
  match firstRefusal h.bySystem true ok true with
  | some e => s.reply h 0x52 e
  | none =>
    let w : Option HWin := if len = 0 then none else some { base := base, len := len, port := port, flow := no, hbase := hbase }
    (s.modCtx n (fun c => { c with hwins := c.hwins.set! win.toNat w })).reply h 0x52 0

/-- A link as a command names it: kind and number. -/
def linkBytes (l : LinkId) : List Byte := [BitVec.ofNat 8 (linkName l).1, BitVec.ofNat 8 (linkName l).2]
/-- A port and the action of an answer as bytes. -/
def portByte (p : EthPort) : Byte := BitVec.ofNat 8 (portIx p).val
def answerByte : AnswerAct → Byte
  | .resume => 0
  | .terminate => 1
  | .complete => 2

/-- The operands of a command in its payload: in the order of its table, each in the bytes that its values need (log 16). -/
def Cmd.operands : Cmd → List Byte
  | .ctxCreate | .ctxRead | .ctxBind | .ctxLull | .ctxThaw | .ctxReset | .ctxDestroy | .ctxMigrate | .ctxMigrateAbort | .ctxRelease => []
  | .ctxWrite i => i
  | .ctxDirty a n => leBytes 8 a.toNat ++ leBytes 4 n.toNat
  | .ctxExport k => [k]
  | .ctxImport k => [k]
  | .mkeySet k key b l p r => [k] ++ leBytes 32 key.toNat ++ leBytes 8 b.toNat ++ leBytes 8 l.toNat ++ [p] ++ leBytes 8 r.toNat
  | .winGrant b l p => leBytes 8 b.toNat ++ leBytes 8 l.toNat ++ leBytes 2 p.toNat
  | .winAccept k b => leBytes 4 k.toNat ++ leBytes 8 b.toNat
  | .winRevoke k => leBytes 4 k.toNat
  | .queueOpen q k r s p d => leBytes 2 q.toNat ++ [k] ++ leBytes 8 r.toNat ++ [s, p, d]
  | .queueClose q => leBytes 2 q.toNat
  | .queueSetprio q p => leBytes 2 q.toNat ++ [p]
  | .queueResume q m => leBytes 2 q.toNat ++ [m]
  | .queueRead q => leBytes 2 q.toNat
  | .queueConsume q n => leBytes 2 q.toNat ++ leBytes 8 n.toNat
  | .fcRead a n => leBytes 2 a.toNat ++ leBytes 2 n.toNat
  | .kernelLoad i l c r => leBytes 8 i.toNat ++ leBytes 4 l.toNat ++ leBytes 8 c.toNat ++ leBytes 8 r.toNat
  | .kernelUnload k => leBytes 4 k.toNat
  | .kernelQuery k => leBytes 4 k.toNat
  | .codekeySet k key m => [k] ++ leBytes 48 key.toNat ++ leBytes 8 m.toNat
  | .pageBind a n t => leBytes 8 a.toNat ++ leBytes 4 n.toNat ++ leBytes 2 t.toNat
  | .pageUnbind a n => leBytes 8 a.toNat ++ leBytes 4 n.toNat
  | .pageRetire a n => leBytes 8 a.toNat ++ leBytes 4 n.toNat
  | .pageQuery a => leBytes 8 a.toNat
  | .tlbInval t a l => leBytes 2 t.toNat ++ leBytes 8 a.toNat ++ leBytes 8 l.toNat
  | .faultRing a s => leBytes 8 a.toNat ++ [s]
  | .faultAnswer q a => leBytes 8 q.toNat ++ [answerByte a]
  | .pageExport k t a n o => [k] ++ leBytes 2 t.toNat ++ leBytes 8 a.toNat ++ leBytes 4 n.toNat ++ leBytes 8 o.toNat
  | .pageImport k a b => [k] ++ leBytes 8 a.toNat ++ leBytes 8 b.toNat
  | .flowOpen p n t ip u key =>
    [portByte p] ++ leBytes 2 n.toNat ++ leBytes 2 t.toNat ++ leBytes 16 ip.toNat ++ leBytes 2 u.toNat ++ leBytes 32 key.toNat
  | .flowClose p n => [portByte p] ++ leBytes 2 n.toNat
  | .hwinSet w b l p n hb =>
    [w] ++ leBytes 8 b.toNat ++ leBytes 8 l.toNat ++ [portByte p] ++ leBytes 2 n.toNat ++ leBytes 8 hb.toNat
  | .spanSet m ts => leBytes 8 m.toNat ++ ts.flatMap (fun t => leBytes 2 t.toNat)
  | .linkQuery l => linkBytes l
  | .linkRetire l => linkBytes l
  | .spanGen m t => [m] ++ leBytes 2 t.toNat
  | .fwLoad a n => leBytes 8 a.toNat ++ leBytes 4 n.toNat
  | .fwCommit c v => [c, v]
  | .capRead => []
  | .powerSet k i m => [k, i] ++ leBytes 4 m.toNat
  | .unknown _ => []
/-- Payload bytes of a command (Table 18.5): the 8 bytes before the operands, and the operands. -/
def Cmd.bytes (c : Cmd) : Nat := 8 + c.operands.length

/-- The code of a command. -/
def Cmd.codeOf : Cmd → Nat
  | .ctxCreate => 0x01
  | .ctxWrite _ => 0x02
  | .ctxRead => 0x03
  | .ctxBind => 0x04
  | .ctxLull => 0x05
  | .ctxThaw => 0x06
  | .ctxReset => 0x07
  | .ctxDestroy => 0x08
  | .ctxMigrate => 0x09
  | .ctxMigrateAbort => 0x0A
  | .ctxDirty _ _ => 0x0B
  | .ctxExport _ => 0x0C
  | .ctxImport _ => 0x0D
  | .ctxRelease => 0x0E
  | .mkeySet _ _ _ _ _ _ => 0x0F
  | .winGrant _ _ _ => 0x10
  | .winAccept _ _ => 0x11
  | .winRevoke _ => 0x12
  | .queueOpen _ _ _ _ _ _ => 0x20
  | .queueClose _ => 0x21
  | .queueSetprio _ _ => 0x22
  | .queueResume _ _ => 0x23
  | .queueRead _ => 0x24
  | .queueConsume _ _ => 0x25
  | .fcRead _ _ => 0x26
  | .kernelLoad _ _ _ _ => 0x30
  | .kernelUnload _ => 0x31
  | .kernelQuery _ => 0x32
  | .codekeySet _ _ _ => 0x33
  | .pageBind _ _ _ => 0x40
  | .pageUnbind _ _ => 0x41
  | .pageRetire _ _ => 0x42
  | .pageQuery _ => 0x43
  | .tlbInval _ _ _ => 0x44
  | .faultRing _ _ => 0x45
  | .faultAnswer _ _ => 0x46
  | .pageExport _ _ _ _ _ => 0x47
  | .pageImport _ _ _ => 0x48
  | .flowOpen _ _ _ _ _ _ => 0x50
  | .flowClose _ _ => 0x51
  | .hwinSet _ _ _ _ _ _ => 0x52
  | .spanSet _ _ => 0x53
  | .linkQuery _ => 0x54
  | .linkRetire _ => 0x55
  | .spanGen _ _ => 0x56
  | .fwLoad _ _ => 0x60
  | .fwCommit _ _ => 0x61
  | .capRead => 0x62
  | .powerSet _ _ _ => 0x63
  | .unknown c => c.toNat

/-- A command performed, its checks first (R37). A code that no table defines completes with BADCMD. -/
def State.perform (s : State) (h : CmdHdr) : Cmd → State
  | .ctxCreate => s.cmdCtxCreate h
  | .ctxWrite i => s.cmdCtxWrite h i
  | .ctxRead => s.cmdCtxRead h
  | .ctxBind => s.cmdCtxBind h
  | .ctxLull => s.cmdCtxLull h
  | .ctxThaw => s.cmdCtxThaw h
  | .ctxReset => s.cmdCtxReset h
  | .ctxDestroy => s.cmdCtxDestroy h
  | .ctxMigrate => s.cmdCtxMigrate h
  | .ctxMigrateAbort => s.cmdCtxMigrateAbort h
  | .ctxDirty a n => s.cmdCtxDirty h a n
  | .ctxExport k => s.cmdCtxExport h k
  | .ctxImport k => s.cmdCtxImport h k
  | .ctxRelease => s.cmdCtxRelease h
  | .mkeySet k key b l p r => s.cmdMkeySet h k key b l p r
  | .winGrant b l p => s.cmdWinGrant h b l p
  | .winAccept w b => s.cmdWinAccept h w b
  | .winRevoke w => s.cmdWinRevoke h w
  | .queueOpen q k r n p d => s.cmdQueueOpen h q k r n p d
  | .queueClose q => s.cmdQueueClose h q
  | .queueSetprio q p => s.cmdQueueSetprio h q p
  | .queueResume q m => s.cmdQueueResume h q m
  | .queueRead q => s.cmdQueueRead h q
  | .queueConsume q n => s.cmdQueueConsume h q n
  | .fcRead f n => s.cmdFcRead h f n
  | .kernelLoad i l c r => s.cmdKernelLoad h i l c r
  | .kernelUnload k => s.cmdKernelUnload h k
  | .kernelQuery k => s.cmdKernelQuery h k
  | .codekeySet n k m => s.cmdCodekeySet h n k m
  | .pageBind a n t => s.cmdPageBind h a n t
  | .pageUnbind a n => s.cmdPageUnbind h a n
  | .pageRetire a n => s.cmdPageRetire h a n
  | .pageQuery a => s.cmdPageQuery h a
  | .tlbInval t v l => s.cmdTlbInval h t v l
  | .faultRing a n => s.cmdFaultRing h a n
  | .faultAnswer n a => s.cmdFaultAnswer h n a
  | .pageExport k t a n o => s.cmdPageExport h k t a n o
  | .pageImport k a b => s.cmdPageImport h k a b
  | .flowOpen p f t ip u k => s.cmdFlowOpen h p f t ip u k
  | .flowClose p f => s.cmdFlowClose h p f
  | .hwinSet w b l p f a => s.cmdHwinSet h w b l p f a
  | .spanSet m ts => s.cmdSpanSet h m ts
  | .linkQuery l => s.cmdLinkQuery h l
  | .linkRetire l => s.cmdLinkRetire h l
  | .spanGen m t => s.cmdSpanGen h m t
  | .fwLoad a l => s.cmdFwLoad h a l
  | .fwCommit c v => s.cmdFwCommit h c v
  | .capRead => s.cmdCapRead h
  | .powerSet k i w => s.cmdPowerSet h k i w
  | .unknown c => s.reply h c.toNat 6

/-- A command is executing for a context (R37): one that takes several events, a load, or an FW_COMMIT. -/
def State.busy (s : State) (n : Nat) : Bool :=
  (s.ctx n).cmd.isSome || (s.ctx n).kernels.toList.any (fun k => decide (k.st = .loading)) ||
    ((s.boot.commit.map (fun p => decide (p.1.ctx = n))).getD false)

/-- A chunk sent to a host window has not performed yet. -/
def State.windowBusy (s : State) (n : Nat) (i : Nat) : Bool :=
  match ((s.ctx n).hwins[i]?).getD none with
  | some w => s.hostReqs.any (fun r => decide (r.port = w.port ∧ r.flow = w.flow) && !r.done && !r.failed && r.got.isNone)
  | none => false

/-- An access of some contexts translated through the range has not performed: a store held in a gate (R359). -/
def State.staleAccess (s : State) (ns : List Nat) (lo n : Nat) : Bool :=
  allCores.any (fun c =>
    let k := s.core c
    ns.contains (s.ctxOf c) && k.rs.gate.any (fun h => decide (h.space = .dm) && rangesMeet lo n h.va.toNat h.data.length))

/-- What a command itself waits for: a HWIN_SET that removes a window, for every chunk already sent to it (R399); a TLB_INVAL, for the accesses
translated through what it removes (R359); an FW_COMMIT, for the one whose bits are being blown (R415). -/
def State.mustWait (s : State) (h : CmdHdr) : Cmd → Bool
  | .hwinSet w _ l _ _ _ => decide (l = 0) && h.bySystem && s.windowBusy h.ctx w.toNat
  | .fwCommit _ _ => h.bySystem && s.boot.commit.isSome
  | .tlbInval tag va len => h.bySystem && invalOk va len && s.staleAccess (s.invalCtxs tag) (invalRange va len).1 (invalRange va len).2
  | _ => false

/-- A command whose turn may come before that of the command executing: a reset or a destroy ends a lull or a load, and a reset joins a
reset (R37, R87); a FAULT_ANSWER does not wait behind a TLB_INVAL that waits for accesses, since the core that holds one may wait for the answer
(log 132). Behind any other it waits. -/
def State.overtakes (s : State) (h : CmdHdr) (c : Cmd) : Bool :=
  let loads := (s.ctx h.ctx).kernels.toList.any (fun k => decide (k.st = .loading))
  match c, (s.ctx h.ctx).cmd with
  | .ctxReset, some (.reset _ _) => h.byOwner
  | .ctxReset, some (.lull _) => h.byOwner
  | .ctxReset, none => h.byOwner && loads
  | .ctxDestroy, some (.lull _) => h.bySystem
  | .ctxDestroy, none => h.bySystem && loads
  | .faultAnswer _ _, none => h.bySystem && (match (s.ctx h.ctx).cmdQ with
    | (_, .tlbInval _ _ _) :: _ => true
    | _ => false)
  | _, _ => false

/-- What a command does as it begins to wait: a TLB_INVAL removes its entries, so that no later access uses them (R359). -/
def State.beforeWait (s : State) (h : CmdHdr) : Cmd → State
  | .tlbInval tag va len =>
    if h.bySystem && invalOk va len then
      s.tlbDrop (if tag = 0 then none else some tag) (invalRange va len).1 ((invalRange va len).1 + (invalRange va len).2)
    else s
  | _ => s

/-- A command arrives: it executes at once, or waits behind the one executing for its context (R37). -/
def State.command (s : State) (h : CmdHdr) (c : Cmd) : State :=
  if s.overtakes h c then s.perform h c
  else if s.busy h.ctx || !(s.ctx h.ctx).cmdQ.isEmpty || s.mustWait h c then (s.beforeWait h c).modCtx h.ctx (fun k => { k with cmdQ := k.cmdQ ++ [(h, c)] })
  else s.perform h c

/-- The commands that wait for a context executed in order while none is in progress. -/
def State.drainCmds (n : Nat) : Nat → State → State
  | 0, s => s
  | k + 1, s =>
    match (s.ctx n).cmdQ with
    | [] => s
    | (h, c) :: rest =>
      if s.busy n || s.mustWait h c then s
      else State.drainCmds n k ((s.modCtx n (fun q => { q with cmdQ := rest })).perform h c)

end Sys2Proof.Machine
end

