-- ==== Sys2Proof/Machine/Transport.lean ====
section
/-! DEFINITION. THT arrivals (R388 to R397, R400): the checks of a datagram, sequences and acknowledgements, the inbound share, and the
application of messages in order. -/

namespace Sys2Proof.Machine

/-! ### Messages -/

/-- The budget class of a host message (Table 18.5). -/
def InMsg.cls : InMsg → Option Nat
  | .append _ _ => some 1
  | .read _ _ _ => some 0
  | .write _ _ _ => some 1
  | .xlate _ _ _ => some 2
  | .readData _ _ _ _ => some 0
  | .writeDone _ _ => some 1
  | .cmd _ _ => some 1
  | .malformed _ => none
/-- Payload bytes of a host message (Table 18.5). -/
def InMsg.payload : InMsg → Nat
  | .append _ es => 64 * es.length
  | .read _ _ _ => 8
  | .write _ _ d => 8 + d.length
  | .xlate _ _ _ => 4
  | .readData _ _ _ d => d.length
  | .writeDone _ _ => 0
  | .cmd _ c => c.bytes
  | .malformed n => n
/-- The Type field (Table 18.5). -/
def InMsg.type : InMsg → Nat
  | .append _ _ => 0x01
  | .read _ _ _ => 0x03
  | .write _ _ _ => 0x05
  | .xlate _ _ _ => 0x07
  | .readData _ _ _ _ => 0x04
  | .writeDone _ _ => 0x06
  | .cmd _ _ => 0x0A
  | .malformed _ => 0xFF
/-- The Operand field (Table 18.5). -/
def InMsg.operand : InMsg → Nat
  | .append q es => q.toNat + 2 ^ 16 * es.length
  | .read va _ _ => va.toNat
  | .write va _ _ => va.toNat
  | .xlate va _ _ => va.toNat
  | .readData id st off _ => id.toNat + 2 ^ 32 * st.toNat + 2 ^ 40 * off.toNat
  | .writeDone id st => id.toNat + 2 ^ 32 * st.toNat
  | .cmd _ _ => 0
  | .malformed _ => 0
/-- The payload (Table 18.5), its reserved bits zero. -/
def InMsg.body : InMsg → List Byte
  | .append _ es => es.flatten
  | .read _ l id => leBytes 4 l.toNat ++ leBytes 4 id.toNat
  | .write _ id d => leBytes 4 id.toNat ++ leBytes 4 0 ++ d
  | .xlate _ n w => leBytes 4 (n.toNat + 2 ^ 16 * w.toNat)
  | .readData _ _ _ d => d
  | .writeDone _ _ => []
  | .cmd h c => leBytes 1 (Cmd.codeOf c) ++ leBytes 1 h.target.toNat ++ leBytes 2 0 ++ leBytes 4 h.id.toNat ++ c.operands
  | .malformed _ => []

/-- The UDP port of the device (R388). -/
def thtPort : BitVec 16 := 47130
/-- The 32 header bytes of a datagram (Table 18.4). -/
def hdrBytes (h : Hdr) : List Byte :=
  [h.version, h.type] ++ leBytes 2 h.len.toNat ++ leBytes 2 h.flow.toNat ++ leBytes 2 h.tag.toNat ++ leBytes 4 h.seq.toNat ++
    leBytes 4 h.ack.toNat ++ leBytes 8 h.sack.toNat ++ leBytes 8 h.operand.toNat
/-- The payload of a datagram under its flow's key, where its tag holds (R389). -/
def Flow.opens (f : Flow) (h : Hdr) : Option (List Byte) :=
  gcmOpen f.key (thtIv h.flow false (decide (h.type = 0)) (hdrBytes h)) (hdrBytes h) h.cipher h.mac
/-- A datagram of a type, with an operand and a payload. -/
def hdrHolds (h : Hdr) (f : Flow) (type operand : Nat) (body : List Byte) : Bool :=
  decide (h.type.toNat = type ∧ h.operand.toNat = operand ∧ h.len.toNat = body.length) && decide (f.opens h = some body)

/-- The payload limit of READ_DATA and WRITE on a port (R389). -/
def Port.dataLimit (p : Port) : Nat := if p.mtu = 9000 then 8192 else 1024

/-- Check 5 of R391: lengths and operands within what Table 18.5 gives. -/
def State.wellFormedMsg (s : State) (p : EthPort) : InMsg → Bool
  | .append _ es => es.all (fun e => decide (e.length = 64))
  | .read _ l _ => decide (4 ≤ l.toNat ∧ l.toNat ≤ 65536 ∧ l.toNat % 4 = 0)
  | .write _ _ d => decide (d ≠ [] ∧ 8 + d.length ≤ (s.port p).dataLimit)
  | .xlate v n _ => decide (v.toNat % 65536 = 0 ∧ 1 ≤ n.toNat ∧ n.toNat ≤ 64)
  | .readData _ _ _ d => decide (d.length ≤ (s.port p).dataLimit)
  | .writeDone _ _ => true
  | .cmd _ _ => true
  | .malformed _ => false
/-- Check 5: the datagram is a well-formed one of the message. -/
def State.goodForm (s : State) (f : Flow) (h : Hdr) (m : InMsg) : Bool :=
  s.wellFormedMsg h.port m && hdrHolds h f m.type m.operand m.body

/-! ### Host access to device memory (R395, R396) -/

/-- The pieces of a range up to page bounds: addresses with lengths. -/
def pagePieces (va : Word) (n : Nat) : List (Nat × Nat) :=
  if n = 0 then []
  else
    let first := va.toNat / 65536
    (List.range ((va.toNat + n - 1) / 65536 - first + 1)).map (fun i =>
      let lo := max va.toNat ((first + i) * 65536)
      (lo, min (va.toNat + n) ((first + i + 1) * 65536) - lo))

/-- A piece of an access of the host waits for a route to its home (R387). -/
def State.hostWaits (s : State) (n : Nat) (p : EthPort) (m : InMsg) : Bool :=
  let held (va : Word) (len : Nat) : Bool :=
    (pagePieces va len).any (fun q => decide (s.cutFrom (portDie p) n (BitVec.ofNat 64 q.1) = some false))
  if allDies.all (fun d => s.dieReach (portDie p) d) then false
  else match m with
    | .read va l _ => held va l.toNat
    | .write va _ d => held va d.length
    | _ => false

/-- The status of an access that stops at a piece: 2 in a host window, 1 for a fault, that of a home which has stayed without a route among
them (R387, R395, R397). -/
def State.hostPiece (s : State) (n : Nat) (p : EthPort) (a len : Nat) (k : AccKind) : Except Nat Nat × State :=
  let va : Word := BitVec.ofNat 64 a
  if a < 2 ^ 64 ∧ ((s.ctx n).hostWin va).isSome then (.error 2, s)
  else if 2 ^ 64 ≤ a ∨ s.cutFrom (portDie p) n va = some true then (.error 1, s)
  else
    match s.translate n (portDie p) none va k len with
    | (.error _, s) => (.error 1, s)
    | (.ok pa, s) => (.ok pa, s)

/-- A host read of pieces in increasing address: the bytes up to the first fault, and its status. -/
def State.hostRead (s : State) (n : Nat) (p : EthPort) : List (Nat × Nat) → List Byte × Nat × State
  | [] => ([], 0, s)
  | (a, len) :: r =>
    match s.hostPiece n p a len .read with
    | (.error e, s) => ([], e, s)
    | (.ok pa, s) =>
      let (bs, s) := s.getMem pa len
      let (rest, e, s) := State.hostRead s n p r
      (bs ++ rest, e, s)
/-- A host write of pieces: how many bytes were written, and the status. -/
def State.hostWrite (s : State) (n : Nat) (p : EthPort) : List (Nat × Nat) → List Byte → Nat × Nat × State
  | [], _ => (0, 0, s)
  | (a, len) :: r, bs =>
    match s.hostPiece n p a len .write with
    | (.error e, s) => (0, e, s)
    | (.ok pa, s) =>
      let (m, e, s) := State.hostWrite (s.putMem pa (bs.take len)) n p r (bs.drop len)
      (len + m, e, s)

/-- READ_DATA parts of some bytes, each within the limit. -/
def dataParts (limit : Nat) (bs : List Byte) : List (Nat × List Byte) :=
  (List.range ((bs.length + limit - 1) / limit)).map (fun i => (i * limit, (bs.drop (i * limit)).take limit))

/-- A READ applied: the bytes in parts with status 0; a stop is answered with its status at its offset. -/
def State.applyRead (s : State) (n : Nat) (p : EthPort) (f : BitVec 10) (va : Word) (len : Nat) (id : BitVec 32) : State :=
  let (bs, e, s) := s.hostRead n p (pagePieces va len)
  let s := (dataParts (s.port p).dataLimit bs).foldl (fun s d => s.send p f (.readData id 0 d.1 d.2)) s
  if e = 0 then s else s.send p f (.readData id (BitVec.ofNat 8 e) bs.length [])

/-- A WRITE applied; that of an exported context performs nothing (R456). -/
def State.applyWrite (s : State) (n : Nat) (p : EthPort) (f : BitVec 10) (va : Word) (id : BitVec 32) (data : List Byte) : State :=
  if (s.ctx n).exported then s.send p f (.writeDone id 3 0)
  else
    let (m, e, s) := s.hostWrite n p (pagePieces va data.length) data
    s.send p f (.writeDone id (BitVec.ofNat 8 e) (if e = 0 then 0 else m))

/-- The rights byte of a page for XLATE_RESP (R396): as the last-level TLB of the port's die and a walk find them, without fault. -/
def State.xlateByte (s : State) (n : Nat) (p : EthPort) (va : Word) : Byte :=
  let right (k : AccKind) : Option Xlat :=
    match tlbHit (s.die (portDie p)).ltlb (s.tagOf n) va k with
    | some e => some ⟨va.toNat - e.va + e.pa, e⟩
    | none =>
      match s.walk n va k with
      | .ok x => some x
      | .error _ => none
  let r := right .read
  let w := right .write
  let hostw := ((s.ctx n).hostWin va).isSome
  let win := match (if r.isSome then r else w) with
    | some x => decide ((s.frame (x.pa / frameBytes)).st = FrameSt.window)
    | none => false
  if va.toNat / 2 ^ 52 ≠ 0 then 0
  else if hostw then 8
  else BitVec.ofNat 8 (r.isSome.toNat + 2 * w.isSome.toNat + 4 * win.toNat)

/-- An XLATE applied: at most 64 watches of a context. -/
def State.applyXlate (s : State) (n : Nat) (p : EthPort) (f : BitVec 10) (va : Word) (pages : Nat) (watch : Bool) : State :=
  let bs := (List.range pages).map (fun i => s.xlateByte n p (va + BitVec.ofNat 64 (65536 * i)))
  let s := if watch ∧ (s.ctx n).watches.length < 64 then
      s.modCtx n (fun c => { c with watches := c.watches ++ [(va, pages, p, f)] })
    else s
  s.send p f (.xlateResp va bs)

/-- READ_DATA applied: the read chunk that it answers has performed, or with a status other than 0 has failed (R397). -/
def State.applyReadData (s : State) (p : EthPort) (f : BitVec 10) (id : BitVec 32) (status : BitVec 8) (data : List Byte) : State :=
  { s with hostReqs := s.hostReqs.map (fun r =>
      if r.id = id ∧ r.port = p ∧ r.flow = f ∧ !r.write ∧ r.got.isNone then
        (if status = 0 then { r with got := some data } else { r with failed := true })
      else r) }

/-! ### Applying in order (R391, R392) -/

/-- A message under an earlier generation is consumed and answered, not applied (R391). -/
def State.answerStale (s : State) (h : Hdr) : InMsg → State
  | .append _ _ => s.send h.port h.flow (.appendDone 1 0)
  | .read _ _ id => s.send h.port h.flow (.readData id 3 0 [])
  | .write _ id _ => s.send h.port h.flow (.writeDone id 3 0)
  | .xlate _ _ _ => s
  | .readData _ _ _ _ => s
  | .writeDone _ _ => s
  | .cmd c k => s.reply c (Cmd.codeOf k) 1
  | .malformed _ => if h.type = 1 then s.send h.port h.flow (.appendDone 1 0) else s

/-- A message applied for its flow's context. A WRITE_DONE adds nothing: the chunk has performed with the ACK that covers its WRITE
(R397). -/
def State.apply (s : State) (n : Nat) (h : Hdr) (m : InMsg) : State :=
  if h.tag ≠ s.tagOf n then s.answerStale h m
  else
    match m with
    | .append q es => s.applyAppend h q es
    | .read va len id => s.applyRead n h.port h.flow va len.toNat id
    | .write va id d => s.applyWrite n h.port h.flow va id d
    | .xlate va k w => s.applyXlate n h.port h.flow va k.toNat w
    | .readData id st _ d => s.applyReadData h.port h.flow id st d
    | .writeDone _ _ => s
    | .cmd c k => s.command c k
    | .malformed _ => s

/-- Messages received in order are applied while their class is below its cap (R49, R400) and their homes are in reach (R387). -/
def State.serve (p : EthPort) (no : BitVec 10) : Nat → State → State
  | 0, s => s
  | k + 1, s =>
    match s.flow p no with
    | none => s
    | some f =>
      match f.inq with
      | [] => s
      | (h, m) :: rest =>
        if !s.underCap p f.ctx m.cls || s.hostWaits f.ctx p m then s
        else
          let s := (s.countBytes p f.ctx m.cls m.payload).modFlow p no (fun f => { f with inq := rest })
          State.serve p no k (s.apply f.ctx h m)

/-! ### Sequences (R392, R393) -/

/-- FLOW_RENEW and the end of a flow's sequences (R393). -/
def State.checkSeqs (s : State) (p : EthPort) (no : BitVec 10) : State :=
  match s.flow p no with
  | none => s
  | some f =>
    if 0xFFFFFFFF ≤ f.tx ∨ 0xFFFFFFFF ≤ f.rx then s.loseFlow p no true
    else if (0xFFFFFFF0 ≤ f.tx ∨ 0xFFFFFFF0 ≤ f.rx) ∧ !f.renewed then
      (s.modFlow p no (fun f => { f with renewed := true })).event f.ctx 0x0B (evData [(16, leBytes 2 no.toNat)])
    else s

/-- The sequences that a SACK covers (Table 18.4). -/
def sackSeqs (ack : Nat) (sack : BitVec 64) : List Nat :=
  ((List.range 64).filter (fun b => sack.getLsbD b)).map (fun b => (ack + 2 + b) % 2 ^ 32)

/-- The acknowledgement of a header frees what it covers, and host writes that it covers have performed (R392, R397). The field is
the highest sequence received in order; before the first it is all ones. -/
def State.takeAck (s : State) (p : EthPort) (no : BitVec 10) (ack : BitVec 32) (sack : BitVec 64) : State :=
  match s.flow p no with
  | none => s
  | some f =>
    let a := ack.toNat
    let sacked := sackSeqs a sack
    if f.tx ≤ a then s.modFlow p no (fun f => { f with sacked := sacked })
    else
      let left := f.unacked.filter (fun o => decide (a < o.seq))
      let s := s.modFlow p no (fun f => { f with
        unacked := left, sacked := sacked, retries := if left.length < f.unacked.length then 0 else f.retries })
      let wrote (id : BitVec 32) : Bool := f.unacked.any (fun o => decide (o.seq ≤ a) && (match o.msg with
        | .writeReq _ i _ => decide (i = id)
        | _ => false))
      { s with hostReqs := s.hostReqs.map (fun r =>
          if r.port = p ∧ r.flow = no ∧ r.write ∧ wrote r.id then { r with done := true } else r) }

/-- Bytes that a context holds in a port's inbound share (R49). -/
def State.shareUsed (s : State) (p : EthPort) (n : Nat) : Nat :=
  ((s.flows.filter (fun f => decide (f.port = p ∧ f.ctx = n))).map (fun f =>
    (f.held.map (fun m => m.2.2.payload)).sum + (f.inq.map (fun m => m.2.payload)).sum)).sum

/-- Messages held past a gap that now follow in order join those to apply. -/
def Flow.pull : Nat → Flow → Flow
  | 0, f => f
  | n + 1, f =>
    match f.held.find? (fun m => decide (m.1 = f.rx)) with
    | none => f
    | some m => Flow.pull n { f with rx := f.rx + 1, inq := f.inq ++ [m.2]
                                     held := f.held.filter (fun q => decide (q.1 ≠ m.1)) }

/-- A message whose sequence is new: applied in order or held past a gap; either awaits an acknowledgement. -/
def State.acceptMsg (s : State) (h : Hdr) (m : InMsg) : State :=
  let s := s.modFlow h.port h.flow (fun f =>
    if h.seq.toNat = f.rx then Flow.pull f.held.length { f with rx := f.rx + 1, inq := f.inq ++ [(h, m)], pendAck := f.pendAck + 1 }
    else { f with held := f.held ++ [(h.seq.toNat, h, m)], pendAck := f.pendAck + 1 })
  let k := ((s.flow h.port h.flow).map (fun f => f.inq.length)).getD 0
  let s := State.serve h.port h.flow k s
  let s := match s.flow h.port h.flow with
    | some f => if 16 ≤ f.pendAck then s.send h.port h.flow .ack else s
    | none => s
  s.checkSeqs h.port h.flow

/-- A datagram dropped and counted (R391). -/
def State.countError (s : State) (p : EthPort) : State := s.modPort p (fun q => { q with errors := q.errors + 1 })

/-- The tag is that of an earlier generation of a context since boot (R33, R391). -/
def State.earlier (s : State) (n : Nat) (t : Tag) : Bool :=
  let c := s.ctx n
  let back := (c.gen.toNat + 511 - (t.extractLsb' 7 9).toNat) % 511
  decide (n ≠ 0 ∧ tagCtx t = n ∧ t.extractLsb' 7 9 ≠ 0 ∧ 1 ≤ back ∧ back + 1 ≤ c.gens)

/-- The flow that a datagram belongs to, after checks 1 to 4 of R391, or none with the error counted. -/
def State.screen (s : State) (h : Hdr) : Option Flow × State :=
  if (s.link (18 + (portIx h.port).val)).st ≠ .up then (none, s)
  else
    match s.flow h.port h.flow with
    | none => (none, s.countError h.port)
    | some f =>
      if h.dst ≠ thtPort ∨ h.version ≠ 1 ∨ f.ip ≠ h.ip ∨ f.udp ≠ h.udp ∨ (f.opens h).isNone then (none, s.countError h.port)
      else if h.tag = s.tagOf f.ctx ∨ s.earlier f.ctx h.tag then (some f, s)
      else (none, s.countError h.port)

/-- A message arrives (R391, R392). The form is asked of a message of the current generation only: one of an earlier generation is
consumed. One past the window or with no room in the share (R49) is dropped, and what is dropped or received before has no other effect. -/
def State.receive (s : State) (h : Hdr) (m : InMsg) : State :=
  match s.screen h with
  | (none, s) => s
  | (some f, s) =>
    if h.tag = s.tagOf f.ctx ∧ s.goodForm f h m = false then s.countError h.port
    else
      let q := h.seq.toNat
      if q < f.rx ∨ f.held.any (fun m => decide (m.1 = q)) then s.send h.port h.flow .ack
      else if f.rx + 64 ≤ q ∨ 262144 < s.shareUsed h.port f.ctx + m.payload then s
      else (s.takeAck h.port h.flow h.ack h.sack).acceptMsg h m

/-- A command arrives. -/
def State.receiveCmd (s : State) (h : CmdHdr) (c : Cmd) : State := s.receive h.hdr (.cmd h c)

/-! ### The rows of Table 18.5 -/

def execAppend (h : Hdr) (queue : BitVec 16) (entries : List (List Byte)) (s : State) : Host.Outcome State Fault Refusal :=
  .next (s.receive h (.append queue entries))
def execRead (h : Hdr) (va : Word) (len id : BitVec 32) (s : State) : Host.Outcome State Fault Refusal :=
  .next (s.receive h (.read va len id))
def execWrite (h : Hdr) (va : Word) (id : BitVec 32) (data : List Byte) (s : State) : Host.Outcome State Fault Refusal :=
  .next (s.receive h (.write va id data))
def execXlate (h : Hdr) (va : Word) (pages : BitVec 16) (watch : Bool) (s : State) : Host.Outcome State Fault Refusal :=
  .next (s.receive h (.xlate va pages watch))
def execReadData (h : Hdr) (id : BitVec 32) (status : BitVec 8) (off : BitVec 24) (data : List Byte) (s : State) :
    Host.Outcome State Fault Refusal := .next (s.receive h (.readData id status off data))
def execWriteDone (h : Hdr) (id : BitVec 32) (status : BitVec 8) (s : State) : Host.Outcome State Fault Refusal :=
  .next (s.receive h (.writeDone id status))
/-- CMD: of a code that no table defines (R37). -/
def execCmd (h : CmdHdr) (code : BitVec 8) (s : State) : Host.Outcome State Fault Refusal := .next (s.receiveCmd h (.unknown code))

/-- ACK (R392): it takes no sequence and only acknowledges. -/
def execAck (h : Hdr) (s : State) : Host.Outcome State Fault Refusal :=
  .next (match s.screen h with
    | (none, s) => s
    | (some f, s) =>
      if h.tag ≠ s.tagOf f.ctx then s
      else if hdrHolds h f 0 0 [] then s.takeAck h.port h.flow h.ack h.sack
      else s.countError h.port)

/-- ACK_TIMER (R392): messages received since the last acknowledgement are acknowledged. -/
def execAckTimer (port : EthPort) (flow : BitVec 10) (s : State) : Host.Outcome State Fault Refusal :=
  .next (match s.flow port flow with
    | some f => if f.pendAck = 0 then s else s.send port flow .ack
    | none => s)

/-- THT_RETRANSMIT (R388, R392, R393): the messages neither acknowledged nor covered by SACK are sent again in order, under the flow's
present tag; after 12 times the flow is lost. Retransmissions are not counted (R400). -/
def execThtRetransmit (port : EthPort) (flow : BitVec 10) (s : State) : Host.Outcome State Fault Refusal :=
  .next (match s.flow port flow with
    | none => s
    | some f =>
      let left := f.unacked.filter (fun o => !f.sacked.contains o.seq)
      if left.isEmpty then s
      else if 12 ≤ f.retries then s.loseFlow port flow true
      else
        let again := left.map (fun o =>
          { o with tag := s.tagOf f.ctx, ack := f.ackField, sack := sackBits f.rx (f.held.map Prod.fst) })
        ({ s with out := s.out ++ again }).modFlow port flow (fun f => { f with retries := f.retries + 1, pendAck := 0 }))

/-- EVENT_RETRY (R59): events that could not be delivered are tried again, in order. -/
def execEventRetry (ctx : CtxNo) (s : State) : Host.Outcome State Fault Refusal :=
  let n := ctx.toNat
  let es := (s.ctx n).events
  .next (es.foldl (fun s e => s.deliverEvent n e) (s.modCtx n (fun c => { c with events := [] })))

/-- MALFORMED_MESSAGE (R391): a datagram that is no well-formed one of any type: dropped and counted, unless it passes checks 1 to 3 under the
tag of an earlier generation, which consumes its sequence. -/
def execMalformedMessage (h : Hdr) (s : State) : Host.Outcome State Fault Refusal := .next (s.receive h (.malformed h.cipher.length))

/-! ### Budget windows (R48, R49) -/

/-- The tier in which a context's message is served: the system context, below its minimum, the rest. -/
def State.tier (s : State) (p : EthPort) (n : Nat) (cls : Option Nat) : Nat :=
  match cls with
  | none => 0
  | some k => if n = 0 then 0 else if s.usedBytes p n k < (s.inForce p n).getD (2 * k) 0 then 1 else 2

/-- The order in which contexts take their turns after the one served last (R49). -/
def turnsAfter (n : Nat) : List Nat := (List.range 65).map (fun i => (n + 1 + i) % 65)
/-- The place of the turn of a direction (0 out, 1 in) and class. -/
def turnIx (dir : Nat) (cls : Option Nat) : Nat := 3 * dir + cls.getD 0

/-- What a port serves next (R49) of the contexts and classes that wait: tier by tier, the contexts of a class in turn; one at its cap is
not served. Among the classes of a tier the order is the model's (log 125). -/
def State.nextServed (s : State) (p : EthPort) (dir : Nat) (ws : List (Nat × Option Nat)) : Option (Nat × Option Nat) :=
  [0, 1, 2].findSome? (fun t => [none, some 0, some 1, some 2].findSome? (fun k =>
    ((turnsAfter (((s.port p).turns[turnIx dir k]?).getD 64)).find? (fun n =>
      ws.contains (n, k) && decide (s.tier p n k = t) && s.underCap p n k)).map (fun n => (n, k))))
/-- A context has been served. -/
def State.tookTurn (s : State) (p : EthPort) (dir : Nat) (w : Nat × Option Nat) : State :=
  s.modPort p (fun q => { q with turns := q.turns.set! (turnIx dir w.2) w.1 })

/-- The context and class of a message that waits to leave. -/
def State.outKey (s : State) (o : WaitMsg) : Nat × Option Nat := (((s.flow o.port o.flow).map (fun f => f.ctx)).getD 0, o.msg.cls)

/-- A message that waited leaves with its parts. -/
def State.sendParts (s : State) (o : WaitMsg) : State := (o.msg :: o.rest).foldl (fun s m => s.transmit o.port o.flow m) s
/-- Messages that wait at the device leave, one opportunity after another (R49, R400). -/
def State.flushOut (p : EthPort) : Nat → State → State
  | 0, s => s
  | k + 1, s =>
    let mine := s.waitOut.filter (fun o => decide (o.port = p))
    match s.nextServed p 0 (mine.map s.outKey) with
    | none => s
    | some w =>
      match mine.find? (fun o => decide (s.outKey o = w)) with
      | none => s
      | some o => State.flushOut p k ((({ s with waitOut := s.waitOut.erase o } : State).tookTurn p 0 w).sendParts o)

/-- The context and class of the message that a flow would have applied next. -/
def Flow.inKey (f : Flow) : Nat × Option Nat := (f.ctx, (f.inq.head?.map (fun m => m.2.cls)).getD none)

/-- Messages received on a port's flows are applied, one opportunity after another (R49). -/
def State.serveAll (p : EthPort) : Nat → State → State
  | 0, s => s
  | k + 1, s =>
    let fs := s.flows.filter (fun f => decide (f.port = p) && !f.inq.isEmpty)
    match s.nextServed p 1 (fs.map Flow.inKey) with
    | none => s
    | some w =>
      match fs.find? (fun f => decide (f.inKey = w)) with
      | none => s
      | some f => State.serveAll p k (State.serve p f.no 1 (s.tookTurn p 1 w))

/-- Messages that wait on a port. -/
def State.waitingIn (s : State) (p : EthPort) : Nat := ((s.flows.filter (fun f => decide (f.port = p))).map (fun f => f.inq.length)).sum

/-- A capacity whose boundary has come is the one in force; the others come a boundary nearer. -/
def Port.boundary (q : Port) : Port :=
  { q with cap := (((q.capNext.filter (fun e => decide (e.1 ≤ 1))).getLast?).map Prod.snd).getD q.cap
           capNext := (q.capNext.filter (fun e => decide (1 < e.1))).map (fun e => (e.1 - 1, e.2)) }

/-- BUDGET_WINDOW (R35, R48, R51): the counts restart, the budgets as configured take effect with their minima enforced, and what waited is
served. -/
def execBudgetWindow (port : EthPort) (s : State) : Host.Outcome State Fault Refusal :=
  let s := s.modPort port (fun q => { q.boundary with used := [] })
  let s := s.modPort port (fun q => { q with minima := s.boundCtxs.map (fun n => (n, s.budgetAt port q.cap n)) })
  let s := State.flushOut port s.waitOut.length ({ s with errSent := [] } : State)
  .next (State.serveAll port (s.waitingIn port) s)

end Sys2Proof.Machine
end

