-- ==== Sys2Proof/Machine/Commands.lean ====
section
/-! DEFINITION. The management commands as they arrive (Tables 2.3, 3.1, 4.3, 17.2, 18.6, 20.3, 26.3): each is a CMD message of THT, which
its checks, its turn and its act then govern (R37, R391). -/

namespace Sys2Proof.Machine

def execCtxCreate (h : CmdHdr) (s : State) : Host.Outcome State Fault Refusal :=
  .next (s.receiveCmd h .ctxCreate)
def execCtxWrite (h : CmdHdr) (image : List Byte) (s : State) : Host.Outcome State Fault Refusal :=
  .next (s.receiveCmd h (.ctxWrite image))
def execCtxRead (h : CmdHdr) (s : State) : Host.Outcome State Fault Refusal :=
  .next (s.receiveCmd h .ctxRead)
def execCtxBind (h : CmdHdr) (s : State) : Host.Outcome State Fault Refusal :=
  .next (s.receiveCmd h .ctxBind)
def execCtxLull (h : CmdHdr) (s : State) : Host.Outcome State Fault Refusal :=
  .next (s.receiveCmd h .ctxLull)
def execCtxThaw (h : CmdHdr) (s : State) : Host.Outcome State Fault Refusal :=
  .next (s.receiveCmd h .ctxThaw)
def execCtxReset (h : CmdHdr) (s : State) : Host.Outcome State Fault Refusal :=
  .next (s.receiveCmd h .ctxReset)
def execCtxDestroy (h : CmdHdr) (s : State) : Host.Outcome State Fault Refusal :=
  .next (s.receiveCmd h .ctxDestroy)
def execCtxMigrate (h : CmdHdr) (s : State) : Host.Outcome State Fault Refusal :=
  .next (s.receiveCmd h .ctxMigrate)
def execCtxMigrateAbort (h : CmdHdr) (s : State) : Host.Outcome State Fault Refusal :=
  .next (s.receiveCmd h .ctxMigrateAbort)
def execCtxDirty (h : CmdHdr) (first : BitVec 64) (count : BitVec 32) (s : State) : Host.Outcome State Fault Refusal :=
  .next (s.receiveCmd h (.ctxDirty first count))
def execCtxExport (h : CmdHdr) (handle : BitVec 8) (s : State) : Host.Outcome State Fault Refusal :=
  .next (s.receiveCmd h (.ctxExport handle))
def execCtxImport (h : CmdHdr) (handle : BitVec 8) (s : State) : Host.Outcome State Fault Refusal :=
  .next (s.receiveCmd h (.ctxImport handle))
def execCtxRelease (h : CmdHdr) (s : State) : Host.Outcome State Fault Refusal :=
  .next (s.receiveCmd h .ctxRelease)
def execMkeySet (h : CmdHdr) (handle : BitVec 8) (key : BitVec 256) (buf : Word) (len : Word) (part : BitVec 8) (sroot : Word)
    (s : State) : Host.Outcome State Fault Refusal :=
  .next (s.receiveCmd h (.mkeySet handle key buf len part sroot))
def execWinGrant (h : CmdHdr) (base : Word) (len : Word) (peer : Tag) (s : State) : Host.Outcome State Fault Refusal :=
  .next (s.receiveCmd h (.winGrant base len peer))
def execWinAccept (h : CmdHdr) (handle : BitVec 32) (base : Word) (s : State) : Host.Outcome State Fault Refusal :=
  .next (s.receiveCmd h (.winAccept handle base))
def execWinRevoke (h : CmdHdr) (handle : BitVec 32) (s : State) : Host.Outcome State Fault Refusal :=
  .next (s.receiveCmd h (.winRevoke handle))
def execQueueOpen (h : CmdHdr) (queue : BitVec 16) (kind : BitVec 8) (ring : Word) (k : BitVec 8) (prio : BitVec 8)
    (home : BitVec 8) (s : State) : Host.Outcome State Fault Refusal :=
  .next (s.receiveCmd h (.queueOpen queue kind ring k prio home))
def execQueueClose (h : CmdHdr) (queue : BitVec 16) (s : State) : Host.Outcome State Fault Refusal :=
  .next (s.receiveCmd h (.queueClose queue))
def execQueueSetprio (h : CmdHdr) (queue : BitVec 16) (prio : BitVec 8) (s : State) : Host.Outcome State Fault Refusal :=
  .next (s.receiveCmd h (.queueSetprio queue prio))
def execQueueResume (h : CmdHdr) (queue : BitVec 16) (mode : BitVec 8) (s : State) : Host.Outcome State Fault Refusal :=
  .next (s.receiveCmd h (.queueResume queue mode))
def execQueueRead (h : CmdHdr) (queue : BitVec 16) (s : State) : Host.Outcome State Fault Refusal :=
  .next (s.receiveCmd h (.queueRead queue))
def execQueueConsume (h : CmdHdr) (queue : BitVec 16) (count : Word) (s : State) : Host.Outcome State Fault Refusal :=
  .next (s.receiveCmd h (.queueConsume queue count))
def execFcRead (h : CmdHdr) (first : BitVec 16) (count : BitVec 16) (s : State) : Host.Outcome State Fault Refusal :=
  .next (s.receiveCmd h (.fcRead first count))
def execKernelLoad (h : CmdHdr) (image : Word) (len : BitVec 32) (code : Word) (range : Word)
    (s : State) : Host.Outcome State Fault Refusal :=
  .next (s.receiveCmd h (.kernelLoad image len code range))
def execKernelUnload (h : CmdHdr) (handle : BitVec 32) (s : State) : Host.Outcome State Fault Refusal :=
  .next (s.receiveCmd h (.kernelUnload handle))
def execKernelQuery (h : CmdHdr) (handle : BitVec 32) (s : State) : Host.Outcome State Fault Refusal :=
  .next (s.receiveCmd h (.kernelQuery handle))
def execCodekeySet (h : CmdHdr) (slot : BitVec 8) (key : BitVec 384) (mask : BitVec 64)
    (s : State) : Host.Outcome State Fault Refusal :=
  .next (s.receiveCmd h (.codekeySet slot key mask))
def execPageBind (h : CmdHdr) (pa : Word) (count : BitVec 32) (tag : Tag) (s : State) : Host.Outcome State Fault Refusal :=
  .next (s.receiveCmd h (.pageBind pa count tag))
def execPageUnbind (h : CmdHdr) (pa : Word) (count : BitVec 32) (s : State) : Host.Outcome State Fault Refusal :=
  .next (s.receiveCmd h (.pageUnbind pa count))
def execPageRetire (h : CmdHdr) (pa : Word) (count : BitVec 32) (s : State) : Host.Outcome State Fault Refusal :=
  .next (s.receiveCmd h (.pageRetire pa count))
def execPageQuery (h : CmdHdr) (pa : Word) (s : State) : Host.Outcome State Fault Refusal :=
  .next (s.receiveCmd h (.pageQuery pa))
def execTlbInval (h : CmdHdr) (tag : Tag) (va : Word) (len : Word) (s : State) : Host.Outcome State Fault Refusal :=
  .next (s.receiveCmd h (.tlbInval tag va len))
def execFaultRing (h : CmdHdr) (pa : Word) (k : BitVec 8) (s : State) : Host.Outcome State Fault Refusal :=
  .next (s.receiveCmd h (.faultRing pa k))
def execFaultAnswer (h : CmdHdr) (seq : Word) (act : AnswerAct) (s : State) : Host.Outcome State Fault Refusal :=
  .next (s.receiveCmd h (.faultAnswer seq act))
def execPageExport (h : CmdHdr) (handle : BitVec 8) (tag : Tag) (pa : Word) (count : BitVec 32) (out : Word)
    (s : State) : Host.Outcome State Fault Refusal :=
  .next (s.receiveCmd h (.pageExport handle tag pa count out))
def execPageImport (h : CmdHdr) (handle : BitVec 8) (pa : Word) (blob : Word) (s : State) : Host.Outcome State Fault Refusal :=
  .next (s.receiveCmd h (.pageImport handle pa blob))
def execFlowOpen (h : CmdHdr) (port : EthPort) (flow : BitVec 16) (tag : Tag) (ip : BitVec 128) (udp : BitVec 16)
    (key : BitVec 256) (s : State) : Host.Outcome State Fault Refusal :=
  .next (s.receiveCmd h (.flowOpen port flow tag ip udp key))
def execFlowClose (h : CmdHdr) (port : EthPort) (flow : BitVec 16) (s : State) : Host.Outcome State Fault Refusal :=
  .next (s.receiveCmd h (.flowClose port flow))
def execHwinSet (h : CmdHdr) (win : BitVec 8) (base : Word) (len : Word) (port : EthPort) (flow : BitVec 16) (hbase : Word)
    (s : State) : Host.Outcome State Fault Refusal :=
  .next (s.receiveCmd h (.hwinSet win base len port flow hbase))
def execSpanSet (h : CmdHdr) (mask : BitVec 64) (tags : List Tag) (s : State) : Host.Outcome State Fault Refusal :=
  .next (s.receiveCmd h (.spanSet mask tags))
def execLinkQuery (h : CmdHdr) (l : LinkId) (s : State) : Host.Outcome State Fault Refusal :=
  .next (s.receiveCmd h (.linkQuery l))
def execLinkRetire (h : CmdHdr) (l : LinkId) (s : State) : Host.Outcome State Fault Refusal :=
  .next (s.receiveCmd h (.linkRetire l))
def execSpanGen (h : CmdHdr) (member : BitVec 8) (tag : Tag) (s : State) : Host.Outcome State Fault Refusal :=
  .next (s.receiveCmd h (.spanGen member tag))
def execFwLoad (h : CmdHdr) (image : Word) (len : BitVec 32) (s : State) : Host.Outcome State Fault Refusal :=
  .next (s.receiveCmd h (.fwLoad image len))
def execFwCommit (h : CmdHdr) (component : BitVec 8) (value : BitVec 8) (s : State) : Host.Outcome State Fault Refusal :=
  .next (s.receiveCmd h (.fwCommit component value))
def execCapRead (h : CmdHdr) (s : State) : Host.Outcome State Fault Refusal :=
  .next (s.receiveCmd h .capRead)
def execPowerSet (h : CmdHdr) (kind : BitVec 8) (index : BitVec 8) (mw : BitVec 32)
    (s : State) : Host.Outcome State Fault Refusal :=
  .next (s.receiveCmd h (.powerSet kind index mw))

end Sys2Proof.Machine
end

