-- ==== Sys2Proof/Machine/Dispatch.lean ====
section
/-! DEFINITION. The dispatch of the machine: one arm per constructor, each one direct call of a meaning. -/

namespace Sys2Proof.Machine

def exec (i : Instr) (s : State) : Host.Outcome State Fault Refusal :=
  match i with
  | .nop => Sys2Proof.Machine.execNop s
  | .add d a b l => Sys2Proof.Machine.execAdd d a b l s
  | .sub d a b l => Sys2Proof.Machine.execSub d a b l s
  | .and d a b l => Sys2Proof.Machine.execAnd d a b l s
  | .or d a b l => Sys2Proof.Machine.execOr d a b l s
  | .xor d a b l => Sys2Proof.Machine.execXor d a b l s
  | .andn d a b l => Sys2Proof.Machine.execAndn d a b l s
  | .shl d a b l => Sys2Proof.Machine.execShl d a b l s
  | .shr d a b l => Sys2Proof.Machine.execShr d a b l s
  | .sar d a b l => Sys2Proof.Machine.execSar d a b l s
  | .rot d a b l => Sys2Proof.Machine.execRot d a b l s
  | .min d a b l => Sys2Proof.Machine.execMin d a b l s
  | .max d a b l => Sys2Proof.Machine.execMax d a b l s
  | .minu d a b l => Sys2Proof.Machine.execMinu d a b l s
  | .maxu d a b l => Sys2Proof.Machine.execMaxu d a b l s
  | .slt d a b l => Sys2Proof.Machine.execSlt d a b l s
  | .sltu d a b l => Sys2Proof.Machine.execSltu d a b l s
  | .seq d a b l => Sys2Proof.Machine.execSeq d a b l s
  | .mul d a b l => Sys2Proof.Machine.execMul d a b l s
  | .mulh d a b l => Sys2Proof.Machine.execMulh d a b l s
  | .mulhu d a b l => Sys2Proof.Machine.execMulhu d a b l s
  | .div d a b l => Sys2Proof.Machine.execDiv d a b l s
  | .divu d a b l => Sys2Proof.Machine.execDivu d a b l s
  | .rem d a b l => Sys2Proof.Machine.execRem d a b l s
  | .remu d a b l => Sys2Proof.Machine.execRemu d a b l s
  | .sel d a b l u => Sys2Proof.Machine.execSel d a b l u s
  | .clz d a w => Sys2Proof.Machine.execClz d a w s
  | .ctz d a w => Sys2Proof.Machine.execCtz d a w s
  | .ffs d a w => Sys2Proof.Machine.execFfs d a w s
  | .popc d a w => Sys2Proof.Machine.execPopc d a w s
  | .brev d a w => Sys2Proof.Machine.execBrev d a w s
  | .bext d a b l w => Sys2Proof.Machine.execBext d a b l w s
  | .bins d a b l w => Sys2Proof.Machine.execBins d a b l w s
  | .kand d a b => Sys2Proof.Machine.execKand d a b s
  | .kor d a b => Sys2Proof.Machine.execKor d a b s
  | .kxor d a b => Sys2Proof.Machine.execKxor d a b s
  | .knot d a => Sys2Proof.Machine.execKnot d a s
  | .kmovKK d a => Sys2Proof.Machine.execKmovKK d a s
  | .kmovKX d a => Sys2Proof.Machine.execKmovKX d a s
  | .kmovXK d a => Sys2Proof.Machine.execKmovXK d a s
  | .kpopc d a => Sys2Proof.Machine.execKpopc d a s
  | .kfirst d a => Sys2Proof.Machine.execKfirst d a s
  | .addi d a imm => Sys2Proof.Machine.execAddi d a imm s
  | .andi d a imm => Sys2Proof.Machine.execAndi d a imm s
  | .ori d a imm => Sys2Proof.Machine.execOri d a imm s
  | .xori d a imm => Sys2Proof.Machine.execXori d a imm s
  | .shli d a imm => Sys2Proof.Machine.execShli d a imm s
  | .shri d a imm => Sys2Proof.Machine.execShri d a imm s
  | .sari d a imm => Sys2Proof.Machine.execSari d a imm s
  | .li d imm => Sys2Proof.Machine.execLi d imm s
  | .bEq a b o => Sys2Proof.Machine.execBEq a b o s
  | .bNe a b o => Sys2Proof.Machine.execBNe a b o s
  | .bLt a b o => Sys2Proof.Machine.execBLt a b o s
  | .bGe a b o => Sys2Proof.Machine.execBGe a b o s
  | .bLtu a b o => Sys2Proof.Machine.execBLtu a b o s
  | .bGeu a b o => Sys2Proof.Machine.execBGeu a b o s
  | .j o => Sys2Proof.Machine.execJ o s
  | .call o => Sys2Proof.Machine.execCall o s
  | .ret a => Sys2Proof.Machine.execRet a s
  | .loop a o => Sys2Proof.Machine.execLoop a o s
  | .csrr d c => Sys2Proof.Machine.execCsrr d c s
  | .csrw a c => Sys2Proof.Machine.execCsrw a c s
  | .csrs a c => Sys2Proof.Machine.execCsrs a c s
  | .csrc a c => Sys2Proof.Machine.execCsrc a c s
  | .setfmt a => Sys2Proof.Machine.execSetfmt a s
  | .setshape d a b => Sys2Proof.Machine.execSetshape d a b s
  | .settile d a => Sys2Proof.Machine.execSettile d a s
  | .seed a => Sys2Proof.Machine.execSeed a s
  | .trap n => Sys2Proof.Machine.execTrap n s
  | .eret => Sys2Proof.Machine.execEret s
  | .csync => Sys2Proof.Machine.execCsync s
  | .bara n => Sys2Proof.Machine.execBara n s
  | .barw n => Sys2Proof.Machine.execBarw n s
  | .fwait a u l n => Sys2Proof.Machine.execFwait a u l n s
  | .exit => Sys2Proof.Machine.execExit s
  | .nullBundle x r u => Sys2Proof.Machine.execNullBundle x r u s
  | .ldB d b p o => Sys2Proof.Machine.execLdB d b p o s
  | .ldH d b p o => Sys2Proof.Machine.execLdH d b p o s
  | .ldW d b p o => Sys2Proof.Machine.execLdW d b p o s
  | .ldD d b p o => Sys2Proof.Machine.execLdD d b p o s
  | .ldBu d b p o => Sys2Proof.Machine.execLdBu d b p o s
  | .ldHu d b p o => Sys2Proof.Machine.execLdHu d b p o s
  | .ldWu d b p o => Sys2Proof.Machine.execLdWu d b p o s
  | .stB u b p o => Sys2Proof.Machine.execStB u b p o s
  | .stH u b p o => Sys2Proof.Machine.execStH u b p o s
  | .stW u b p o => Sys2Proof.Machine.execStW u b p o s
  | .stD u b p o => Sys2Proof.Machine.execStD u b p o s
  | .ldgB d b o => Sys2Proof.Machine.execLdgB d b o s
  | .ldgH d b o => Sys2Proof.Machine.execLdgH d b o s
  | .ldgW d b o => Sys2Proof.Machine.execLdgW d b o s
  | .ldgD d b o => Sys2Proof.Machine.execLdgD d b o s
  | .ldgBu d b o => Sys2Proof.Machine.execLdgBu d b o s
  | .ldgHu d b o => Sys2Proof.Machine.execLdgHu d b o s
  | .ldgWu d b o => Sys2Proof.Machine.execLdgWu d b o s
  | .stgB u b o => Sys2Proof.Machine.execStgB u b o s
  | .stgH u b o => Sys2Proof.Machine.execStgH u b o s
  | .stgW u b o => Sys2Proof.Machine.execStgW u b o s
  | .stgD u b o => Sys2Proof.Machine.execStgD u b o s
  | .qfill q b p o => Sys2Proof.Machine.execQfill q b p o s
  | .qfillt q b p o => Sys2Proof.Machine.execQfillt q b p o s
  | .qfillg q b o => Sys2Proof.Machine.execQfillg q b o s
  | .qfillgFf q b c => Sys2Proof.Machine.execQfillgFf q b c s
  | .vld r b o => Sys2Proof.Machine.execVld r b o s
  | .vst r b p o => Sys2Proof.Machine.execVst r b p o s
  | .send d b o => Sys2Proof.Machine.execSend d b o s
  | .recv d b o => Sys2Proof.Machine.execRecv d b o s
  | .amoAdd d b u o c w => Sys2Proof.Machine.execAmoAdd d b u o c w s
  | .amoMin d b u o c w => Sys2Proof.Machine.execAmoMin d b u o c w s
  | .amoMax d b u o c w => Sys2Proof.Machine.execAmoMax d b u o c w s
  | .amoXchg d b u o c w => Sys2Proof.Machine.execAmoXchg d b u o c w s
  | .amoAnd d b u o c w => Sys2Proof.Machine.execAmoAnd d b u o c w s
  | .amoOr d b u o c w => Sys2Proof.Machine.execAmoOr d b u o c w s
  | .amoCas d b u f o c w => Sys2Proof.Machine.execAmoCas d b u f o c w s
  | .amoscAdd d b u w => Sys2Proof.Machine.execAmoscAdd d b u w s
  | .amoscMin d b u w => Sys2Proof.Machine.execAmoscMin d b u w s
  | .amoscMax d b u w => Sys2Proof.Machine.execAmoscMax d b u w s
  | .amoscXchg d b u w => Sys2Proof.Machine.execAmoscXchg d b u w s
  | .amoscAnd d b u w => Sys2Proof.Machine.execAmoscAnd d b u w s
  | .amoscOr d b u w => Sys2Proof.Machine.execAmoscOr d b u w s
  | .amoscCas d b u w => Sys2Proof.Machine.execAmoscCas d b u w s
  | .fenceAcq c => Sys2Proof.Machine.execFenceAcq c s
  | .fenceRel c => Sys2Proof.Machine.execFenceRel c s
  | .fenceAcqrel c => Sys2Proof.Machine.execFenceAcqrel c s
  | .fenceSc => Sys2Proof.Machine.execFenceSc s
  | .pref b o => Sys2Proof.Machine.execPref b o s
  | .rk a b t => Sys2Proof.Machine.execRk a b t s
  | .rks a b t m n => Sys2Proof.Machine.execRks a b t m n s
  | .rka a b t m n => Sys2Proof.Machine.execRka a b t m n s
  | .rkn a b t => Sys2Proof.Machine.execRkn a b t s
  | .gzero t => Sys2Proof.Machine.execGzero t s
  | .gcopy t u => Sys2Proof.Machine.execGcopy t u s
  | .gxpose => Sys2Proof.Machine.execGxpose s
  | .gscaleQs t m => Sys2Proof.Machine.execGscaleQs t m s
  | .gscaleLiteral t => Sys2Proof.Machine.execGscaleLiteral t s
  | .mpop a b p => Sys2Proof.Machine.execMpop a b p s
  | .vadd d a b m => Sys2Proof.Machine.execVadd d a b m s
  | .vsub d a b m => Sys2Proof.Machine.execVsub d a b m s
  | .vmul d a b m => Sys2Proof.Machine.execVmul d a b m s
  | .vfma d a b m => Sys2Proof.Machine.execVfma d a b m s
  | .vfms d a b m => Sys2Proof.Machine.execVfms d a b m s
  | .vfnma d a b m => Sys2Proof.Machine.execVfnma d a b m s
  | .vmin d a b m => Sys2Proof.Machine.execVmin d a b m s
  | .vmax d a b m => Sys2Proof.Machine.execVmax d a b m s
  | .vabs d a m => Sys2Proof.Machine.execVabs d a m s
  | .vneg d a m => Sys2Proof.Machine.execVneg d a m s
  | .vcpys d a b m => Sys2Proof.Machine.execVcpys d a b m s
  | .viadd d a b m => Sys2Proof.Machine.execViadd d a b m s
  | .visub d a b m => Sys2Proof.Machine.execVisub d a b m s
  | .vimul d a b m => Sys2Proof.Machine.execVimul d a b m s
  | .vimulh d a b m => Sys2Proof.Machine.execVimulh d a b m s
  | .vimin d a b m => Sys2Proof.Machine.execVimin d a b m s
  | .vimax d a b m => Sys2Proof.Machine.execVimax d a b m s
  | .vand d a b m => Sys2Proof.Machine.execVand d a b m s
  | .vor d a b m => Sys2Proof.Machine.execVor d a b m s
  | .vxor d a b m => Sys2Proof.Machine.execVxor d a b m s
  | .vshl d a b m => Sys2Proof.Machine.execVshl d a b m s
  | .vshr d a b m => Sys2Proof.Machine.execVshr d a b m s
  | .vsar d a b m => Sys2Proof.Machine.execVsar d a b m s
  | .vcmpEq k a b m => Sys2Proof.Machine.execVcmpEq k a b m s
  | .vcmpNe k a b m => Sys2Proof.Machine.execVcmpNe k a b m s
  | .vcmpLt k a b m => Sys2Proof.Machine.execVcmpLt k a b m s
  | .vcmpLe k a b m => Sys2Proof.Machine.execVcmpLe k a b m s
  | .vcmpGt k a b m => Sys2Proof.Machine.execVcmpGt k a b m s
  | .vcmpGe k a b m => Sys2Proof.Machine.execVcmpGe k a b m s
  | .vcmpUn k a b m => Sys2Proof.Machine.execVcmpUn k a b m s
  | .vsel d a b => Sys2Proof.Machine.execVsel d a b s
  | .vclass d a m => Sys2Proof.Machine.execVclass d a m s
  | .vmulw d a b m => Sys2Proof.Machine.execVmulw d a b m s
  | .vexp2 d a m => Sys2Proof.Machine.execVexp2 d a m s
  | .vlog2 d a m => Sys2Proof.Machine.execVlog2 d a m s
  | .vrcp d a m => Sys2Proof.Machine.execVrcp d a m s
  | .vrsq d a m => Sys2Proof.Machine.execVrsq d a m s
  | .vsqrt d a m => Sys2Proof.Machine.execVsqrt d a m s
  | .vsinp d a m => Sys2Proof.Machine.execVsinp d a m s
  | .vcosp d a m => Sys2Proof.Machine.execVcosp d a m s
  | .vtanh d a m => Sys2Proof.Machine.execVtanh d a m s
  | .vsigm d a m => Sys2Proof.Machine.execVsigm d a m s
  | .vcvt d a m => Sys2Proof.Machine.execVcvt d a m s
  | .vqnt d a q m => Sys2Proof.Machine.execVqnt d a q m s
  | .vqntLoad a q => Sys2Proof.Machine.execVqntLoad a q s
  | .vdqnt d a q m => Sys2Proof.Machine.execVdqnt d a q m s
  | .vdqntStore d q => Sys2Proof.Machine.execVdqntStore d q s
  | .vbscLoad a e => Sys2Proof.Machine.execVbscLoad a e s
  | .vbscStore d e => Sys2Proof.Machine.execVbscStore d e s
  | .vbscApply d a e m => Sys2Proof.Machine.execVbscApply d a e m s
  | .vbqnt d a e m => Sys2Proof.Machine.execVbqnt d a e m s
  | .vpack d a b m => Sys2Proof.Machine.execVpack d a b m s
  | .vunpk d a m => Sys2Proof.Machine.execVunpk d a m s
  | .vredSum d a m => Sys2Proof.Machine.execVredSum d a m s
  | .vredMax d a m => Sys2Proof.Machine.execVredMax d a m s
  | .vredMin d a m => Sys2Proof.Machine.execVredMin d a m s
  | .vredAmax d a m => Sys2Proof.Machine.execVredAmax d a m s
  | .vscanSum d a m => Sys2Proof.Machine.execVscanSum d a m s
  | .vscanMax d a m => Sys2Proof.Machine.execVscanMax d a m s
  | .vscanMin d a m => Sys2Proof.Machine.execVscanMin d a m s
  | .vmov d a m => Sys2Proof.Machine.execVmov d a m s
  | .vperm d a b m => Sys2Proof.Machine.execVperm d a b m s
  | .vrot d a c m => Sys2Proof.Machine.execVrot d a c m s
  | .vfill d a m => Sys2Proof.Machine.execVfill d a m s
  | .vrand d => Sys2Proof.Machine.execVrand d s
  | .vxferElement d a l => Sys2Proof.Machine.execVxferElement d a l s
  | .vxferKcount d k => Sys2Proof.Machine.execVxferKcount d k s
  | .cpy q a b c l y z => Sys2Proof.Machine.execCpy q a b c l y z s
  | .cpy2d q a b c l y z => Sys2Proof.Machine.execCpy2d q a b c l y z s
  | .cpyb q a b c l y z => Sys2Proof.Machine.execCpyb q a b c l y z s
  | .strm a => Sys2Proof.Machine.execStrm a s
  | .sctr a b c l => Sys2Proof.Machine.execSctr a b c l s
  | .rred a b c l => Sys2Proof.Machine.execRred a b c l s
  | .qpush a b => Sys2Proof.Machine.execQpush a b s
  | .fsig a c l u => Sys2Proof.Machine.execFsig a c l u s
  | .cwait q a c l u => Sys2Proof.Machine.execCwait q a c l u s
  | .qfence m => Sys2Proof.Machine.execQfence m s
  | .texec a => Sys2Proof.Machine.execTexec a s
  | .tissue a d => Sys2Proof.Machine.execTissue a d s
  | .wfence => Sys2Proof.Machine.execWfence s
  | .srFlagsWrite c => Sys2Proof.Machine.execSrFlagsWrite c s
  | .srCouchmWrite c => Sys2Proof.Machine.execSrCouchmWrite c s
  | .programCouchSave c => Sys2Proof.Machine.execProgramCouchSave c s
  | .programCouchRestore c => Sys2Proof.Machine.execProgramCouchRestore c s
  | .instructionFetch c => Sys2Proof.Machine.execInstructionFetch c s
  | .restartMark c => Sys2Proof.Machine.execRestartMark c s
  | .exposedResultWrite c => Sys2Proof.Machine.execExposedResultWrite c s
  | .ldgReturn c => Sys2Proof.Machine.execLdgReturn c s
  | .fillSettle c q => Sys2Proof.Machine.execFillSettle c q s
  | .fillDelivery c q => Sys2Proof.Machine.execFillDelivery c q s
  | .rollback c => Sys2Proof.Machine.execRollback c s
  | .trapEntry c => Sys2Proof.Machine.execTrapEntry c s
  | .gridIssue c => Sys2Proof.Machine.execGridIssue c s
  | .mWriteCycle c => Sys2Proof.Machine.execMWriteCycle c s
  | .vWriteCycle c => Sys2Proof.Machine.execVWriteCycle c s
  | .vldWrite c => Sys2Proof.Machine.execVldWrite c s
  | .operandStarvation c => Sys2Proof.Machine.execOperandStarvation c s
  | .gridError c e => Sys2Proof.Machine.execGridError c e s
  | .groupLull g => Sys2Proof.Machine.execGroupLull g s
  | .saveDone g => Sys2Proof.Machine.execSaveDone g s
  | .restoreDone g => Sys2Proof.Machine.execRestoreDone g s
  | .groupPlacement die => Sys2Proof.Machine.execGroupPlacement die s
  | .groupEnd g => Sys2Proof.Machine.execGroupEnd g s
  | .sliceBoundary part => Sys2Proof.Machine.execSliceBoundary part s
  | .passOverTimeout g => Sys2Proof.Machine.execPassOverTimeout g s
  | .coreSubstitution c => Sys2Proof.Machine.execCoreSubstitution c s
  | .channelRetirement stack => Sys2Proof.Machine.execChannelRetirement stack s
  | .budgetWindow port => Sys2Proof.Machine.execBudgetWindow port s
  | .frequencyChange cl mhz => Sys2Proof.Machine.execFrequencyChange cl mhz s
  | .calenderPosition c => Sys2Proof.Machine.execCalenderPosition c s
  | .fenceDone c => Sys2Proof.Machine.execFenceDone c s
  | .fwaitPass c => Sys2Proof.Machine.execFwaitPass c s
  | .cwaitPass c q => Sys2Proof.Machine.execCwaitPass c q s
  | .barrierRelease g b => Sys2Proof.Machine.execBarrierRelease g b s
  | .csyncComplete c => Sys2Proof.Machine.execCsyncComplete c s
  | .qfenceDone c => Sys2Proof.Machine.execQfenceDone c s
  | .wfenceDone c => Sys2Proof.Machine.execWfenceDone c s
  | .regionLimit c => Sys2Proof.Machine.execRegionLimit c s
  | .chunkTransfer c => Sys2Proof.Machine.execChunkTransfer c s
  | .engineOpStart c q => Sys2Proof.Machine.execEngineOpStart c q s
  | .engineOpPerformed c q => Sys2Proof.Machine.execEngineOpPerformed c q s
  | .engineFault c q => Sys2Proof.Machine.execEngineFault c q s
  | .fsigPerform c => Sys2Proof.Machine.execFsigPerform c s
  | .qpushAppend c => Sys2Proof.Machine.execQpushAppend c s
  | .scatterTrainApply c => Sys2Proof.Machine.execScatterTrainApply c s
  | .rredApply c => Sys2Proof.Machine.execRredApply c s
  | .memoryAccess tag pa k len data => Sys2Proof.Machine.execMemoryAccess tag pa k len data s
  | .tableWalk c va k => Sys2Proof.Machine.execTableWalk c va k s
  | .integrityMismatch pa detail => Sys2Proof.Machine.execIntegrityMismatch pa detail s
  | .walkStart die => Sys2Proof.Machine.execWalkStart die s
  | .counterBlockRewrite die unit => Sys2Proof.Machine.execCounterBlockRewrite die unit s
  | .pageHash ctx va => Sys2Proof.Machine.execPageHash ctx va s
  | .tileRecordAccept id => Sys2Proof.Machine.execTileRecordAccept id s
  | .stagingCopyDone cl => Sys2Proof.Machine.execStagingCopyDone cl s
  | .macroSequencerRun c => Sys2Proof.Machine.execMacroSequencerRun c s
  | .tileRecordComplete id => Sys2Proof.Machine.execTileRecordComplete id s
  | .tileFaultRecord id => Sys2Proof.Machine.execTileFaultRecord id s
  | .flitReceive l f => Sys2Proof.Machine.execFlitReceive l f s
  | .negativeAcknowledgement l seq => Sys2Proof.Machine.execNegativeAcknowledgement l seq s
  | .idleFlit l => Sys2Proof.Machine.execIdleFlit l s
  | .linkFailure l => Sys2Proof.Machine.execLinkFailure l s
  | .class2Resume l => Sys2Proof.Machine.execClass2Resume l s
  | .laneFailure l lane => Sys2Proof.Machine.execLaneFailure l lane s
  | .trainingDone l goodLanes => Sys2Proof.Machine.execTrainingDone l goodLanes s
  | .unreachableTimeout d => Sys2Proof.Machine.execUnreachableTimeout d s
  | .append h queue entries => Sys2Proof.Machine.execAppend h queue entries s
  | .read h va len id => Sys2Proof.Machine.execRead h va len id s
  | .write h va id data => Sys2Proof.Machine.execWrite h va id data s
  | .xlate h va pages watch => Sys2Proof.Machine.execXlate h va pages watch s
  | .ack h => Sys2Proof.Machine.execAck h s
  | .readData h id status off data => Sys2Proof.Machine.execReadData h id status off data s
  | .writeDone h id status => Sys2Proof.Machine.execWriteDone h id status s
  | .cmd h code => Sys2Proof.Machine.execCmd h code s
  | .ackTimer port flow => Sys2Proof.Machine.execAckTimer port flow s
  | .thtRetransmit port flow => Sys2Proof.Machine.execThtRetransmit port flow s
  | .eventRetry ctx => Sys2Proof.Machine.execEventRetry ctx s
  | .ctxCreate h => Sys2Proof.Machine.execCtxCreate h s
  | .ctxWrite h image => Sys2Proof.Machine.execCtxWrite h image s
  | .ctxRead h => Sys2Proof.Machine.execCtxRead h s
  | .ctxBind h => Sys2Proof.Machine.execCtxBind h s
  | .ctxLull h => Sys2Proof.Machine.execCtxLull h s
  | .ctxThaw h => Sys2Proof.Machine.execCtxThaw h s
  | .ctxReset h => Sys2Proof.Machine.execCtxReset h s
  | .resetDrainDone ctx => Sys2Proof.Machine.execResetDrainDone ctx s
  | .ctxDestroy h => Sys2Proof.Machine.execCtxDestroy h s
  | .ctxMigrate h => Sys2Proof.Machine.execCtxMigrate h s
  | .ctxMigrateAbort h => Sys2Proof.Machine.execCtxMigrateAbort h s
  | .ctxDirty h first count => Sys2Proof.Machine.execCtxDirty h first count s
  | .ctxExport h handle => Sys2Proof.Machine.execCtxExport h handle s
  | .ctxImport h handle => Sys2Proof.Machine.execCtxImport h handle s
  | .ctxRelease h => Sys2Proof.Machine.execCtxRelease h s
  | .mkeySet h handle key buf len part sroot => Sys2Proof.Machine.execMkeySet h handle key buf len part sroot s
  | .winGrant h base len peer => Sys2Proof.Machine.execWinGrant h base len peer s
  | .winAccept h handle base => Sys2Proof.Machine.execWinAccept h handle base s
  | .winRevoke h handle => Sys2Proof.Machine.execWinRevoke h handle s
  | .partitionTableWrite part mask weights xbar => Sys2Proof.Machine.execPartitionTableWrite part mask weights xbar s
  | .queueOpen h queue kind ring u prio home => Sys2Proof.Machine.execQueueOpen h queue kind ring u prio home s
  | .queueClose h queue => Sys2Proof.Machine.execQueueClose h queue s
  | .queueSetprio h queue prio => Sys2Proof.Machine.execQueueSetprio h queue prio s
  | .queueResume h queue mode => Sys2Proof.Machine.execQueueResume h queue mode s
  | .queueRead h queue => Sys2Proof.Machine.execQueueRead h queue s
  | .queueConsume h queue count => Sys2Proof.Machine.execQueueConsume h queue count s
  | .fcRead h first count => Sys2Proof.Machine.execFcRead h first count s
  | .kernelLoad h image len code range => Sys2Proof.Machine.execKernelLoad h image len code range s
  | .kernelUnload h handle => Sys2Proof.Machine.execKernelUnload h handle s
  | .kernelQuery h handle => Sys2Proof.Machine.execKernelQuery h handle s
  | .codekeySet h slot key mask => Sys2Proof.Machine.execCodekeySet h slot key mask s
  | .pageBind h pa count tag => Sys2Proof.Machine.execPageBind h pa count tag s
  | .pageUnbind h pa count => Sys2Proof.Machine.execPageUnbind h pa count s
  | .pageRetire h pa count => Sys2Proof.Machine.execPageRetire h pa count s
  | .pageQuery h pa => Sys2Proof.Machine.execPageQuery h pa s
  | .tlbInval h tag va len => Sys2Proof.Machine.execTlbInval h tag va len s
  | .faultRing h pa u => Sys2Proof.Machine.execFaultRing h pa u s
  | .faultAnswer h seq act => Sys2Proof.Machine.execFaultAnswer h seq act s
  | .pageExport h handle tag pa count out => Sys2Proof.Machine.execPageExport h handle tag pa count out s
  | .pageImport h handle pa blob => Sys2Proof.Machine.execPageImport h handle pa blob s
  | .flowOpen h port flow tag ip udp key => Sys2Proof.Machine.execFlowOpen h port flow tag ip udp key s
  | .flowClose h port flow => Sys2Proof.Machine.execFlowClose h port flow s
  | .hwinSet h win base len port flow hbase => Sys2Proof.Machine.execHwinSet h win base len port flow hbase s
  | .spanSet h mask tags => Sys2Proof.Machine.execSpanSet h mask tags s
  | .linkQuery h l => Sys2Proof.Machine.execLinkQuery h l s
  | .linkRetire h l => Sys2Proof.Machine.execLinkRetire h l s
  | .spanGen h member tag => Sys2Proof.Machine.execSpanGen h member tag s
  | .fwLoad h image len => Sys2Proof.Machine.execFwLoad h image len s
  | .fwCommit h component value => Sys2Proof.Machine.execFwCommit h component value s
  | .capRead h => Sys2Proof.Machine.execCapRead h s
  | .powerSet h kind index mw => Sys2Proof.Machine.execPowerSet h kind index mw s
  | .powerOn t => Sys2Proof.Machine.execPowerOn t s
  | .packageReset => Sys2Proof.Machine.execPackageReset s
  | .powerWindow kind index mhz => Sys2Proof.Machine.execPowerWindow kind index mhz s
  | .thermalLimit t => Sys2Proof.Machine.execThermalLimit t s
  | .correctedError u detail => Sys2Proof.Machine.execCorrectedError u detail s
  | .uncorrectableError e => Sys2Proof.Machine.execUncorrectableError e s
  | .powerLoss => Sys2Proof.Machine.execPowerLoss s
  | .malformedMessage h => Sys2Proof.Machine.execMalformedMessage h s
  | .ethernetPortFailure port => Sys2Proof.Machine.execEthernetPortFailure port s
  | .kernelLoadChecksDone ctx slot => Sys2Proof.Machine.execKernelLoadChecksDone ctx slot s

end Sys2Proof.Machine
end

