-- ==== Sys2Proof/Machine/Packet.lean ====
section
/-! DEFINITION. The packet that a core issues (R101, R102, R148 to R153, R164, R179): its slots in program order, the checks
of the whole packet, forwarding (R108, R115), and what a core does in one cycle. -/

namespace Sys2Proof.Machine

/-! ### Slots of a packet -/

/-- The slots of one bundle, in the order S, A, M, V, C (R150). -/
def bundleSlots (b : Word × RawBundle) : List PSlot :=
  if b.2.words.isEmpty then [{ bun := b.1, hdr := b.2.hdr, kind := none, word := 0, lit := b.2.lit }]
  else b.2.words.map (fun w => { bun := b.1, hdr := b.2.hdr, kind := some w.1, word := w.2, lit := b.2.lit })
/-- The slots of a packet in program order (R150). -/
def Packet.slots (p : Packet) : List PSlot := p.bundles.flatMap bundleSlots

/-- The instruction of a slot, or the detail with which it is illegal (R179). -/
def PSlot.instr (x : PSlot) : Except Detail Instr :=
  match x.kind with
  | some k => decodeSlot k x.lit x.word
  | none =>
    match decodeHeader x.hdr with
    | some i => .ok i
    | none => .error .reservedField

/-- A slot that takes its effect after every other slot of its packet: TRAP, EXIT, and ERET in trap handling (R197, R198,
R202). -/
def Instr.afterPacket (inTrap : Bool) : Instr → Bool
  | .trap _ => true
  | .exit => true
  | .eret => inTrap
  | _ => false
def PSlot.late (x : PSlot) (inTrap : Bool) : Bool :=
  match x.instr with
  | .ok i => Instr.afterPacket inTrap i
  | .error _ => false

/-- The slot context of a packet of core `c` before its first slot: every slot carries fmt and shp as they stand (R150). -/
def State.beginPacket (s : State) (c : CoreIx) (next : Word) : State :=
  let k := s.core c
  { s with
    cur := c
    slot := { SlotCtx.reset with
      pktAddr := k.ctl.pc, bunAddr := k.ctl.pc, nextAddr := next, npc := next, older := k.rs.gate.length
      settled := k.settled
      pkt := { GridPkt.empty with fwd := k.rs.fwd, addr := k.ctl.pc, fmt := k.fmt, shp := k.shp } } }

/-- The slot context of one slot. -/
def State.enterSlot (s : State) (x : PSlot) : State :=
  s.modSlot (fun c => { c with bunAddr := x.bun, hdr := x.hdr, word := x.word, lit := x.lit, out := .none })

/-- A check of R179 that stands after the reserved fields: reserved space, space not accepted, literal missing. -/
def Detail.afterFields : Detail → Bool
  | .reservedSpace => true
  | .spaceNotAccepted => true
  | .literalMissing => true
  | _ => false

/-- The slot as it reads with an accepted space and, where the literal is missing, with each of two values of it. -/
def PSlot.mended (x : PSlot) : List PSlot :=
  let ws : List Cell := match x.kind with
    | some .a => [x.word &&& 0xFFFF9FFF]
    | some .c => (List.range 16).map (fun n => (x.word &&& 0xFFFFFFF0) ||| BitVec.ofNat 32 n)
    | _ => []
  let lits : List Cell := match x.lit with
    | some l => [l]
    | none => [0, 1]
  lits.filterMap (fun l => (ws.map (fun w => { x with word := w, lit := some l })).find? (fun y => y.instr.isOk))

/-- The slot's operands have a reserved value, whatever its space and its missing literal: the reserved-field check fails first
(R179). -/
def State.fieldsBad (s : State) (x : PSlot) : Bool :=
  !x.mended.isEmpty && x.mended.all (fun y =>
    match y.instr with
    | .ok i =>
      match exec i (s.enterSlot y) with
      | .next t =>
        match t.slot.out with
        | .trap q => decide (q.cause = 0x013)
        | _ => false
      | _ => false
    | .error _ => false)

/-- One slot executed. -/
def State.runSlot (s : State) (x : PSlot) : Host.Outcome State Fault Refusal :=
  match x.instr with
  | .ok i => exec i (s.enterSlot x)
  | .error d => .next ((s.enterSlot x).illegal (if Detail.afterFields d && s.fieldsBad x then .reservedField else d))

/-- The stop that stands, with its bundle. -/
def joinAt (o : SlotOut × Word) (n : SlotOut) (bun : Word) : SlotOut × Word :=
  if o.1.join n = o.1 then o else (n, bun)

/-- A slot that waits is not tried again from the start of its packet (log 136): an irrevocable operation of the packet has performed, a
store of the packet performs before the wait of one, or the wait is for a transfer of the packet itself. -/
def State.leaves (s t : State) : Bool :=
  match t.slot.out with
  | .hold w => s.slot.markNext || t.slot.early || w.committed && decide (s.slot.older < s.me.rs.gate.length)
  | _ => false

/-- What slots executed in order leave: the state, the stop that stands with its bundle, and where the packet can wait part way: the state
in which the first slot that stopped waits, and that slot with those after it. -/
structure Run where
  st : State
  out : SlotOut × Word
  rest : Option (State × List PSlot)

/-- Slots executed in order; one that stops has no effect (R151, R179). -/
def State.runSlots : List PSlot → State → SlotOut × Word → Option (State × List PSlot) → Host.Outcome Run Fault Refusal
  | [], s, o, h => .next ⟨s, o, h⟩
  | x :: xs, s, o, h =>
    match s.runSlot x with
    | .next t =>
      if t.slot.out = .none then State.runSlots xs t o h
      else
        let h := if o.1 = .none ∧ s.leaves t then some (t.modSlot (fun c => { c with markNext := s.slot.markNext }), x :: xs) else h
        State.runSlots xs s (joinAt o t.slot.out x.bun) h
    | .fault f => .fault f
    | .refused r => .refused r

/-! ### Checks of the whole packet -/

/-- Every row of a list lies in one half. -/
def inHalf (lo : Bool) (rows : List Nat) : Bool := rows.all (fun r => decide (r % 64 < 32) == lo)

/-- Two V slots keep the half rule (R250). -/
def GridPkt.halvesOk (p : GridPkt) : Bool :=
  match p.v with
  | [a, b] =>
    let ra := let u := Instr.vUse p.shp p.fmt a.instr; u.rr ++ u.rw
    let rb := let u := Instr.vUse p.shp p.fmt b.instr; u.rr ++ u.rw
    (inHalf true ra && inHalf false rb) || (inHalf false ra && inHalf true rb)
  | _ => true

/-- Rows written by the M slot, by the V slots, and by each VLD of a packet. -/
def GridPkt.written (p : GridPkt) : List (List Nat) :=
  (match p.m with
   | some m => [Instr.mWrites p.shp m.instr]
   | none => []) ++
    [p.v.flatMap (fun v => (Instr.vUse p.shp p.fmt v.instr).rw)] ++
    (p.xfers.filter (fun x => !x.st)).map (fun x => [x.row.toNat])

/-- No two of some row lists share a row. -/
def disjointRows : List (List Nat) → Bool
  | [] => true
  | r :: rs => rs.all (fun t => t.all (fun x => !(r.map (· % 64)).contains (x % 64))) && disjointRows rs

/-- The illegal-packet traps judged last: half, then row-overlap (R179, R215, R241, R250). -/
def State.packetOut (s : State) : SlotOut × Word :=
  let a := s.slot.pktAddr
  let p := s.slot.pkt
  if !p.halvesOk then (.trap ⟨0x034, p.fmt, a, a⟩, a)
  else if !disjointRows p.written then (.trap ⟨0x035, p.fmt, a, a⟩, a)
  else (.none, a)

/-! ### Forwarding and the end of a packet -/

/-- The packet has something for the grid engine. -/
def GridPkt.hasGrid (p : GridPkt) : Bool := p.sw.isSome || p.m.isSome || !p.v.isEmpty || !p.xfers.isEmpty

/-- The packet is forwarded: it carries grid content and was not forwarded before (R108). -/
def State.forwards (s : State) : Bool := s.slot.pkt.hasGrid && decide (s.me.grid.fwdCount ≤ s.me.rs.fwd)

/-- Entries of the grid instruction queue (R115). -/
def giqCap : Nat := 64

/-- A full grid instruction queue makes the packet wait; inside a timed region it is the timing fault 0x09 (Table 15.1). A packet
keeps its entry until it retires, since a stop leaves every squashed packet in the queue (R111, R113; log 108). -/
def State.roomOut (s : State) : SlotOut × Word :=
  let a := s.slot.pktAddr
  if s.forwards && decide (giqCap ≤ s.me.grid.giq.length + s.me.grid.pkts.length) then
    (if s.me.timed then .trap ⟨0x0B9, BitVec.ofNat 64 (s.regionCycle s.cur), a, a⟩ else .hold .giqRoom, a)
  else (.none, a)

/-- A grid packet enters the grid instruction queue (R115). -/
def State.forwardPkt (s : State) (p : GridPkt) : State :=
  s.modMe (fun k => { k with grid := { k.grid with giq := k.grid.giq ++ [p], fwdCount := k.rs.fwd + 1 } })

/-- The part of a grid packet that can be forwarded before its last slots have executed, and the VXFERs, whose places in the log those slots
still have to take (log 136). -/
def GridPkt.first (p : GridPkt) : GridPkt := { p with v := p.v.filter (fun g => !Instr.isXfer g.instr), log := [] }
def GridPkt.second (p : GridPkt) : GridPkt := { p with sw := none, xfers := [], m := none, v := p.v.filter (fun g => Instr.isXfer g.instr) }

/-- The packet enters the grid instruction queue; of one that was forwarded part way the VXFERs do. -/
def State.forward (s : State) : State :=
  if s.forwards then s.forwardPkt s.slot.pkt
  else if s.slot.ahead && !s.slot.pkt.log.isEmpty then s.forwardPkt s.slot.pkt.second
  else s

/-- What every issued packet does to its core: the counts advance, the pc moves on, a transfer may cost a cycle (R153), an
implicit mark may follow (R105), a VXFER makes the core wait (R274); results that are due land (R164). -/
def Core.retirePacket (k : Core) (t : SlotCtx) (cyc : Word) : Core :=
  let k := { k with
    rs := { k.rs with issue := k.rs.issue + 1, fwd := k.rs.fwd + 1 }
    ctl := { k.ctl with pc := t.npc, stall := t.lost.toNat, markNext := k.ctl.markNext || t.markNext, skip := none
                        wait := if t.pkt.log.isEmpty then none else some (.vxfer k.rs.fwd) } }
  k.landDue cyc

/-- The end of a packet whose slots all performed; a group that ended in it leaves nothing to do. -/
def State.finishPacket (s : State) : State :=
  if s.me.ctl.st = .idle ∨ s.me.ctl.st = .failed then s
  else
    let s := s.forward
    let s := s.modMe (fun k => { (k.retirePacket s.slot (s.cyc s.cur)) with part := none })
    if s.me.timed then s.commitAll s.cur else s

/-- The packet waits part way (log 136): `s` is the state in which its slot waits, `p` the grid packet as all its slots made it, which is
forwarded now if the wait is for a transfer in it. -/
def State.waitPart (s : State) (p : GridPkt) (rest late : List PSlot) : State :=
  let early := s.slot.early && !s.me.forwarded
  let s := if early then s.forwardPkt p.first else s
  let part : Part :=
    { slots := rest, late := late, pend := [], ctx := { s.slot with out := .none, early := false, ahead := s.slot.ahead || early } }
  s.modMe (fun k => { k with part := some part })

/-- The stop of a packet on the state before it; a read that faults behind an irrevocable operation of its packet stops at its bundle
(R105, R106). -/
def State.stopPacket (b : State) (o : SlotOut × Word) : State :=
  let o : SlotOut × Word := match o.1 with
    | .roll f bun => if b.me.keptPart then (.fault f, bun) else o
    | _ => o
  (b.modSlot (fun t => { t with bunAddr := o.2 })).settleOut o.1

/-- Slots of a packet, executed whole or not at all (R151), or up to one that waits part way: those in order, the checks of the whole
packet, and those that perform last. -/
def State.runRest (b : State) (slots late : List PSlot) : Host.Outcome State Fault Refusal :=
  let none' : SlotOut × Word := (.none, b.slot.pktAddr)
  match State.runSlots slots b none' none with
  | .next r =>
    let t := r.st
    let o := joinAt r.out t.packetOut.1 t.packetOut.2
    match o.1 with
    | .none =>
      if t.roomOut.1 ≠ .none then .next (b.stopPacket t.roomOut)
      else
        match State.runSlots late t none' none with
        | .next u =>
          if u.out.1 = .none then .next u.st.finishPacket
          else
            match u.rest with
            | some (v, rest) => .next (v.waitPart t.slot.pkt [] rest)
            | none => .next (b.stopPacket u.out)
        | .fault f => Host.Outcome.fault f
        | .refused x => .refused x
    | .hold _ =>
      match r.rest with
      | some (v, rest) => .next (if t.roomOut.1 ≠ .none then b.stopPacket t.roomOut else v.waitPart t.slot.pkt rest late)
      | none => .next (b.stopPacket o)
    | _ => .next (b.stopPacket o)
  | .fault f => Host.Outcome.fault f
  | .refused x => .refused x

/-- A packet whose bundles are legal. -/
def State.runPacket (s : State) (c : CoreIx) (p : Packet) : Host.Outcome State Fault Refusal :=
  let b := s.beginPacket c p.next
  let inTrap := b.me.ctl.inTrap
  b.runRest (p.slots.filter (fun x => !x.late inTrap)) (p.slots.filter (fun x => x.late inTrap))

/-- A packet that waits part way goes on with the slots that it has left (log 136). -/
def State.runPart (s : State) (c : CoreIx) (p : Part) : Host.Outcome State Fault Refusal :=
  ({ s with cur := c, slot := { p.ctx with scUsed := false } } : State).runRest p.slots p.late

/-! ### A core's turn -/

/-- A precise stop before any slot: the slot context names packet and bundle. -/
def State.stopAt (s : State) (c : CoreIx) (bun : Word) (o : SlotOut) : Host.Outcome State Fault Refusal :=
  .next (((s.beginPacket c 0).modSlot (fun t => { t with bunAddr := bun })).settleOut o)

/-- The packet holds a VLD or VST, and so issues as a marked packet (R216). -/
def Packet.transfers (p : Packet) : Bool :=
  p.slots.any (fun x =>
    match x.instr with
    | .ok (.vld _ _ _) => true
    | .ok (.vst _ _ _ _) => true
    | _ => false)

/-- A register that the packet reads or writes awaits an interlocked result (R164, R462), or a felt load (R91). -/
def Packet.interlocked (p : Packet) (k : Core) (cyc : Word) : Bool :=
  let busy := k.interlocked ++ k.feltHeld cyc
  p.slots.any (fun x =>
    match x.instr with
    | .ok i => (Instr.xReads i ++ Instr.xWrites i).any (fun r => busy.contains r)
    | .error _ => false)

/-- The mark of a marked packet (R102), which replay passes over at the mark itself (R107). -/
def State.markedIssue (s : State) (c : CoreIx) (p : Packet) : Host.Outcome State Fault Refusal :=
  let go (s : State) : Host.Outcome State Fault Refusal :=
    if p.interlocked (s.core c) (s.cyc c) then s.stopAt c (s.core c).ctl.pc (.hold .interlock) else s.runPacket c p
  if (p.marked || p.transfers) && !(s.core c).atMark then
    if (s.core c).markReady then go (s.takeMark c) else s.stopAt c (s.core c).ctl.pc (.hold .settle)
  else go s

/-- The packet at the pc: fetched, its bundles and shape checked, marked, and executed. An RMARK ends a timed region before
its packet issues (R319). -/
def State.tryPacket (s : State) (c : CoreIx) : Host.Outcome State Fault Refusal :=
  let pc := (s.core c).ctl.pc
  match s.fetchPacket c with
  | (.error (o, bun), t) => t.stopAt c bun o
  | (.ok p, t) =>
    match p.badHeader with
    | some (b, h) => t.stopAt c b (.trap ⟨0x020, h.setWidth 64, pc, b⟩)
    | none =>
      match p.badShape with
      | some d => t.stopAt c pc (.trap ⟨BitVec.ofNat 9 (0x030 + d), (t.core c).fmt, pc, pc⟩)
      | none =>
        let t := if p.marked && (t.core c).timed then t.endRegion c else t
        if (t.core c).grp.isNone then .next t else t.markedIssue c p

/-- The core still waits: an event ends the wait, or its time has not come. Every other wait is a retry of the packet. -/
def State.stillWaits (s : State) (c : CoreIx) : Wait → Bool
  | .fwait _ _ | .barw _ | .qfence _ | .wfence | .calender | .fence | .fault _ | .hash _ _ | .migrateStop => true
  | .vxfer f => (s.core c).grid.giq.any (fun p => decide (p.fwd = f))
  | .csync =>
    match (s.core c).ctl.csyncAt with
    | some a => decide ((s.cyc c).toNat < a.toNat)
    | none => true
  | _ => false

/-- The core belongs to a tile group, which runs macro sequencers and no core program (R303). -/
def State.tileCore (s : State) (c : CoreIx) : Bool := (((s.core c).grp.bind s.group).bind (fun g => g.tile)).isSome

/-- The core may issue in this cycle: it runs or replays, has no pending trap, and no tile record holds it (R297, R311). -/
def State.mayIssue (s : State) (c : CoreIx) : Bool :=
  let k := s.core c
  (decide (k.ctl.st = .run) || decide (k.ctl.st = .replay)) && k.ctl.pendTrap.isNone && k.seqr.isNone && !s.tileCore c &&
    (match k.ctl.wait with
     | some w => !s.stillWaits c w
     | none => true)

/-- One cycle of a core's access engine: a lost cycle passes, the implicit mark is taken (R105), and the next packet
issues or waits, or one that waits part way goes on. A core whose macro sequencer runs a TEXEC record takes its mark and issues nothing. -/
def State.turn (s : State) (c : CoreIx) : Host.Outcome State Fault Refusal :=
  let k := s.core c
  if k.ctl.stall ≠ 0 then .next (s.modCtl c (fun t => { t with stall := t.stall - 1 }))
  else if k.seqr.isSome ∧ k.ctl.st = .run ∧ k.ctl.markNext ∧ k.markReady then .next (s.takeMark c)
  else if !s.mayIssue c then .next s
  else
    let s := s.endWait c
    match k.part with
    | some p => s.runPart c p
    | none =>
      if k.ctl.markNext then
        if k.markReady then (s.takeMark c).tryPacket c else s.stopAt c k.ctl.pc (.hold .settle)
      else s.tryPacket c

end Sys2Proof.Machine
end

