-- ==== Sys2Proof/Machine/Schedule.lean ====
section
/-! DEFINITION. What is due (log 4): the events of a core before its next turn, those of the package once every core has
had its turn, how each is performed, and the clocks that advance then. -/

namespace Sys2Proof.Machine

/-! ### Events of a core -/

/-- An event, when a condition holds. -/
def dueIf (c : Bool) (i : Due) : List Due := if c then [i] else []

/-- The packet at the head of those issued has all its results written, so that it can retire (R249). -/
def Grid.canRetire (g : Grid) : Bool :=
  match g.pkts with
  | p :: _ => (g.inflight.filter (fun f => decide (f.fwd = p.fwd))).all (fun f => f.written)
  | [] => false
/-- A flight of a kind has reached its write cycle. -/
def Grid.flightDue (g : Grid) (kind : FlKind) : Bool :=
  g.inflight.any (fun f => decide (f.kind = kind) && !f.written && decide (f.due < g.cyc))

/-- The head of the grid instruction queue and the program couch (R119, R120, R146, R232). -/
def Grid.issueDue (g : Grid) (c : CoreIx) : List Due :=
  if g.couch.active then [if g.couch.op then .couchRestore c else .couchSave c]
  else
    match g.giq with
    | p :: _ =>
      match p.sw with
      | some (.flags _ _) => [.srFlagsWrite c, .gridIssue c]
      | some (.couchm _ _) => [.srCouchmWrite c, .gridIssue c]
      | _ => [.gridIssue c]
    | [] => []

/-- Grid-side events: write cycles, then issue. -/
def Grid.dueGrid (g : Grid) (c : CoreIx) : List Due :=
  dueIf (g.flightDue .m) (.mWriteCycle c) ++ dueIf (g.flightDue .v || g.canRetire) (.vWriteCycle c) ++
    dueIf (g.flightDue .vld) (.vldWrite c) ++ g.issueDue c

/-- Fills of the operand queues (R212, R213). -/
def Grid.fillsDue (g : Grid) (c : CoreIx) (now : Nat) : List Due :=
  (List.range 8).flatMap (fun i =>
    let q := BitVec.ofNat 3 i
    let es := (g.queue q).entries
    dueIf (es.any QEntry.reads) (.fillSettle c q) ++
      dueIf (es.any (fun e => e.settled && !e.present && decide (e.due ≤ now))) (.fillDelivery c q))

/-- The next step of an engine queue's head (R278, R286 to R290). -/
def EngEntry.dueEng (e : EngEntry) (c : CoreIx) (q : Nat) : List Due :=
  match e.op with
  | .qpush _ _ => [.qpushAppend c]
  | .cwait _ _ => [.cwaitPass c (BitVec.ofNat 2 q)]
  | o =>
    if !e.started then [.engineOpStart c (BitVec.ofNat 3 q)]
    else if e.faulted.isSome then []
    else
      match o with
      | .scatter _ n _ => if e.prog < n then [.scatterTrainApply c] else [.engineOpPerformed c (BitVec.ofNat 3 q)]
      | .rred _ _ _ _ _ _ => if e.prog < 1 then [.rredApply c] else [.engineOpPerformed c (BitVec.ofNat 3 q)]
      | _ => [.engineOpPerformed c (BitVec.ofNat 3 q)]
/-- The heads of the engine queues, and the signal stage (R289). -/
def Core.enginesDue (k : Core) (c : CoreIx) : List Due :=
  (List.range 6).flatMap (fun q =>
    match k.engQ q with
    | e :: _ => e.dueEng c q
    | [] => []) ++ dueIf (!k.sigs.isEmpty) (.fsigPerform c)

/-- The engine operations of a core that a lull lets run on (R278, R52). -/
def State.startedDue (s : State) (c : CoreIx) (migrating : Bool) : List Due :=
  ((List.range 6).filter (s.headRuns c migrating)).flatMap (fun q =>
    match (s.core c).engQ q with
    | e :: _ => e.dueEng c q
    | [] => [])

/-- The event that may end the core's wait. -/
def State.waitDue (s : State) (c : CoreIx) : List Due :=
  let k := s.core c
  (match k.ctl.wait with
   | some (.fwait _ _) => [.fwaitPass c]
   | some (.barw b) =>
     match k.grp with
     | some g => [.barrierRelease g b]
     | none => []
   | some .csync => dueIf (k.ctl.csyncAt.isNone && !s.linesHeld c) (.instructionFetch c)
   | some (.qfence _) => [.qfenceDone c]
   | some .wfence => [.wfenceDone c]
   | some .fence => [.fenceDone c]
   | some (.hash va _) => [.pageHash (BitVec.ofNat 8 (s.ctxOf c)) va]
   | some .giqRoom => dueIf k.grid.starved (.operandStarvation c)
   | some (.queueEntry _) => dueIf k.grid.starved (.operandStarvation c)
   | _ => []) ++
    dueIf (decide (k.ctl.wait = some .calender) && s.atPosition c) (.calenderPosition c)

/-- The events due at a core before its turn. A core that no group holds has none; one whose group is being saved or restored
makes no progress of its own; one that a lull has stopped lets started engine operations run on, and its sequencer reach its
next point (R113, R117, R278, R312). The chunks of a timed transfer move first, as they stand at the start of the cycle (R219). -/
def State.due (s : State) (c : CoreIx) : List Due :=
  let k := s.core c
  match k.grp.bind s.group with
  | none => []
  | some g =>
    if g.st ≠ .resident then []
    else if k.ctl.st = .stopped then s.startedDue c (s.migrating g) ++ dueIf k.seqr.isSome (.macroSequencerRun c)
    else
      dueIf (!k.region.sends.isEmpty || !k.region.recvs.isEmpty) (.chunkTransfer c) ++ k.grid.dueGrid c ++ dueIf (!k.rs.ldgs.isEmpty) (.ldgReturn c) ++ k.grid.fillsDue c (s.cyc c).toNat ++
        dueIf (k.rs.pend.any (fun e => e.ready k.rs.issue (s.cyc c))) (.exposedResultWrite c) ++ k.enginesDue c ++
        s.waitDue c ++ dueIf (k.timed && decide (1048576 ≤ s.regionCycle c)) (.regionLimit c) ++
        dueIf k.ctl.pendTrap.isSome (.trapEntry c) ++ dueIf k.seqr.isSome (.macroSequencerRun c)

/-! ### Events of the package -/

/-- Lulls, saves, restores and ends of a group (Table 5.1). -/
def State.groupDue (s : State) (g : Group) : List Due :=
  dueIf (g.lullReq && (decide (g.st = .resident) || decide (g.st = .restoring))) (.groupLull g.id) ++
    dueIf (decide (g.st = .lulling)) (.saveDone g.id) ++ dueIf (decide (g.st = .restoring)) (.restoreDone g.id) ++
    dueIf (s.groupOver g) (.groupEnd g.id)
/-- Placement and counter walks of a die (R77, R369). -/
def State.dieDue (s : State) (d : BitVec 2) : List Due :=
  dueIf (s.groups.any (fun g => decide (g.st = .pending))) (.groupPlacement d) ++
    dueIf (!(s.die d).waitWalks.isEmpty || !(s.die d).walkCmds.isEmpty) (.walkStart d) ++ (s.die d).walks.map (fun w => .counterBlockRewrite d w.unit)
/-- The next acts of a tile record (R300, R315). -/
def State.tileDue (s : State) (t : TileNode) : List Due :=
  dueIf ((decide (t.st = .waiting) || decide (t.st = .accepted)) && (match t.level with
    | .core _ => false
    | _ => true)) (.tileRecordAccept t.id) ++
    (match t.level with
     | .cluster c => dueIf (decide (t.st = .accepted) && t.stages) (.stagingCopyDone c)
     | _ => []) ++
    dueIf (t.fault.isSome && t.answer.isNone || decide (t.st = .faulted)) (.tileFaultRecord t.id) ++
    dueIf (decide (t.st = .failed) && t.isRoot || !s.foreign t && s.tileFinished t ||
      s.foreign t && decide (t.st = .released) && t.fault.isNone) (.tileRecordComplete t.id)
/-- Resets and loads of a context. -/
def State.ctxDue (s : State) (n : Nat) : List Due :=
  let c := s.ctx n
  (match c.cmd with
   | some (.reset _ _) => [.resetDrainDone (BitVec.ofNat 8 n)]
   | some (.destroy _ _) => [.resetDrainDone (BitVec.ofNat 8 n)]
   | _ => []) ++
    (c.kernels.toList.zipIdx.filter (fun p => decide (p.1.st = .loading))).map (fun p =>
      .kernelLoadChecksDone (BitVec.ofNat 8 n) (BitVec.ofNat 6 p.2))

/-- The events due once every core has had its turn, the next input last. -/
def State.packageDue (s : State) : List Due :=
  s.groups.flatMap s.groupDue ++ allDies.flatMap s.dieDue ++ s.tiles.flatMap s.tileDue ++
    (List.range 65).flatMap s.ctxDue ++ dueIf s.boot.commit.isSome .fuseBlow ++ s.inputs.head?.toList.map .input

/-! ### Performing what is due -/

/-- An event that is due performed, by the meaning of its row; an input is performed as its row says. -/
def runDue (d : Due) (s : State) : Host.Outcome State Fault Refusal :=
  match d with
  | .exposedResultWrite c => execExposedResultWrite c s
  | .ldgReturn c => execLdgReturn c s
  | .fillSettle c q => execFillSettle c q s
  | .fillDelivery c q => execFillDelivery c q s
  | .trapEntry c => execTrapEntry c s
  | .gridIssue c => execGridIssue c s
  | .mWriteCycle c => execMWriteCycle c s
  | .vWriteCycle c => execVWriteCycle c s
  | .vldWrite c => execVldWrite c s
  | .operandStarvation c => execOperandStarvation c s
  | .srFlagsWrite c => execSrFlagsWrite c s
  | .srCouchmWrite c => execSrCouchmWrite c s
  | .couchSave c => execProgramCouchSave c s
  | .couchRestore c => execProgramCouchRestore c s
  | .calenderPosition c => execCalenderPosition c s
  | .fenceDone c => execFenceDone c s
  | .fwaitPass c => execFwaitPass c s
  | .cwaitPass c q => execCwaitPass c q s
  | .barrierRelease g b => execBarrierRelease g b s
  | .instructionFetch c => execInstructionFetch c s
  | .qfenceDone c => execQfenceDone c s
  | .wfenceDone c => execWfenceDone c s
  | .regionLimit c => execRegionLimit c s
  | .chunkTransfer c => execChunkTransfer c s
  | .engineOpStart c q => execEngineOpStart c q s
  | .engineOpPerformed c q => execEngineOpPerformed c q s
  | .fsigPerform c => execFsigPerform c s
  | .qpushAppend c => execQpushAppend c s
  | .scatterTrainApply c => execScatterTrainApply c s
  | .rredApply c => execRredApply c s
  | .macroSequencerRun c => execMacroSequencerRun c s
  | .pageHash n va => execPageHash n va s
  | .groupLull g => execGroupLull g s
  | .saveDone g => execSaveDone g s
  | .restoreDone g => execRestoreDone g s
  | .groupPlacement d => execGroupPlacement d s
  | .groupEnd g => execGroupEnd g s
  | .walkStart d => execWalkStart d s
  | .counterBlockRewrite d u => execCounterBlockRewrite d u s
  | .tileRecordAccept n => execTileRecordAccept n s
  | .stagingCopyDone c => execStagingCopyDone c s
  | .tileRecordComplete n => execTileRecordComplete n s
  | .tileFaultRecord n => execTileFaultRecord n s
  | .resetDrainDone n => execResetDrainDone n s
  | .kernelLoadChecksDone n k => execKernelLoadChecksDone n k s
  | .fuseBlow => .next s.blowFuse
  | .coreDue => .next { s with agenda := s.agenda ++ s.due s.cur }
  | .input i => exec i s

/-! ### The next turn -/

/-- The system context's write of sr.savebase (R114, Table 7.7), which no command of the tables makes: it takes effect between rounds. An address
that is not 64 KiB aligned changes nothing (log 48). -/
def State.takeSavebase (s : State) : State :=
  match s.saveWrite with
  | none => s
  | some v => { s with saveWrite := none, savebase := if v.extractLsb' 0 16 = 0 then v else s.savebase }

/-- The heads of the queues are read: a block of a ring that still waits for its walk is rewritten first (R372). -/
def State.settleHeads (s : State) : State :=
  if allDies.all (fun d => (s.die d).walks.isEmpty && (s.die d).waitWalks.isEmpty) then s
  else (List.range 65).foldl (fun s n => (List.range 64).foldl (fun s q =>
    let r := s.queue n q
    if r.st = .closed ∨ r.d = r.a then s
    else match s.slotAt n q r.d with
      | some a => s.settleRange a 64
      | none => s) s) s

/-- What the units of the package do by themselves after a round: lulls complete, records that wait for a ring slot are written,
records go to other packages, flows near the end of their sequences are renewed or lost (R393), messages and commands that waited are served, joins that are met complete, kernels unload, clocks change, queues dispatch. -/
def State.settleRound (s : State) : State :=
  let ns := List.range 65
  let s := s.takeSavebase.sendRecords
  let s := s.flows.foldl (fun s f => s.checkSeqs f.port f.no) s
  let s := (ns.filter (fun n => (s.ctx n).cmd.isSome)).foldl State.lullDone s
  let s := if s.refused.isEmpty then s else s.recordRefused
  let s := if s.faultWait.isEmpty then s else s.drainFaults
  let s := (ns.filter (fun n => (s.ctx n).queues.toList.any (fun r => !r.kept.isEmpty))).foldl
    (fun s n => (List.range 64).foldl (fun s q => s.writeKept n q) s) s
  let s := State.serveAll .a (s.waitingIn .a) s
  let s := State.serveAll .b (s.waitingIn .b) s
  let s := (ns.filter (fun n => !(s.ctx n).cmdQ.isEmpty)).foldl (fun s n => State.drainCmds n (s.ctx n).cmdQ.length s) s
  let s := ns.foldl State.settleJoins s
  let s := (ns.filter (fun n => (s.ctx n).kernels.toList.any (fun k => decide (k.st = .unloading)))).foldl State.reapKernels s
  s.applyClocks.settleHeads.schedule

/-- The CSYNCs that the cycle completes (R317). -/
def State.syncCores (s : State) : State :=
  (allCores.filter (fun c => decide ((s.core c).ctl.wait = some .csync))).foldl State.csyncComplete s

/-- Once every core has had its turn, the CSYNCs whose participants are ready complete (R317, R442), every cluster's cycle counter and the calender wheel advance (R15, R28), and what is due in
the package is gathered. -/
def State.tick (s : State) : State :=
  let s := s.syncCores.syncTiles
  let s := ({ s with clusters := s.clusters.map (fun k => { k with ccyc := k.ccyc + 1 }), wheel := (s.wheel + 1) % 1024 } : State).settleRound
  { s with agenda := s.packageDue, inputs := s.inputs.drop 1 }

/-- The next core's turn: the grid of the core that had its turn counts a cycle, and what is due at the next is
gathered; after a round, once what is due in the package has been performed. -/
def State.advance (s : State) : State :=
  let c := s.cur
  let s := if (s.core c).grp.isSome then s.modGrid c (fun g => { g with cyc := g.cyc + 1 }) else s
  if c = 511 then
    let s := s.tick
    { s with cur := 0, agenda := s.agenda ++ [.coreDue] }
  else { s with cur := c + 1, agenda := s.agenda ++ s.due (c + 1) }

/-- The turn of the core that the step serves, then the move to the next. -/
def State.coreTurn (s : State) : Host.Outcome State Fault Refusal :=
  match s.turn s.cur with
  | .next t => .next ({ t with cur := s.cur } : State).advance
  | .fault f => .fault f
  | .refused r => .refused r

end Sys2Proof.Machine
end

