-- ==== Sys2Proof/Machine/Load.lean ====
section
/-! DEFINITION. A program placed from outside (log 11): a context, a resident group of one core, a mapped page of code, and
a bundle at its first address. -/

namespace Sys2Proof.Machine

/-- The bundle that holds a table word: a header of 16 bits as it stands; a slot word in the first slot kind that reads it,
with STOP set and a literal of zero. -/
def bundleOf (nbits w : Nat) : List Byte :=
  if nbits = 16 then leBytes 2 w
  else
    let k := match firstKind (some 0) (BitVec.ofNat 32 w) kindOrder with
      | some (k, _) => k
      | none => .s
    leBytes 2 (slotPresence k + 32 + 128) ++ leBytes 4 w ++ leBytes 4 0
where
  slotPresence : SlotKind → Nat
    | .s => 1
    | .a => 2
    | .m => 4
    | .v => 8
    | .c => 16

/-- The page of code: the first frame of die 0, mapped at a 64 KiB page of context 1. -/
def loadVa : Word := 0x10000
def loadFrame : Nat := 1

/-- Context 1 with a translation of the code page, a group of one core on core 0, and the bytes of the bundle. -/
def State.placeWord (s : State) (nbits w : Nat) : State :=
  let bs := bundleOf nbits w
  let g : Group :=
    { id := 1, ctx := 1, kslot := 0, handle := 0, queue := 0, seq := 0, index := 0, count := 1, n := 1, st := .resident
      started := true, cores := [0], slots := [], param := 0, plen := 0
      env := { codeVa := loadVa, codeLen := 65536, entry := loadVa, xbext := 1048576, wbext := 1048576, gbext := 65536
               mode := .native, bmask := 0xFFFF, fmask := 0, fmt0 := 0, shp0 := shpDefault }
      bar := { p := Vector.replicate 16 0, arr := [], w := [], broken := false }
      die := 0, order := 0, prio := 0, passed := false, saved := [], prog := [], faults := 0, lullReq := false, tile := none
      lost := [] }
  let s := s.modFrame loadFrame (fun f => { f with st := .bound, owner := 1 })
  let s := s.modCore 0 (fun k => { k with
    ctl := { k.ctl with pc := loadVa, st := .run, wait := none, pendTrap := none, markNext := false, stall := 0 }
    seqr := none, grp := some 1
    utlb := [{ tag := 1, va := loadVa.toNat, size := 65536, pa := loadFrame * frameBytes, r := true, w := true, x := true, win := none }] })
  { s with cur := 0, agenda := [], groups := g :: s.groups.filter (fun h => decide (h.id ≠ 1))
           nextGroup := max s.nextGroup 2, mem := s.mem.store (loadFrame * frameBytes) bs
           boot := { s.boot with halted := false, booted := true } }

end Sys2Proof.Machine
end

