-- ==== Sys2Proof/Machine/Step.lean ====
section
/-! DEFINITION. One step of the machine: the event that is due first, or the turn of one core; and the placing of a word
where the next step fetches. -/

namespace Sys2Proof.Machine

/-- One step (log 4): a halted package takes a power-on, a loss of power or a reset, and nothing else of what comes in; the first event of the
agenda is performed; with none due, the core `cur` has its turn, in which it fetches and issues at most one packet. -/
def step (s : State) : Host.Outcome State Fault Refusal :=
  if s.boot.halted then
    match s.inputs with
    | .powerOn t :: rest => execPowerOn t { s with inputs := rest }
    | .powerLoss :: rest => execPowerLoss { s with inputs := rest }
    | .packageReset :: rest => execPackageReset { s with inputs := rest }
    | _ :: rest => .next { s with inputs := rest }
    | [] => .fault .halted
  else
    match s.agenda with
    | d :: rest => runDue d { s with agenda := rest }
    | [] => s.coreTurn

/-- The state with a table word of `nbits` bits placed where the next step fetches it (log 11). -/
def State.withFetchWord (s : State) (nbits w : Nat) : State := s.placeWord nbits w

end Sys2Proof.Machine
end

