-- ==== Sys2Proof/Laws/Memory.lean ====
section
/-! SUPPORT. Laws of the byte stores: the canonical form as an order and a non-zero condition, that every operation keeps
it, and what a read returns after a write. -/

namespace Sys2Proof.Machine

/-! ### The canonical form -/

/-- Addresses strictly rising and no byte zero: the canonical form as a proposition. -/
abbrev Memory.Canon (m : Memory) : Prop := m.Pairwise (fun c d => c.1 < d.1) ∧ ∀ c ∈ m, c.2 ≠ 0

theorem Memory.wf_cons_cons (c d : Host.Cell) (m : Memory) :
    Memory.wf (c :: d :: m) = (decide (c.2 ≠ 0) && decide (c.1 < d.1) && Memory.wf (d :: m)) := rfl

theorem Memory.wf_iff (m : Memory) : m.wf = true ↔ m.Canon := by
  induction m with
  | nil => simp [Memory.wf, Memory.Canon]
  | cons c m ih =>
    cases m with
    | nil => simp [Memory.wf, Memory.Canon]
    | cons d m =>
      rw [Memory.wf_cons_cons]
      simp only [Memory.Canon, Bool.and_eq_true, decide_eq_true_eq, ih, List.pairwise_cons, List.mem_cons, forall_eq_or_imp] at ih ⊢
      constructor
      · rintro ⟨⟨h0, h1⟩, ⟨h2, h3⟩, h4, h5⟩
        exact ⟨⟨⟨h1, fun a ha => Nat.lt_trans h1 (h2 a ha)⟩, h2, h3⟩, h0, h4, h5⟩
      · rintro ⟨⟨⟨h1, _⟩, h2, h3⟩, h0, h4, h5⟩
        exact ⟨⟨h0, h1⟩, ⟨h2, h3⟩, h4, h5⟩

theorem Memory.wf_nil : Memory.wf [] = true := rfl

theorem Memory.canon_filter {m : Memory} (h : m.Canon) (p : Host.Cell → Bool) : Memory.Canon (m.filter p) :=
  ⟨h.1.filter p, fun c hc => h.2 c (List.mem_filter.mp hc).1⟩

/-! ### Writing one byte -/

theorem Memory.mem_write {m : Memory} {a : Nat} {b : Byte} {c : Host.Cell} (h : c ∈ m.write a b) :
    c ∈ m ∨ (c = (a, b) ∧ b ≠ 0) := by
  induction m with
  | nil =>
    simp only [Memory.write] at h
    split at h <;> simp_all
  | cons d m ih =>
    simp only [Memory.write] at h
    split at h
    · split at h <;> simp_all
      rcases h with h | h | h <;> simp_all
    · split at h
      · split at h <;> simp_all
        rcases h with h | h <;> simp_all
      · rcases List.mem_cons.mp h with h | h
        · exact .inl (h ▸ List.mem_cons_self)
        · rcases ih h with h | h
          · exact .inl (List.mem_cons_of_mem _ h)
          · exact .inr h

theorem Memory.canon_write {m : Memory} (h : m.Canon) (a : Nat) (b : Byte) : (m.write a b).Canon := by
  refine ⟨?_, fun c hc => ?_⟩
  · induction m with
    | nil => simp only [Memory.write]; split <;> simp
    | cons d m ih =>
      have hd := List.pairwise_cons.mp h.1
      have hm : Memory.Canon m := ⟨hd.2, fun c hc => h.2 c (List.mem_cons_of_mem _ hc)⟩
      simp only [Memory.write]
      split
      · split
        · exact h.1
        · refine List.pairwise_cons.mpr ⟨fun c hc => ?_, h.1⟩
          rcases List.mem_cons.mp hc with rfl | hc
          · assumption
          · exact Nat.lt_trans ‹_› (hd.1 c hc)
      · split
        · split
          · exact hd.2
          · exact List.pairwise_cons.mpr ⟨fun c hc => by subst_vars; exact hd.1 c hc, hd.2⟩
        · refine List.pairwise_cons.mpr ⟨fun c hc => ?_, ih hm⟩
          rcases Memory.mem_write hc with hc | ⟨rfl, _⟩
          · exact hd.1 c hc
          · show d.1 < a
            omega
  · rcases Memory.mem_write hc with hc | ⟨rfl, hb⟩
    · exact h.2 c hc
    · exact hb

/-- A write keeps the canonical form. -/
theorem Memory.wf_write {m : Memory} (h : m.wf = true) (a : Nat) (b : Byte) : (m.write a b).wf = true :=
  (wf_iff _).2 (canon_write ((wf_iff _).1 h) a b)

/-- A read at an address below every listed one gives 0. -/
theorem Memory.read_below {m : Memory} {a : Nat} (h : ∀ c ∈ m, a < c.1) : m.read a = 0 := by
  induction m with
  | nil => rfl
  | cons c m ih =>
    have := h c List.mem_cons_self
    simp only [Memory.read, if_neg (show ¬ c.1 = a by omega)]
    exact ih fun d hd => h d (List.mem_cons_of_mem _ hd)

/-- A read of the byte just written (R5). -/
theorem Memory.read_write_self {m : Memory} (h : m.Canon) (a : Nat) (b : Byte) : (m.write a b).read a = b := by
  induction m with
  | nil =>
    simp only [Memory.write]
    split <;> simp_all [Memory.read]
  | cons d m ih =>
    have hd := List.pairwise_cons.mp h.1
    have hm : Memory.Canon m := ⟨hd.2, fun c hc => h.2 c (List.mem_cons_of_mem _ hc)⟩
    simp only [Memory.write]
    split
    · split
      · subst_vars
        refine read_below fun c hc => ?_
        rcases List.mem_cons.mp hc with rfl | hc
        · assumption
        · exact Nat.lt_trans ‹_› (hd.1 c hc)
      · simp [Memory.read]
    · split
      · split
        · subst_vars
          exact read_below fun c hc => hd.1 c hc
        · simp [Memory.read]
      · simp only [Memory.read, if_neg (show ¬ d.1 = a by omega)]
        exact ih hm

/-- A write leaves every other byte. -/
theorem Memory.read_write_ne {m : Memory} {a c : Nat} (hne : c ≠ a) (b : Byte) : (m.write a b).read c = m.read c := by
  induction m with
  | nil =>
    simp only [Memory.write]
    split
    · rfl
    · simp [Memory.read, Ne.symm hne]
  | cons d m ih =>
    simp only [Memory.write]
    split
    · split
      · rfl
      · simp [Memory.read, Ne.symm hne]
    · split
      · split
        · subst_vars; simp [Memory.read, Ne.symm hne]
        · subst_vars; simp [Memory.read, Ne.symm hne]
      · simp only [Memory.read, ih]

/-! ### Writing a run of bytes -/

theorem Memory.canon_store {m : Memory} (h : m.Canon) (a : Nat) (bs : List Byte) : (m.store a bs).Canon := by
  induction bs generalizing m a with
  | nil => exact h
  | cons b bs ih => exact ih (canon_write h a b) (a + 1)

/-- A store keeps the canonical form. -/
theorem Memory.wf_store {m : Memory} (h : m.wf = true) (a : Nat) (bs : List Byte) : (m.store a bs).wf = true :=
  (wf_iff _).2 (canon_store ((wf_iff _).1 h) a bs)

/-- A store leaves every byte outside its range. -/
theorem Memory.read_store_ne {m : Memory} {a c : Nat} (bs : List Byte) (h : c < a ∨ a + bs.length ≤ c) :
    (m.store a bs).read c = m.read c := by
  induction bs generalizing m a with
  | nil => rfl
  | cons b bs ih =>
    simp only [List.length_cons] at h
    rw [Memory.store, ih (by omega), read_write_ne (by omega)]

/-- A byte of a store reads as stored. -/
theorem Memory.read_store {m : Memory} (h : m.Canon) {a i : Nat} (bs : List Byte) (hi : i < bs.length) :
    (m.store a bs).read (a + i) = bs[i] := by
  induction bs generalizing m a i with
  | nil => exact absurd hi (by simp)
  | cons b bs ih =>
    rw [Memory.store]
    cases i with
    | zero => exact (read_store_ne bs (.inl (by omega))).trans (read_write_self h a b)
    | succ i =>
      rw [show a + (i + 1) = a + 1 + i by omega, ih (canon_write h a b) (by simpa using hi)]
      rfl

/-! ### Clearing and copying -/

/-- Clearing a range keeps the canonical form. -/
theorem Memory.wf_clear {m : Memory} (h : m.wf = true) (a n : Nat) : (m.clear a n).wf = true :=
  (wf_iff _).2 (canon_filter ((wf_iff _).1 h) _)

/-- A block copy between canonical stores gives a canonical store. -/
theorem Memory.wf_blit {d s : Memory} (hd : d.wf = true) (hs : s.wf = true) (da sa n : Nat) : (d.blit da s sa n).wf = true := by
  rw [wf_iff] at *
  have lo := canon_filter hd (fun c => decide (c.1 < da))
  have hi := canon_filter hd (fun c => decide (da + n ≤ c.1))
  have mid := canon_filter hs (fun c => decide (sa ≤ c.1 ∧ c.1 < sa + n))
  have inMid : ∀ c ∈ (s.filter (fun c => decide (sa ≤ c.1 ∧ c.1 < sa + n))).map (fun c : Host.Cell => (c.1 - sa + da, c.2)),
      da ≤ c.1 ∧ c.1 < da + n := by
    intro c hc
    obtain ⟨e, he, rfl⟩ := List.mem_map.mp hc
    have := (List.mem_filter.mp he).2
    simp only [decide_eq_true_eq] at this
    exact ⟨by show da ≤ e.1 - sa + da; omega, by show e.1 - sa + da < da + n; omega⟩
  have inLo : ∀ c ∈ d.filter (fun c => decide (c.1 < da)), c.1 < da := fun c hc => by simpa using (List.mem_filter.mp hc).2
  have inHi : ∀ c ∈ d.filter (fun c => decide (da + n ≤ c.1)), da + n ≤ c.1 := fun c hc => by simpa using (List.mem_filter.mp hc).2
  refine ⟨?_, fun c hc => ?_⟩
  · refine List.pairwise_append.mpr ⟨List.pairwise_append.mpr ⟨lo.1, ?_, fun a ha b hb => ?_⟩, hi.1, fun a ha b hb => ?_⟩
    · refine List.pairwise_map.mpr (mid.1.imp_of_mem fun {a b} ha hb h => ?_)
      have h1 := (List.mem_filter.mp ha).2
      simp only [decide_eq_true_eq] at h1
      show a.1 - sa + da < b.1 - sa + da
      omega
    · have := inLo a ha
      have := inMid b hb
      omega
    · have h2 := inHi b hb
      rcases List.mem_append.mp ha with ha | ha
      · have := inLo a ha
        omega
      · have := inMid a ha
        omega
  · rcases List.mem_append.mp hc with hc | hc
    · rcases List.mem_append.mp hc with hc | hc
      · exact lo.2 c hc
      · obtain ⟨e, he, rfl⟩ := List.mem_map.mp hc
        exact mid.2 e he
    · exact hi.2 c hc

end Sys2Proof.Machine
end

