-- ==== Sys2Proof/Laws/State.lean ====
section
/-! SUPPORT. What the updates of the state leave alone: one lemma for each field and update, and what a core reads after
an update of it. -/

namespace Sys2Proof.Machine

/-! ### The named updates as updates of a core -/

theorem State.modMe_eq (s : State) (f : Core → Core) : s.modMe f = s.modCore s.cur f := rfl
theorem State.modGrid_eq (s : State) (c : CoreIx) (f : Grid → Grid) :
    s.modGrid c f = s.modCore c (fun k => { k with grid := f k.grid }) := rfl
theorem State.modRs_eq (s : State) (c : CoreIx) (f : Restart → Restart) :
    s.modRs c f = s.modCore c (fun k => { k with rs := f k.rs }) := rfl
theorem State.modCtl_eq (s : State) (c : CoreIx) (f : Ctl → Ctl) :
    s.modCtl c f = s.modCore c (fun k => { k with ctl := f k.ctl }) := rfl
theorem State.modCore_eq (s : State) (c : CoreIx) (f : Core → Core) : s.modCore c f = s.setCore c (f (s.core c)) := rfl


/-! ### A core replaced -/

@[simp] theorem State.setCore_cur (s : State) (c : CoreIx) (k : Core) : (s.setCore c k).cur = s.cur := rfl
@[simp] theorem State.setCore_agenda (s : State) (c : CoreIx) (k : Core) : (s.setCore c k).agenda = s.agenda := rfl
@[simp] theorem State.setCore_inputs (s : State) (c : CoreIx) (k : Core) : (s.setCore c k).inputs = s.inputs := rfl
@[simp] theorem State.setCore_slot (s : State) (c : CoreIx) (k : Core) : (s.setCore c k).slot = s.slot := rfl
@[simp] theorem State.setCore_free (s : State) (c : CoreIx) (k : Core) : (s.setCore c k).free = s.free := rfl
@[simp] theorem State.setCore_wheel (s : State) (c : CoreIx) (k : Core) : (s.setCore c k).wheel = s.wheel := rfl
@[simp] theorem State.setCore_pkg (s : State) (c : CoreIx) (k : Core) : (s.setCore c k).pkg = s.pkg := rfl
@[simp] theorem State.setCore_clusters (s : State) (c : CoreIx) (k : Core) : (s.setCore c k).clusters = s.clusters := rfl
@[simp] theorem State.setCore_dies (s : State) (c : CoreIx) (k : Core) : (s.setCore c k).dies = s.dies := rfl
@[simp] theorem State.setCore_ctxs (s : State) (c : CoreIx) (k : Core) : (s.setCore c k).ctxs = s.ctxs := rfl
@[simp] theorem State.setCore_parts (s : State) (c : CoreIx) (k : Core) : (s.setCore c k).parts = s.parts := rfl
@[simp] theorem State.setCore_groups (s : State) (c : CoreIx) (k : Core) : (s.setCore c k).groups = s.groups := rfl
@[simp] theorem State.setCore_nextGroup (s : State) (c : CoreIx) (k : Core) : (s.setCore c k).nextGroup = s.nextGroup := rfl
@[simp] theorem State.setCore_dispatched (s : State) (c : CoreIx) (k : Core) : (s.setCore c k).dispatched = s.dispatched := rfl
@[simp] theorem State.setCore_savebase (s : State) (c : CoreIx) (k : Core) : (s.setCore c k).savebase = s.savebase := rfl
@[simp] theorem State.setCore_saveWrite (s : State) (c : CoreIx) (k : Core) : (s.setCore c k).saveWrite = s.saveWrite := rfl
@[simp] theorem State.setCore_partStatus (s : State) (c : CoreIx) (k : Core) : (s.setCore c k).partStatus = s.partStatus := rfl
@[simp] theorem State.setCore_slotsUsed (s : State) (c : CoreIx) (k : Core) : (s.setCore c k).slotsUsed = s.slotsUsed := rfl
@[simp] theorem State.setCore_mem (s : State) (c : CoreIx) (k : Core) : (s.setCore c k).mem = s.mem := rfl
@[simp] theorem State.setCore_frames (s : State) (c : CoreIx) (k : Core) : (s.setCore c k).frames = s.frames := rfl
@[simp] theorem State.setCore_units (s : State) (c : CoreIx) (k : Core) : (s.setCore c k).units = s.units := rfl
@[simp] theorem State.setCore_caches (s : State) (c : CoreIx) (k : Core) : (s.setCore c k).caches = s.caches := rfl
@[simp] theorem State.setCore_refused (s : State) (c : CoreIx) (k : Core) : (s.setCore c k).refused = s.refused := rfl
@[simp] theorem State.setCore_blocks (s : State) (c : CoreIx) (k : Core) : (s.setCore c k).blocks = s.blocks := rfl
@[simp] theorem State.setCore_windows (s : State) (c : CoreIx) (k : Core) : (s.setCore c k).windows = s.windows := rfl
@[simp] theorem State.setCore_winCount (s : State) (c : CoreIx) (k : Core) : (s.setCore c k).winCount = s.winCount := rfl
@[simp] theorem State.setCore_keyCount (s : State) (c : CoreIx) (k : Core) : (s.setCore c k).keyCount = s.keyCount := rfl
@[simp] theorem State.setCore_ring (s : State) (c : CoreIx) (k : Core) : (s.setCore c k).ring = s.ring := rfl
@[simp] theorem State.setCore_faults (s : State) (c : CoreIx) (k : Core) : (s.setCore c k).faults = s.faults := rfl
@[simp] theorem State.setCore_faultCount (s : State) (c : CoreIx) (k : Core) : (s.setCore c k).faultCount = s.faultCount := rfl
@[simp] theorem State.setCore_faultWait (s : State) (c : CoreIx) (k : Core) : (s.setCore c k).faultWait = s.faultWait := rfl
@[simp] theorem State.setCore_flows (s : State) (c : CoreIx) (k : Core) : (s.setCore c k).flows = s.flows := rfl
@[simp] theorem State.setCore_ports (s : State) (c : CoreIx) (k : Core) : (s.setCore c k).ports = s.ports := rfl
@[simp] theorem State.setCore_links (s : State) (c : CoreIx) (k : Core) : (s.setCore c k).links = s.links := rfl
@[simp] theorem State.setCore_routes (s : State) (c : CoreIx) (k : Core) : (s.setCore c k).routes = s.routes := rfl
@[simp] theorem State.setCore_flitHeld (s : State) (c : CoreIx) (k : Core) : (s.setCore c k).flitHeld = s.flitHeld := rfl
@[simp] theorem State.setCore_routeTx (s : State) (c : CoreIx) (k : Core) : (s.setCore c k).routeTx = s.routeTx := rfl
@[simp] theorem State.setCore_unreachPkg (s : State) (c : CoreIx) (k : Core) : (s.setCore c k).unreachPkg = s.unreachPkg := rfl
@[simp] theorem State.setCore_delivered (s : State) (c : CoreIx) (k : Core) : (s.setCore c k).delivered = s.delivered := rfl
@[simp] theorem State.setCore_hostReqs (s : State) (c : CoreIx) (k : Core) : (s.setCore c k).hostReqs = s.hostReqs := rfl
@[simp] theorem State.setCore_reqCount (s : State) (c : CoreIx) (k : Core) : (s.setCore c k).reqCount = s.reqCount := rfl
@[simp] theorem State.setCore_out (s : State) (c : CoreIx) (k : Core) : (s.setCore c k).out = s.out := rfl
@[simp] theorem State.setCore_waitOut (s : State) (c : CoreIx) (k : Core) : (s.setCore c k).waitOut = s.waitOut := rfl
@[simp] theorem State.setCore_tiles (s : State) (c : CoreIx) (k : Core) : (s.setCore c k).tiles = s.tiles := rfl
@[simp] theorem State.setCore_tileCount (s : State) (c : CoreIx) (k : Core) : (s.setCore c k).tileCount = s.tileCount := rfl
@[simp] theorem State.setCore_codekeys (s : State) (c : CoreIx) (k : Core) : (s.setCore c k).codekeys = s.codekeys := rfl
@[simp] theorem State.setCore_mkeys (s : State) (c : CoreIx) (k : Core) : (s.setCore c k).mkeys = s.mkeys := rfl
@[simp] theorem State.setCore_boot (s : State) (c : CoreIx) (k : Core) : (s.setCore c k).boot = s.boot := rfl
@[simp] theorem State.setCore_errCounts (s : State) (c : CoreIx) (k : Core) : (s.setCore c k).errCounts = s.errCounts := rfl
@[simp] theorem State.setCore_errSent (s : State) (c : CoreIx) (k : Core) : (s.setCore c k).errSent = s.errSent := rfl

@[simp] theorem State.modCore_cur (s : State) (c : CoreIx) (f : Core → Core) : (s.modCore c f).cur = s.cur := rfl
@[simp] theorem State.modCore_agenda (s : State) (c : CoreIx) (f : Core → Core) : (s.modCore c f).agenda = s.agenda := rfl
@[simp] theorem State.modCore_inputs (s : State) (c : CoreIx) (f : Core → Core) : (s.modCore c f).inputs = s.inputs := rfl
@[simp] theorem State.modCore_slot (s : State) (c : CoreIx) (f : Core → Core) : (s.modCore c f).slot = s.slot := rfl
@[simp] theorem State.modCore_free (s : State) (c : CoreIx) (f : Core → Core) : (s.modCore c f).free = s.free := rfl
@[simp] theorem State.modCore_wheel (s : State) (c : CoreIx) (f : Core → Core) : (s.modCore c f).wheel = s.wheel := rfl
@[simp] theorem State.modCore_pkg (s : State) (c : CoreIx) (f : Core → Core) : (s.modCore c f).pkg = s.pkg := rfl
@[simp] theorem State.modCore_clusters (s : State) (c : CoreIx) (f : Core → Core) : (s.modCore c f).clusters = s.clusters := rfl
@[simp] theorem State.modCore_dies (s : State) (c : CoreIx) (f : Core → Core) : (s.modCore c f).dies = s.dies := rfl
@[simp] theorem State.modCore_ctxs (s : State) (c : CoreIx) (f : Core → Core) : (s.modCore c f).ctxs = s.ctxs := rfl
@[simp] theorem State.modCore_parts (s : State) (c : CoreIx) (f : Core → Core) : (s.modCore c f).parts = s.parts := rfl
@[simp] theorem State.modCore_groups (s : State) (c : CoreIx) (f : Core → Core) : (s.modCore c f).groups = s.groups := rfl
@[simp] theorem State.modCore_nextGroup (s : State) (c : CoreIx) (f : Core → Core) : (s.modCore c f).nextGroup = s.nextGroup := rfl
@[simp] theorem State.modCore_dispatched (s : State) (c : CoreIx) (f : Core → Core) : (s.modCore c f).dispatched = s.dispatched := rfl
@[simp] theorem State.modCore_savebase (s : State) (c : CoreIx) (f : Core → Core) : (s.modCore c f).savebase = s.savebase := rfl
@[simp] theorem State.modCore_saveWrite (s : State) (c : CoreIx) (f : Core → Core) : (s.modCore c f).saveWrite = s.saveWrite := rfl
@[simp] theorem State.modCore_partStatus (s : State) (c : CoreIx) (f : Core → Core) : (s.modCore c f).partStatus = s.partStatus := rfl
@[simp] theorem State.modCore_slotsUsed (s : State) (c : CoreIx) (f : Core → Core) : (s.modCore c f).slotsUsed = s.slotsUsed := rfl
@[simp] theorem State.modCore_mem (s : State) (c : CoreIx) (f : Core → Core) : (s.modCore c f).mem = s.mem := rfl
@[simp] theorem State.modCore_frames (s : State) (c : CoreIx) (f : Core → Core) : (s.modCore c f).frames = s.frames := rfl
@[simp] theorem State.modCore_units (s : State) (c : CoreIx) (f : Core → Core) : (s.modCore c f).units = s.units := rfl
@[simp] theorem State.modCore_caches (s : State) (c : CoreIx) (f : Core → Core) : (s.modCore c f).caches = s.caches := rfl
@[simp] theorem State.modCore_refused (s : State) (c : CoreIx) (f : Core → Core) : (s.modCore c f).refused = s.refused := rfl
@[simp] theorem State.modCore_blocks (s : State) (c : CoreIx) (f : Core → Core) : (s.modCore c f).blocks = s.blocks := rfl
@[simp] theorem State.modCore_windows (s : State) (c : CoreIx) (f : Core → Core) : (s.modCore c f).windows = s.windows := rfl
@[simp] theorem State.modCore_winCount (s : State) (c : CoreIx) (f : Core → Core) : (s.modCore c f).winCount = s.winCount := rfl
@[simp] theorem State.modCore_keyCount (s : State) (c : CoreIx) (f : Core → Core) : (s.modCore c f).keyCount = s.keyCount := rfl
@[simp] theorem State.modCore_ring (s : State) (c : CoreIx) (f : Core → Core) : (s.modCore c f).ring = s.ring := rfl
@[simp] theorem State.modCore_faults (s : State) (c : CoreIx) (f : Core → Core) : (s.modCore c f).faults = s.faults := rfl
@[simp] theorem State.modCore_faultCount (s : State) (c : CoreIx) (f : Core → Core) : (s.modCore c f).faultCount = s.faultCount := rfl
@[simp] theorem State.modCore_faultWait (s : State) (c : CoreIx) (f : Core → Core) : (s.modCore c f).faultWait = s.faultWait := rfl
@[simp] theorem State.modCore_flows (s : State) (c : CoreIx) (f : Core → Core) : (s.modCore c f).flows = s.flows := rfl
@[simp] theorem State.modCore_ports (s : State) (c : CoreIx) (f : Core → Core) : (s.modCore c f).ports = s.ports := rfl
@[simp] theorem State.modCore_links (s : State) (c : CoreIx) (f : Core → Core) : (s.modCore c f).links = s.links := rfl
@[simp] theorem State.modCore_routes (s : State) (c : CoreIx) (f : Core → Core) : (s.modCore c f).routes = s.routes := rfl
@[simp] theorem State.modCore_flitHeld (s : State) (c : CoreIx) (f : Core → Core) : (s.modCore c f).flitHeld = s.flitHeld := rfl
@[simp] theorem State.modCore_routeTx (s : State) (c : CoreIx) (f : Core → Core) : (s.modCore c f).routeTx = s.routeTx := rfl
@[simp] theorem State.modCore_unreachPkg (s : State) (c : CoreIx) (f : Core → Core) : (s.modCore c f).unreachPkg = s.unreachPkg := rfl
@[simp] theorem State.modCore_delivered (s : State) (c : CoreIx) (f : Core → Core) : (s.modCore c f).delivered = s.delivered := rfl
@[simp] theorem State.modCore_hostReqs (s : State) (c : CoreIx) (f : Core → Core) : (s.modCore c f).hostReqs = s.hostReqs := rfl
@[simp] theorem State.modCore_reqCount (s : State) (c : CoreIx) (f : Core → Core) : (s.modCore c f).reqCount = s.reqCount := rfl
@[simp] theorem State.modCore_out (s : State) (c : CoreIx) (f : Core → Core) : (s.modCore c f).out = s.out := rfl
@[simp] theorem State.modCore_waitOut (s : State) (c : CoreIx) (f : Core → Core) : (s.modCore c f).waitOut = s.waitOut := rfl
@[simp] theorem State.modCore_tiles (s : State) (c : CoreIx) (f : Core → Core) : (s.modCore c f).tiles = s.tiles := rfl
@[simp] theorem State.modCore_tileCount (s : State) (c : CoreIx) (f : Core → Core) : (s.modCore c f).tileCount = s.tileCount := rfl
@[simp] theorem State.modCore_codekeys (s : State) (c : CoreIx) (f : Core → Core) : (s.modCore c f).codekeys = s.codekeys := rfl
@[simp] theorem State.modCore_mkeys (s : State) (c : CoreIx) (f : Core → Core) : (s.modCore c f).mkeys = s.mkeys := rfl
@[simp] theorem State.modCore_boot (s : State) (c : CoreIx) (f : Core → Core) : (s.modCore c f).boot = s.boot := rfl
@[simp] theorem State.modCore_errCounts (s : State) (c : CoreIx) (f : Core → Core) : (s.modCore c f).errCounts = s.errCounts := rfl
@[simp] theorem State.modCore_errSent (s : State) (c : CoreIx) (f : Core → Core) : (s.modCore c f).errSent = s.errSent := rfl

/-! ### The slot context -/

@[simp] theorem State.modSlot_cur (s : State) (f : SlotCtx → SlotCtx) : (s.modSlot f).cur = s.cur := rfl
@[simp] theorem State.modSlot_agenda (s : State) (f : SlotCtx → SlotCtx) : (s.modSlot f).agenda = s.agenda := rfl
@[simp] theorem State.modSlot_inputs (s : State) (f : SlotCtx → SlotCtx) : (s.modSlot f).inputs = s.inputs := rfl
@[simp] theorem State.modSlot_free (s : State) (f : SlotCtx → SlotCtx) : (s.modSlot f).free = s.free := rfl
@[simp] theorem State.modSlot_wheel (s : State) (f : SlotCtx → SlotCtx) : (s.modSlot f).wheel = s.wheel := rfl
@[simp] theorem State.modSlot_pkg (s : State) (f : SlotCtx → SlotCtx) : (s.modSlot f).pkg = s.pkg := rfl
@[simp] theorem State.modSlot_cores (s : State) (f : SlotCtx → SlotCtx) : (s.modSlot f).cores = s.cores := rfl
@[simp] theorem State.modSlot_clusters (s : State) (f : SlotCtx → SlotCtx) : (s.modSlot f).clusters = s.clusters := rfl
@[simp] theorem State.modSlot_dies (s : State) (f : SlotCtx → SlotCtx) : (s.modSlot f).dies = s.dies := rfl
@[simp] theorem State.modSlot_ctxs (s : State) (f : SlotCtx → SlotCtx) : (s.modSlot f).ctxs = s.ctxs := rfl
@[simp] theorem State.modSlot_parts (s : State) (f : SlotCtx → SlotCtx) : (s.modSlot f).parts = s.parts := rfl
@[simp] theorem State.modSlot_groups (s : State) (f : SlotCtx → SlotCtx) : (s.modSlot f).groups = s.groups := rfl
@[simp] theorem State.modSlot_nextGroup (s : State) (f : SlotCtx → SlotCtx) : (s.modSlot f).nextGroup = s.nextGroup := rfl
@[simp] theorem State.modSlot_dispatched (s : State) (f : SlotCtx → SlotCtx) : (s.modSlot f).dispatched = s.dispatched := rfl
@[simp] theorem State.modSlot_savebase (s : State) (f : SlotCtx → SlotCtx) : (s.modSlot f).savebase = s.savebase := rfl
@[simp] theorem State.modSlot_saveWrite (s : State) (f : SlotCtx → SlotCtx) : (s.modSlot f).saveWrite = s.saveWrite := rfl
@[simp] theorem State.modSlot_partStatus (s : State) (f : SlotCtx → SlotCtx) : (s.modSlot f).partStatus = s.partStatus := rfl
@[simp] theorem State.modSlot_slotsUsed (s : State) (f : SlotCtx → SlotCtx) : (s.modSlot f).slotsUsed = s.slotsUsed := rfl
@[simp] theorem State.modSlot_mem (s : State) (f : SlotCtx → SlotCtx) : (s.modSlot f).mem = s.mem := rfl
@[simp] theorem State.modSlot_frames (s : State) (f : SlotCtx → SlotCtx) : (s.modSlot f).frames = s.frames := rfl
@[simp] theorem State.modSlot_units (s : State) (f : SlotCtx → SlotCtx) : (s.modSlot f).units = s.units := rfl
@[simp] theorem State.modSlot_caches (s : State) (f : SlotCtx → SlotCtx) : (s.modSlot f).caches = s.caches := rfl
@[simp] theorem State.modSlot_refused (s : State) (f : SlotCtx → SlotCtx) : (s.modSlot f).refused = s.refused := rfl
@[simp] theorem State.modSlot_blocks (s : State) (f : SlotCtx → SlotCtx) : (s.modSlot f).blocks = s.blocks := rfl
@[simp] theorem State.modSlot_windows (s : State) (f : SlotCtx → SlotCtx) : (s.modSlot f).windows = s.windows := rfl
@[simp] theorem State.modSlot_winCount (s : State) (f : SlotCtx → SlotCtx) : (s.modSlot f).winCount = s.winCount := rfl
@[simp] theorem State.modSlot_keyCount (s : State) (f : SlotCtx → SlotCtx) : (s.modSlot f).keyCount = s.keyCount := rfl
@[simp] theorem State.modSlot_ring (s : State) (f : SlotCtx → SlotCtx) : (s.modSlot f).ring = s.ring := rfl
@[simp] theorem State.modSlot_faults (s : State) (f : SlotCtx → SlotCtx) : (s.modSlot f).faults = s.faults := rfl
@[simp] theorem State.modSlot_faultCount (s : State) (f : SlotCtx → SlotCtx) : (s.modSlot f).faultCount = s.faultCount := rfl
@[simp] theorem State.modSlot_faultWait (s : State) (f : SlotCtx → SlotCtx) : (s.modSlot f).faultWait = s.faultWait := rfl
@[simp] theorem State.modSlot_flows (s : State) (f : SlotCtx → SlotCtx) : (s.modSlot f).flows = s.flows := rfl
@[simp] theorem State.modSlot_ports (s : State) (f : SlotCtx → SlotCtx) : (s.modSlot f).ports = s.ports := rfl
@[simp] theorem State.modSlot_links (s : State) (f : SlotCtx → SlotCtx) : (s.modSlot f).links = s.links := rfl
@[simp] theorem State.modSlot_routes (s : State) (f : SlotCtx → SlotCtx) : (s.modSlot f).routes = s.routes := rfl
@[simp] theorem State.modSlot_flitHeld (s : State) (f : SlotCtx → SlotCtx) : (s.modSlot f).flitHeld = s.flitHeld := rfl
@[simp] theorem State.modSlot_routeTx (s : State) (f : SlotCtx → SlotCtx) : (s.modSlot f).routeTx = s.routeTx := rfl
@[simp] theorem State.modSlot_unreachPkg (s : State) (f : SlotCtx → SlotCtx) : (s.modSlot f).unreachPkg = s.unreachPkg := rfl
@[simp] theorem State.modSlot_delivered (s : State) (f : SlotCtx → SlotCtx) : (s.modSlot f).delivered = s.delivered := rfl
@[simp] theorem State.modSlot_hostReqs (s : State) (f : SlotCtx → SlotCtx) : (s.modSlot f).hostReqs = s.hostReqs := rfl
@[simp] theorem State.modSlot_reqCount (s : State) (f : SlotCtx → SlotCtx) : (s.modSlot f).reqCount = s.reqCount := rfl
@[simp] theorem State.modSlot_out (s : State) (f : SlotCtx → SlotCtx) : (s.modSlot f).out = s.out := rfl
@[simp] theorem State.modSlot_waitOut (s : State) (f : SlotCtx → SlotCtx) : (s.modSlot f).waitOut = s.waitOut := rfl
@[simp] theorem State.modSlot_tiles (s : State) (f : SlotCtx → SlotCtx) : (s.modSlot f).tiles = s.tiles := rfl
@[simp] theorem State.modSlot_tileCount (s : State) (f : SlotCtx → SlotCtx) : (s.modSlot f).tileCount = s.tileCount := rfl
@[simp] theorem State.modSlot_codekeys (s : State) (f : SlotCtx → SlotCtx) : (s.modSlot f).codekeys = s.codekeys := rfl
@[simp] theorem State.modSlot_mkeys (s : State) (f : SlotCtx → SlotCtx) : (s.modSlot f).mkeys = s.mkeys := rfl
@[simp] theorem State.modSlot_boot (s : State) (f : SlotCtx → SlotCtx) : (s.modSlot f).boot = s.boot := rfl
@[simp] theorem State.modSlot_errCounts (s : State) (f : SlotCtx → SlotCtx) : (s.modSlot f).errCounts = s.errCounts := rfl
@[simp] theorem State.modSlot_errSent (s : State) (f : SlotCtx → SlotCtx) : (s.modSlot f).errSent = s.errSent := rfl
@[simp] theorem State.modSlot_slot (s : State) (f : SlotCtx → SlotCtx) : (s.modSlot f).slot = f s.slot := rfl

/-! ### A group -/

@[simp] theorem State.modGroup_cur (s : State) (g : Nat) (f : Group → Group) : (s.modGroup g f).cur = s.cur := rfl
@[simp] theorem State.modGroup_agenda (s : State) (g : Nat) (f : Group → Group) : (s.modGroup g f).agenda = s.agenda := rfl
@[simp] theorem State.modGroup_inputs (s : State) (g : Nat) (f : Group → Group) : (s.modGroup g f).inputs = s.inputs := rfl
@[simp] theorem State.modGroup_slot (s : State) (g : Nat) (f : Group → Group) : (s.modGroup g f).slot = s.slot := rfl
@[simp] theorem State.modGroup_free (s : State) (g : Nat) (f : Group → Group) : (s.modGroup g f).free = s.free := rfl
@[simp] theorem State.modGroup_wheel (s : State) (g : Nat) (f : Group → Group) : (s.modGroup g f).wheel = s.wheel := rfl
@[simp] theorem State.modGroup_pkg (s : State) (g : Nat) (f : Group → Group) : (s.modGroup g f).pkg = s.pkg := rfl
@[simp] theorem State.modGroup_cores (s : State) (g : Nat) (f : Group → Group) : (s.modGroup g f).cores = s.cores := rfl
@[simp] theorem State.modGroup_clusters (s : State) (g : Nat) (f : Group → Group) : (s.modGroup g f).clusters = s.clusters := rfl
@[simp] theorem State.modGroup_dies (s : State) (g : Nat) (f : Group → Group) : (s.modGroup g f).dies = s.dies := rfl
@[simp] theorem State.modGroup_ctxs (s : State) (g : Nat) (f : Group → Group) : (s.modGroup g f).ctxs = s.ctxs := rfl
@[simp] theorem State.modGroup_parts (s : State) (g : Nat) (f : Group → Group) : (s.modGroup g f).parts = s.parts := rfl
@[simp] theorem State.modGroup_nextGroup (s : State) (g : Nat) (f : Group → Group) : (s.modGroup g f).nextGroup = s.nextGroup := rfl
@[simp] theorem State.modGroup_dispatched (s : State) (g : Nat) (f : Group → Group) : (s.modGroup g f).dispatched = s.dispatched := rfl
@[simp] theorem State.modGroup_savebase (s : State) (g : Nat) (f : Group → Group) : (s.modGroup g f).savebase = s.savebase := rfl
@[simp] theorem State.modGroup_saveWrite (s : State) (g : Nat) (f : Group → Group) : (s.modGroup g f).saveWrite = s.saveWrite := rfl
@[simp] theorem State.modGroup_partStatus (s : State) (g : Nat) (f : Group → Group) : (s.modGroup g f).partStatus = s.partStatus := rfl
@[simp] theorem State.modGroup_slotsUsed (s : State) (g : Nat) (f : Group → Group) : (s.modGroup g f).slotsUsed = s.slotsUsed := rfl
@[simp] theorem State.modGroup_mem (s : State) (g : Nat) (f : Group → Group) : (s.modGroup g f).mem = s.mem := rfl
@[simp] theorem State.modGroup_frames (s : State) (g : Nat) (f : Group → Group) : (s.modGroup g f).frames = s.frames := rfl
@[simp] theorem State.modGroup_units (s : State) (g : Nat) (f : Group → Group) : (s.modGroup g f).units = s.units := rfl
@[simp] theorem State.modGroup_caches (s : State) (g : Nat) (f : Group → Group) : (s.modGroup g f).caches = s.caches := rfl
@[simp] theorem State.modGroup_refused (s : State) (g : Nat) (f : Group → Group) : (s.modGroup g f).refused = s.refused := rfl
@[simp] theorem State.modGroup_blocks (s : State) (g : Nat) (f : Group → Group) : (s.modGroup g f).blocks = s.blocks := rfl
@[simp] theorem State.modGroup_windows (s : State) (g : Nat) (f : Group → Group) : (s.modGroup g f).windows = s.windows := rfl
@[simp] theorem State.modGroup_winCount (s : State) (g : Nat) (f : Group → Group) : (s.modGroup g f).winCount = s.winCount := rfl
@[simp] theorem State.modGroup_keyCount (s : State) (g : Nat) (f : Group → Group) : (s.modGroup g f).keyCount = s.keyCount := rfl
@[simp] theorem State.modGroup_ring (s : State) (g : Nat) (f : Group → Group) : (s.modGroup g f).ring = s.ring := rfl
@[simp] theorem State.modGroup_faults (s : State) (g : Nat) (f : Group → Group) : (s.modGroup g f).faults = s.faults := rfl
@[simp] theorem State.modGroup_faultCount (s : State) (g : Nat) (f : Group → Group) : (s.modGroup g f).faultCount = s.faultCount := rfl
@[simp] theorem State.modGroup_faultWait (s : State) (g : Nat) (f : Group → Group) : (s.modGroup g f).faultWait = s.faultWait := rfl
@[simp] theorem State.modGroup_flows (s : State) (g : Nat) (f : Group → Group) : (s.modGroup g f).flows = s.flows := rfl
@[simp] theorem State.modGroup_ports (s : State) (g : Nat) (f : Group → Group) : (s.modGroup g f).ports = s.ports := rfl
@[simp] theorem State.modGroup_links (s : State) (g : Nat) (f : Group → Group) : (s.modGroup g f).links = s.links := rfl
@[simp] theorem State.modGroup_routes (s : State) (g : Nat) (f : Group → Group) : (s.modGroup g f).routes = s.routes := rfl
@[simp] theorem State.modGroup_flitHeld (s : State) (g : Nat) (f : Group → Group) : (s.modGroup g f).flitHeld = s.flitHeld := rfl
@[simp] theorem State.modGroup_routeTx (s : State) (g : Nat) (f : Group → Group) : (s.modGroup g f).routeTx = s.routeTx := rfl
@[simp] theorem State.modGroup_unreachPkg (s : State) (g : Nat) (f : Group → Group) : (s.modGroup g f).unreachPkg = s.unreachPkg := rfl
@[simp] theorem State.modGroup_delivered (s : State) (g : Nat) (f : Group → Group) : (s.modGroup g f).delivered = s.delivered := rfl
@[simp] theorem State.modGroup_hostReqs (s : State) (g : Nat) (f : Group → Group) : (s.modGroup g f).hostReqs = s.hostReqs := rfl
@[simp] theorem State.modGroup_reqCount (s : State) (g : Nat) (f : Group → Group) : (s.modGroup g f).reqCount = s.reqCount := rfl
@[simp] theorem State.modGroup_out (s : State) (g : Nat) (f : Group → Group) : (s.modGroup g f).out = s.out := rfl
@[simp] theorem State.modGroup_waitOut (s : State) (g : Nat) (f : Group → Group) : (s.modGroup g f).waitOut = s.waitOut := rfl
@[simp] theorem State.modGroup_tiles (s : State) (g : Nat) (f : Group → Group) : (s.modGroup g f).tiles = s.tiles := rfl
@[simp] theorem State.modGroup_tileCount (s : State) (g : Nat) (f : Group → Group) : (s.modGroup g f).tileCount = s.tileCount := rfl
@[simp] theorem State.modGroup_codekeys (s : State) (g : Nat) (f : Group → Group) : (s.modGroup g f).codekeys = s.codekeys := rfl
@[simp] theorem State.modGroup_mkeys (s : State) (g : Nat) (f : Group → Group) : (s.modGroup g f).mkeys = s.mkeys := rfl
@[simp] theorem State.modGroup_boot (s : State) (g : Nat) (f : Group → Group) : (s.modGroup g f).boot = s.boot := rfl
@[simp] theorem State.modGroup_errCounts (s : State) (g : Nat) (f : Group → Group) : (s.modGroup g f).errCounts = s.errCounts := rfl
@[simp] theorem State.modGroup_errSent (s : State) (g : Nat) (f : Group → Group) : (s.modGroup g f).errSent = s.errSent := rfl

/-! ### A die and a cluster -/

@[simp] theorem State.modDie_cur (s : State) (d : BitVec 2) (f : Die → Die) : (s.modDie d f).cur = s.cur := rfl
@[simp] theorem State.modDie_agenda (s : State) (d : BitVec 2) (f : Die → Die) : (s.modDie d f).agenda = s.agenda := rfl
@[simp] theorem State.modDie_inputs (s : State) (d : BitVec 2) (f : Die → Die) : (s.modDie d f).inputs = s.inputs := rfl
@[simp] theorem State.modDie_slot (s : State) (d : BitVec 2) (f : Die → Die) : (s.modDie d f).slot = s.slot := rfl
@[simp] theorem State.modDie_free (s : State) (d : BitVec 2) (f : Die → Die) : (s.modDie d f).free = s.free := rfl
@[simp] theorem State.modDie_wheel (s : State) (d : BitVec 2) (f : Die → Die) : (s.modDie d f).wheel = s.wheel := rfl
@[simp] theorem State.modDie_pkg (s : State) (d : BitVec 2) (f : Die → Die) : (s.modDie d f).pkg = s.pkg := rfl
@[simp] theorem State.modDie_cores (s : State) (d : BitVec 2) (f : Die → Die) : (s.modDie d f).cores = s.cores := rfl
@[simp] theorem State.modDie_clusters (s : State) (d : BitVec 2) (f : Die → Die) : (s.modDie d f).clusters = s.clusters := rfl
@[simp] theorem State.modDie_ctxs (s : State) (d : BitVec 2) (f : Die → Die) : (s.modDie d f).ctxs = s.ctxs := rfl
@[simp] theorem State.modDie_parts (s : State) (d : BitVec 2) (f : Die → Die) : (s.modDie d f).parts = s.parts := rfl
@[simp] theorem State.modDie_groups (s : State) (d : BitVec 2) (f : Die → Die) : (s.modDie d f).groups = s.groups := rfl
@[simp] theorem State.modDie_nextGroup (s : State) (d : BitVec 2) (f : Die → Die) : (s.modDie d f).nextGroup = s.nextGroup := rfl
@[simp] theorem State.modDie_dispatched (s : State) (d : BitVec 2) (f : Die → Die) : (s.modDie d f).dispatched = s.dispatched := rfl
@[simp] theorem State.modDie_savebase (s : State) (d : BitVec 2) (f : Die → Die) : (s.modDie d f).savebase = s.savebase := rfl
@[simp] theorem State.modDie_saveWrite (s : State) (d : BitVec 2) (f : Die → Die) : (s.modDie d f).saveWrite = s.saveWrite := rfl
@[simp] theorem State.modDie_partStatus (s : State) (d : BitVec 2) (f : Die → Die) : (s.modDie d f).partStatus = s.partStatus := rfl
@[simp] theorem State.modDie_slotsUsed (s : State) (d : BitVec 2) (f : Die → Die) : (s.modDie d f).slotsUsed = s.slotsUsed := rfl
@[simp] theorem State.modDie_mem (s : State) (d : BitVec 2) (f : Die → Die) : (s.modDie d f).mem = s.mem := rfl
@[simp] theorem State.modDie_frames (s : State) (d : BitVec 2) (f : Die → Die) : (s.modDie d f).frames = s.frames := rfl
@[simp] theorem State.modDie_units (s : State) (d : BitVec 2) (f : Die → Die) : (s.modDie d f).units = s.units := rfl
@[simp] theorem State.modDie_caches (s : State) (d : BitVec 2) (f : Die → Die) : (s.modDie d f).caches = s.caches := rfl
@[simp] theorem State.modDie_refused (s : State) (d : BitVec 2) (f : Die → Die) : (s.modDie d f).refused = s.refused := rfl
@[simp] theorem State.modDie_blocks (s : State) (d : BitVec 2) (f : Die → Die) : (s.modDie d f).blocks = s.blocks := rfl
@[simp] theorem State.modDie_windows (s : State) (d : BitVec 2) (f : Die → Die) : (s.modDie d f).windows = s.windows := rfl
@[simp] theorem State.modDie_winCount (s : State) (d : BitVec 2) (f : Die → Die) : (s.modDie d f).winCount = s.winCount := rfl
@[simp] theorem State.modDie_keyCount (s : State) (d : BitVec 2) (f : Die → Die) : (s.modDie d f).keyCount = s.keyCount := rfl
@[simp] theorem State.modDie_ring (s : State) (d : BitVec 2) (f : Die → Die) : (s.modDie d f).ring = s.ring := rfl
@[simp] theorem State.modDie_faults (s : State) (d : BitVec 2) (f : Die → Die) : (s.modDie d f).faults = s.faults := rfl
@[simp] theorem State.modDie_faultCount (s : State) (d : BitVec 2) (f : Die → Die) : (s.modDie d f).faultCount = s.faultCount := rfl
@[simp] theorem State.modDie_faultWait (s : State) (d : BitVec 2) (f : Die → Die) : (s.modDie d f).faultWait = s.faultWait := rfl
@[simp] theorem State.modDie_flows (s : State) (d : BitVec 2) (f : Die → Die) : (s.modDie d f).flows = s.flows := rfl
@[simp] theorem State.modDie_ports (s : State) (d : BitVec 2) (f : Die → Die) : (s.modDie d f).ports = s.ports := rfl
@[simp] theorem State.modDie_links (s : State) (d : BitVec 2) (f : Die → Die) : (s.modDie d f).links = s.links := rfl
@[simp] theorem State.modDie_routes (s : State) (d : BitVec 2) (f : Die → Die) : (s.modDie d f).routes = s.routes := rfl
@[simp] theorem State.modDie_flitHeld (s : State) (d : BitVec 2) (f : Die → Die) : (s.modDie d f).flitHeld = s.flitHeld := rfl
@[simp] theorem State.modDie_routeTx (s : State) (d : BitVec 2) (f : Die → Die) : (s.modDie d f).routeTx = s.routeTx := rfl
@[simp] theorem State.modDie_unreachPkg (s : State) (d : BitVec 2) (f : Die → Die) : (s.modDie d f).unreachPkg = s.unreachPkg := rfl
@[simp] theorem State.modDie_delivered (s : State) (d : BitVec 2) (f : Die → Die) : (s.modDie d f).delivered = s.delivered := rfl
@[simp] theorem State.modDie_hostReqs (s : State) (d : BitVec 2) (f : Die → Die) : (s.modDie d f).hostReqs = s.hostReqs := rfl
@[simp] theorem State.modDie_reqCount (s : State) (d : BitVec 2) (f : Die → Die) : (s.modDie d f).reqCount = s.reqCount := rfl
@[simp] theorem State.modDie_out (s : State) (d : BitVec 2) (f : Die → Die) : (s.modDie d f).out = s.out := rfl
@[simp] theorem State.modDie_waitOut (s : State) (d : BitVec 2) (f : Die → Die) : (s.modDie d f).waitOut = s.waitOut := rfl
@[simp] theorem State.modDie_tiles (s : State) (d : BitVec 2) (f : Die → Die) : (s.modDie d f).tiles = s.tiles := rfl
@[simp] theorem State.modDie_tileCount (s : State) (d : BitVec 2) (f : Die → Die) : (s.modDie d f).tileCount = s.tileCount := rfl
@[simp] theorem State.modDie_codekeys (s : State) (d : BitVec 2) (f : Die → Die) : (s.modDie d f).codekeys = s.codekeys := rfl
@[simp] theorem State.modDie_mkeys (s : State) (d : BitVec 2) (f : Die → Die) : (s.modDie d f).mkeys = s.mkeys := rfl
@[simp] theorem State.modDie_boot (s : State) (d : BitVec 2) (f : Die → Die) : (s.modDie d f).boot = s.boot := rfl
@[simp] theorem State.modDie_errCounts (s : State) (d : BitVec 2) (f : Die → Die) : (s.modDie d f).errCounts = s.errCounts := rfl
@[simp] theorem State.modDie_errSent (s : State) (d : BitVec 2) (f : Die → Die) : (s.modDie d f).errSent = s.errSent := rfl

@[simp] theorem State.modCluster_cur (s : State) (c : ClusterIx) (f : Cluster → Cluster) : (s.modCluster c f).cur = s.cur := rfl
@[simp] theorem State.modCluster_agenda (s : State) (c : ClusterIx) (f : Cluster → Cluster) : (s.modCluster c f).agenda = s.agenda := rfl
@[simp] theorem State.modCluster_inputs (s : State) (c : ClusterIx) (f : Cluster → Cluster) : (s.modCluster c f).inputs = s.inputs := rfl
@[simp] theorem State.modCluster_slot (s : State) (c : ClusterIx) (f : Cluster → Cluster) : (s.modCluster c f).slot = s.slot := rfl
@[simp] theorem State.modCluster_free (s : State) (c : ClusterIx) (f : Cluster → Cluster) : (s.modCluster c f).free = s.free := rfl
@[simp] theorem State.modCluster_wheel (s : State) (c : ClusterIx) (f : Cluster → Cluster) : (s.modCluster c f).wheel = s.wheel := rfl
@[simp] theorem State.modCluster_pkg (s : State) (c : ClusterIx) (f : Cluster → Cluster) : (s.modCluster c f).pkg = s.pkg := rfl
@[simp] theorem State.modCluster_cores (s : State) (c : ClusterIx) (f : Cluster → Cluster) : (s.modCluster c f).cores = s.cores := rfl
@[simp] theorem State.modCluster_dies (s : State) (c : ClusterIx) (f : Cluster → Cluster) : (s.modCluster c f).dies = s.dies := rfl
@[simp] theorem State.modCluster_ctxs (s : State) (c : ClusterIx) (f : Cluster → Cluster) : (s.modCluster c f).ctxs = s.ctxs := rfl
@[simp] theorem State.modCluster_parts (s : State) (c : ClusterIx) (f : Cluster → Cluster) : (s.modCluster c f).parts = s.parts := rfl
@[simp] theorem State.modCluster_groups (s : State) (c : ClusterIx) (f : Cluster → Cluster) : (s.modCluster c f).groups = s.groups := rfl
@[simp] theorem State.modCluster_nextGroup (s : State) (c : ClusterIx) (f : Cluster → Cluster) : (s.modCluster c f).nextGroup = s.nextGroup := rfl
@[simp] theorem State.modCluster_dispatched (s : State) (c : ClusterIx) (f : Cluster → Cluster) : (s.modCluster c f).dispatched = s.dispatched := rfl
@[simp] theorem State.modCluster_savebase (s : State) (c : ClusterIx) (f : Cluster → Cluster) : (s.modCluster c f).savebase = s.savebase := rfl
@[simp] theorem State.modCluster_saveWrite (s : State) (c : ClusterIx) (f : Cluster → Cluster) : (s.modCluster c f).saveWrite = s.saveWrite := rfl
@[simp] theorem State.modCluster_partStatus (s : State) (c : ClusterIx) (f : Cluster → Cluster) : (s.modCluster c f).partStatus = s.partStatus := rfl
@[simp] theorem State.modCluster_slotsUsed (s : State) (c : ClusterIx) (f : Cluster → Cluster) : (s.modCluster c f).slotsUsed = s.slotsUsed := rfl
@[simp] theorem State.modCluster_mem (s : State) (c : ClusterIx) (f : Cluster → Cluster) : (s.modCluster c f).mem = s.mem := rfl
@[simp] theorem State.modCluster_frames (s : State) (c : ClusterIx) (f : Cluster → Cluster) : (s.modCluster c f).frames = s.frames := rfl
@[simp] theorem State.modCluster_units (s : State) (c : ClusterIx) (f : Cluster → Cluster) : (s.modCluster c f).units = s.units := rfl
@[simp] theorem State.modCluster_caches (s : State) (c : ClusterIx) (f : Cluster → Cluster) : (s.modCluster c f).caches = s.caches := rfl
@[simp] theorem State.modCluster_refused (s : State) (c : ClusterIx) (f : Cluster → Cluster) : (s.modCluster c f).refused = s.refused := rfl
@[simp] theorem State.modCluster_blocks (s : State) (c : ClusterIx) (f : Cluster → Cluster) : (s.modCluster c f).blocks = s.blocks := rfl
@[simp] theorem State.modCluster_windows (s : State) (c : ClusterIx) (f : Cluster → Cluster) : (s.modCluster c f).windows = s.windows := rfl
@[simp] theorem State.modCluster_winCount (s : State) (c : ClusterIx) (f : Cluster → Cluster) : (s.modCluster c f).winCount = s.winCount := rfl
@[simp] theorem State.modCluster_keyCount (s : State) (c : ClusterIx) (f : Cluster → Cluster) : (s.modCluster c f).keyCount = s.keyCount := rfl
@[simp] theorem State.modCluster_ring (s : State) (c : ClusterIx) (f : Cluster → Cluster) : (s.modCluster c f).ring = s.ring := rfl
@[simp] theorem State.modCluster_faults (s : State) (c : ClusterIx) (f : Cluster → Cluster) : (s.modCluster c f).faults = s.faults := rfl
@[simp] theorem State.modCluster_faultCount (s : State) (c : ClusterIx) (f : Cluster → Cluster) : (s.modCluster c f).faultCount = s.faultCount := rfl
@[simp] theorem State.modCluster_faultWait (s : State) (c : ClusterIx) (f : Cluster → Cluster) : (s.modCluster c f).faultWait = s.faultWait := rfl
@[simp] theorem State.modCluster_flows (s : State) (c : ClusterIx) (f : Cluster → Cluster) : (s.modCluster c f).flows = s.flows := rfl
@[simp] theorem State.modCluster_ports (s : State) (c : ClusterIx) (f : Cluster → Cluster) : (s.modCluster c f).ports = s.ports := rfl
@[simp] theorem State.modCluster_links (s : State) (c : ClusterIx) (f : Cluster → Cluster) : (s.modCluster c f).links = s.links := rfl
@[simp] theorem State.modCluster_routes (s : State) (c : ClusterIx) (f : Cluster → Cluster) : (s.modCluster c f).routes = s.routes := rfl
@[simp] theorem State.modCluster_flitHeld (s : State) (c : ClusterIx) (f : Cluster → Cluster) : (s.modCluster c f).flitHeld = s.flitHeld := rfl
@[simp] theorem State.modCluster_routeTx (s : State) (c : ClusterIx) (f : Cluster → Cluster) : (s.modCluster c f).routeTx = s.routeTx := rfl
@[simp] theorem State.modCluster_unreachPkg (s : State) (c : ClusterIx) (f : Cluster → Cluster) : (s.modCluster c f).unreachPkg = s.unreachPkg := rfl
@[simp] theorem State.modCluster_delivered (s : State) (c : ClusterIx) (f : Cluster → Cluster) : (s.modCluster c f).delivered = s.delivered := rfl
@[simp] theorem State.modCluster_hostReqs (s : State) (c : ClusterIx) (f : Cluster → Cluster) : (s.modCluster c f).hostReqs = s.hostReqs := rfl
@[simp] theorem State.modCluster_reqCount (s : State) (c : ClusterIx) (f : Cluster → Cluster) : (s.modCluster c f).reqCount = s.reqCount := rfl
@[simp] theorem State.modCluster_out (s : State) (c : ClusterIx) (f : Cluster → Cluster) : (s.modCluster c f).out = s.out := rfl
@[simp] theorem State.modCluster_waitOut (s : State) (c : ClusterIx) (f : Cluster → Cluster) : (s.modCluster c f).waitOut = s.waitOut := rfl
@[simp] theorem State.modCluster_tiles (s : State) (c : ClusterIx) (f : Cluster → Cluster) : (s.modCluster c f).tiles = s.tiles := rfl
@[simp] theorem State.modCluster_tileCount (s : State) (c : ClusterIx) (f : Cluster → Cluster) : (s.modCluster c f).tileCount = s.tileCount := rfl
@[simp] theorem State.modCluster_codekeys (s : State) (c : ClusterIx) (f : Cluster → Cluster) : (s.modCluster c f).codekeys = s.codekeys := rfl
@[simp] theorem State.modCluster_mkeys (s : State) (c : ClusterIx) (f : Cluster → Cluster) : (s.modCluster c f).mkeys = s.mkeys := rfl
@[simp] theorem State.modCluster_boot (s : State) (c : ClusterIx) (f : Cluster → Cluster) : (s.modCluster c f).boot = s.boot := rfl
@[simp] theorem State.modCluster_errCounts (s : State) (c : ClusterIx) (f : Cluster → Cluster) : (s.modCluster c f).errCounts = s.errCounts := rfl
@[simp] theorem State.modCluster_errSent (s : State) (c : ClusterIx) (f : Cluster → Cluster) : (s.modCluster c f).errSent = s.errSent := rfl

/-! ### A context -/

@[simp] theorem State.setCtx_cur (s : State) (n : Nat) (c : Ctx) : (s.setCtx n c).cur = s.cur := by
  unfold State.setCtx; split <;> rfl
@[simp] theorem State.setCtx_agenda (s : State) (n : Nat) (c : Ctx) : (s.setCtx n c).agenda = s.agenda := by
  unfold State.setCtx; split <;> rfl
@[simp] theorem State.setCtx_inputs (s : State) (n : Nat) (c : Ctx) : (s.setCtx n c).inputs = s.inputs := by
  unfold State.setCtx; split <;> rfl
@[simp] theorem State.setCtx_slot (s : State) (n : Nat) (c : Ctx) : (s.setCtx n c).slot = s.slot := by
  unfold State.setCtx; split <;> rfl
@[simp] theorem State.setCtx_free (s : State) (n : Nat) (c : Ctx) : (s.setCtx n c).free = s.free := by
  unfold State.setCtx; split <;> rfl
@[simp] theorem State.setCtx_wheel (s : State) (n : Nat) (c : Ctx) : (s.setCtx n c).wheel = s.wheel := by
  unfold State.setCtx; split <;> rfl
@[simp] theorem State.setCtx_pkg (s : State) (n : Nat) (c : Ctx) : (s.setCtx n c).pkg = s.pkg := by
  unfold State.setCtx; split <;> rfl
@[simp] theorem State.setCtx_cores (s : State) (n : Nat) (c : Ctx) : (s.setCtx n c).cores = s.cores := by
  unfold State.setCtx; split <;> rfl
@[simp] theorem State.setCtx_clusters (s : State) (n : Nat) (c : Ctx) : (s.setCtx n c).clusters = s.clusters := by
  unfold State.setCtx; split <;> rfl
@[simp] theorem State.setCtx_dies (s : State) (n : Nat) (c : Ctx) : (s.setCtx n c).dies = s.dies := by
  unfold State.setCtx; split <;> rfl
@[simp] theorem State.setCtx_parts (s : State) (n : Nat) (c : Ctx) : (s.setCtx n c).parts = s.parts := by
  unfold State.setCtx; split <;> rfl
@[simp] theorem State.setCtx_groups (s : State) (n : Nat) (c : Ctx) : (s.setCtx n c).groups = s.groups := by
  unfold State.setCtx; split <;> rfl
@[simp] theorem State.setCtx_nextGroup (s : State) (n : Nat) (c : Ctx) : (s.setCtx n c).nextGroup = s.nextGroup := by
  unfold State.setCtx; split <;> rfl
@[simp] theorem State.setCtx_dispatched (s : State) (n : Nat) (c : Ctx) : (s.setCtx n c).dispatched = s.dispatched := by
  unfold State.setCtx; split <;> rfl
@[simp] theorem State.setCtx_savebase (s : State) (n : Nat) (c : Ctx) : (s.setCtx n c).savebase = s.savebase := by
  unfold State.setCtx; split <;> rfl
@[simp] theorem State.setCtx_saveWrite (s : State) (n : Nat) (c : Ctx) : (s.setCtx n c).saveWrite = s.saveWrite := by
  unfold State.setCtx; split <;> rfl
@[simp] theorem State.setCtx_partStatus (s : State) (n : Nat) (c : Ctx) : (s.setCtx n c).partStatus = s.partStatus := by
  unfold State.setCtx; split <;> rfl
@[simp] theorem State.setCtx_slotsUsed (s : State) (n : Nat) (c : Ctx) : (s.setCtx n c).slotsUsed = s.slotsUsed := by
  unfold State.setCtx; split <;> rfl
@[simp] theorem State.setCtx_mem (s : State) (n : Nat) (c : Ctx) : (s.setCtx n c).mem = s.mem := by
  unfold State.setCtx; split <;> rfl
@[simp] theorem State.setCtx_frames (s : State) (n : Nat) (c : Ctx) : (s.setCtx n c).frames = s.frames := by
  unfold State.setCtx; split <;> rfl
@[simp] theorem State.setCtx_units (s : State) (n : Nat) (c : Ctx) : (s.setCtx n c).units = s.units := by
  unfold State.setCtx; split <;> rfl
@[simp] theorem State.setCtx_caches (s : State) (n : Nat) (c : Ctx) : (s.setCtx n c).caches = s.caches := by
  unfold State.setCtx; split <;> rfl
@[simp] theorem State.setCtx_refused (s : State) (n : Nat) (c : Ctx) : (s.setCtx n c).refused = s.refused := by
  unfold State.setCtx; split <;> rfl
@[simp] theorem State.setCtx_blocks (s : State) (n : Nat) (c : Ctx) : (s.setCtx n c).blocks = s.blocks := by
  unfold State.setCtx; split <;> rfl
@[simp] theorem State.setCtx_windows (s : State) (n : Nat) (c : Ctx) : (s.setCtx n c).windows = s.windows := by
  unfold State.setCtx; split <;> rfl
@[simp] theorem State.setCtx_winCount (s : State) (n : Nat) (c : Ctx) : (s.setCtx n c).winCount = s.winCount := by
  unfold State.setCtx; split <;> rfl
@[simp] theorem State.setCtx_keyCount (s : State) (n : Nat) (c : Ctx) : (s.setCtx n c).keyCount = s.keyCount := by
  unfold State.setCtx; split <;> rfl
@[simp] theorem State.setCtx_ring (s : State) (n : Nat) (c : Ctx) : (s.setCtx n c).ring = s.ring := by
  unfold State.setCtx; split <;> rfl
@[simp] theorem State.setCtx_faults (s : State) (n : Nat) (c : Ctx) : (s.setCtx n c).faults = s.faults := by
  unfold State.setCtx; split <;> rfl
@[simp] theorem State.setCtx_faultCount (s : State) (n : Nat) (c : Ctx) : (s.setCtx n c).faultCount = s.faultCount := by
  unfold State.setCtx; split <;> rfl
@[simp] theorem State.setCtx_faultWait (s : State) (n : Nat) (c : Ctx) : (s.setCtx n c).faultWait = s.faultWait := by
  unfold State.setCtx; split <;> rfl
@[simp] theorem State.setCtx_flows (s : State) (n : Nat) (c : Ctx) : (s.setCtx n c).flows = s.flows := by
  unfold State.setCtx; split <;> rfl
@[simp] theorem State.setCtx_ports (s : State) (n : Nat) (c : Ctx) : (s.setCtx n c).ports = s.ports := by
  unfold State.setCtx; split <;> rfl
@[simp] theorem State.setCtx_links (s : State) (n : Nat) (c : Ctx) : (s.setCtx n c).links = s.links := by
  unfold State.setCtx; split <;> rfl
@[simp] theorem State.setCtx_routes (s : State) (n : Nat) (c : Ctx) : (s.setCtx n c).routes = s.routes := by
  unfold State.setCtx; split <;> rfl
@[simp] theorem State.setCtx_flitHeld (s : State) (n : Nat) (c : Ctx) : (s.setCtx n c).flitHeld = s.flitHeld := by
  unfold State.setCtx; split <;> rfl
@[simp] theorem State.setCtx_routeTx (s : State) (n : Nat) (c : Ctx) : (s.setCtx n c).routeTx = s.routeTx := by
  unfold State.setCtx; split <;> rfl
@[simp] theorem State.setCtx_unreachPkg (s : State) (n : Nat) (c : Ctx) : (s.setCtx n c).unreachPkg = s.unreachPkg := by
  unfold State.setCtx; split <;> rfl
@[simp] theorem State.setCtx_delivered (s : State) (n : Nat) (c : Ctx) : (s.setCtx n c).delivered = s.delivered := by
  unfold State.setCtx; split <;> rfl
@[simp] theorem State.setCtx_hostReqs (s : State) (n : Nat) (c : Ctx) : (s.setCtx n c).hostReqs = s.hostReqs := by
  unfold State.setCtx; split <;> rfl
@[simp] theorem State.setCtx_reqCount (s : State) (n : Nat) (c : Ctx) : (s.setCtx n c).reqCount = s.reqCount := by
  unfold State.setCtx; split <;> rfl
@[simp] theorem State.setCtx_out (s : State) (n : Nat) (c : Ctx) : (s.setCtx n c).out = s.out := by
  unfold State.setCtx; split <;> rfl
@[simp] theorem State.setCtx_waitOut (s : State) (n : Nat) (c : Ctx) : (s.setCtx n c).waitOut = s.waitOut := by
  unfold State.setCtx; split <;> rfl
@[simp] theorem State.setCtx_tiles (s : State) (n : Nat) (c : Ctx) : (s.setCtx n c).tiles = s.tiles := by
  unfold State.setCtx; split <;> rfl
@[simp] theorem State.setCtx_tileCount (s : State) (n : Nat) (c : Ctx) : (s.setCtx n c).tileCount = s.tileCount := by
  unfold State.setCtx; split <;> rfl
@[simp] theorem State.setCtx_codekeys (s : State) (n : Nat) (c : Ctx) : (s.setCtx n c).codekeys = s.codekeys := by
  unfold State.setCtx; split <;> rfl
@[simp] theorem State.setCtx_mkeys (s : State) (n : Nat) (c : Ctx) : (s.setCtx n c).mkeys = s.mkeys := by
  unfold State.setCtx; split <;> rfl
@[simp] theorem State.setCtx_boot (s : State) (n : Nat) (c : Ctx) : (s.setCtx n c).boot = s.boot := by
  unfold State.setCtx; split <;> rfl
@[simp] theorem State.setCtx_errCounts (s : State) (n : Nat) (c : Ctx) : (s.setCtx n c).errCounts = s.errCounts := by
  unfold State.setCtx; split <;> rfl
@[simp] theorem State.setCtx_errSent (s : State) (n : Nat) (c : Ctx) : (s.setCtx n c).errSent = s.errSent := by
  unfold State.setCtx; split <;> rfl

@[simp] theorem State.modCtx_cur (s : State) (n : Nat) (f : Ctx → Ctx) : (s.modCtx n f).cur = s.cur := State.setCtx_cur ..
@[simp] theorem State.modCtx_agenda (s : State) (n : Nat) (f : Ctx → Ctx) : (s.modCtx n f).agenda = s.agenda := State.setCtx_agenda ..
@[simp] theorem State.modCtx_inputs (s : State) (n : Nat) (f : Ctx → Ctx) : (s.modCtx n f).inputs = s.inputs := State.setCtx_inputs ..
@[simp] theorem State.modCtx_slot (s : State) (n : Nat) (f : Ctx → Ctx) : (s.modCtx n f).slot = s.slot := State.setCtx_slot ..
@[simp] theorem State.modCtx_free (s : State) (n : Nat) (f : Ctx → Ctx) : (s.modCtx n f).free = s.free := State.setCtx_free ..
@[simp] theorem State.modCtx_wheel (s : State) (n : Nat) (f : Ctx → Ctx) : (s.modCtx n f).wheel = s.wheel := State.setCtx_wheel ..
@[simp] theorem State.modCtx_pkg (s : State) (n : Nat) (f : Ctx → Ctx) : (s.modCtx n f).pkg = s.pkg := State.setCtx_pkg ..
@[simp] theorem State.modCtx_cores (s : State) (n : Nat) (f : Ctx → Ctx) : (s.modCtx n f).cores = s.cores := State.setCtx_cores ..
@[simp] theorem State.modCtx_clusters (s : State) (n : Nat) (f : Ctx → Ctx) : (s.modCtx n f).clusters = s.clusters := State.setCtx_clusters ..
@[simp] theorem State.modCtx_dies (s : State) (n : Nat) (f : Ctx → Ctx) : (s.modCtx n f).dies = s.dies := State.setCtx_dies ..
@[simp] theorem State.modCtx_parts (s : State) (n : Nat) (f : Ctx → Ctx) : (s.modCtx n f).parts = s.parts := State.setCtx_parts ..
@[simp] theorem State.modCtx_groups (s : State) (n : Nat) (f : Ctx → Ctx) : (s.modCtx n f).groups = s.groups := State.setCtx_groups ..
@[simp] theorem State.modCtx_nextGroup (s : State) (n : Nat) (f : Ctx → Ctx) : (s.modCtx n f).nextGroup = s.nextGroup := State.setCtx_nextGroup ..
@[simp] theorem State.modCtx_dispatched (s : State) (n : Nat) (f : Ctx → Ctx) : (s.modCtx n f).dispatched = s.dispatched := State.setCtx_dispatched ..
@[simp] theorem State.modCtx_savebase (s : State) (n : Nat) (f : Ctx → Ctx) : (s.modCtx n f).savebase = s.savebase := State.setCtx_savebase ..
@[simp] theorem State.modCtx_saveWrite (s : State) (n : Nat) (f : Ctx → Ctx) : (s.modCtx n f).saveWrite = s.saveWrite := State.setCtx_saveWrite ..
@[simp] theorem State.modCtx_partStatus (s : State) (n : Nat) (f : Ctx → Ctx) : (s.modCtx n f).partStatus = s.partStatus := State.setCtx_partStatus ..
@[simp] theorem State.modCtx_slotsUsed (s : State) (n : Nat) (f : Ctx → Ctx) : (s.modCtx n f).slotsUsed = s.slotsUsed := State.setCtx_slotsUsed ..
@[simp] theorem State.modCtx_mem (s : State) (n : Nat) (f : Ctx → Ctx) : (s.modCtx n f).mem = s.mem := State.setCtx_mem ..
@[simp] theorem State.modCtx_frames (s : State) (n : Nat) (f : Ctx → Ctx) : (s.modCtx n f).frames = s.frames := State.setCtx_frames ..
@[simp] theorem State.modCtx_units (s : State) (n : Nat) (f : Ctx → Ctx) : (s.modCtx n f).units = s.units := State.setCtx_units ..
@[simp] theorem State.modCtx_caches (s : State) (n : Nat) (f : Ctx → Ctx) : (s.modCtx n f).caches = s.caches := State.setCtx_caches ..
@[simp] theorem State.modCtx_refused (s : State) (n : Nat) (f : Ctx → Ctx) : (s.modCtx n f).refused = s.refused := State.setCtx_refused ..
@[simp] theorem State.modCtx_blocks (s : State) (n : Nat) (f : Ctx → Ctx) : (s.modCtx n f).blocks = s.blocks := State.setCtx_blocks ..
@[simp] theorem State.modCtx_windows (s : State) (n : Nat) (f : Ctx → Ctx) : (s.modCtx n f).windows = s.windows := State.setCtx_windows ..
@[simp] theorem State.modCtx_winCount (s : State) (n : Nat) (f : Ctx → Ctx) : (s.modCtx n f).winCount = s.winCount := State.setCtx_winCount ..
@[simp] theorem State.modCtx_keyCount (s : State) (n : Nat) (f : Ctx → Ctx) : (s.modCtx n f).keyCount = s.keyCount := State.setCtx_keyCount ..
@[simp] theorem State.modCtx_ring (s : State) (n : Nat) (f : Ctx → Ctx) : (s.modCtx n f).ring = s.ring := State.setCtx_ring ..
@[simp] theorem State.modCtx_faults (s : State) (n : Nat) (f : Ctx → Ctx) : (s.modCtx n f).faults = s.faults := State.setCtx_faults ..
@[simp] theorem State.modCtx_faultCount (s : State) (n : Nat) (f : Ctx → Ctx) : (s.modCtx n f).faultCount = s.faultCount := State.setCtx_faultCount ..
@[simp] theorem State.modCtx_faultWait (s : State) (n : Nat) (f : Ctx → Ctx) : (s.modCtx n f).faultWait = s.faultWait := State.setCtx_faultWait ..
@[simp] theorem State.modCtx_flows (s : State) (n : Nat) (f : Ctx → Ctx) : (s.modCtx n f).flows = s.flows := State.setCtx_flows ..
@[simp] theorem State.modCtx_ports (s : State) (n : Nat) (f : Ctx → Ctx) : (s.modCtx n f).ports = s.ports := State.setCtx_ports ..
@[simp] theorem State.modCtx_links (s : State) (n : Nat) (f : Ctx → Ctx) : (s.modCtx n f).links = s.links := State.setCtx_links ..
@[simp] theorem State.modCtx_routes (s : State) (n : Nat) (f : Ctx → Ctx) : (s.modCtx n f).routes = s.routes := State.setCtx_routes ..
@[simp] theorem State.modCtx_flitHeld (s : State) (n : Nat) (f : Ctx → Ctx) : (s.modCtx n f).flitHeld = s.flitHeld := State.setCtx_flitHeld ..
@[simp] theorem State.modCtx_routeTx (s : State) (n : Nat) (f : Ctx → Ctx) : (s.modCtx n f).routeTx = s.routeTx := State.setCtx_routeTx ..
@[simp] theorem State.modCtx_unreachPkg (s : State) (n : Nat) (f : Ctx → Ctx) : (s.modCtx n f).unreachPkg = s.unreachPkg := State.setCtx_unreachPkg ..
@[simp] theorem State.modCtx_delivered (s : State) (n : Nat) (f : Ctx → Ctx) : (s.modCtx n f).delivered = s.delivered := State.setCtx_delivered ..
@[simp] theorem State.modCtx_hostReqs (s : State) (n : Nat) (f : Ctx → Ctx) : (s.modCtx n f).hostReqs = s.hostReqs := State.setCtx_hostReqs ..
@[simp] theorem State.modCtx_reqCount (s : State) (n : Nat) (f : Ctx → Ctx) : (s.modCtx n f).reqCount = s.reqCount := State.setCtx_reqCount ..
@[simp] theorem State.modCtx_out (s : State) (n : Nat) (f : Ctx → Ctx) : (s.modCtx n f).out = s.out := State.setCtx_out ..
@[simp] theorem State.modCtx_waitOut (s : State) (n : Nat) (f : Ctx → Ctx) : (s.modCtx n f).waitOut = s.waitOut := State.setCtx_waitOut ..
@[simp] theorem State.modCtx_tiles (s : State) (n : Nat) (f : Ctx → Ctx) : (s.modCtx n f).tiles = s.tiles := State.setCtx_tiles ..
@[simp] theorem State.modCtx_tileCount (s : State) (n : Nat) (f : Ctx → Ctx) : (s.modCtx n f).tileCount = s.tileCount := State.setCtx_tileCount ..
@[simp] theorem State.modCtx_codekeys (s : State) (n : Nat) (f : Ctx → Ctx) : (s.modCtx n f).codekeys = s.codekeys := State.setCtx_codekeys ..
@[simp] theorem State.modCtx_mkeys (s : State) (n : Nat) (f : Ctx → Ctx) : (s.modCtx n f).mkeys = s.mkeys := State.setCtx_mkeys ..
@[simp] theorem State.modCtx_boot (s : State) (n : Nat) (f : Ctx → Ctx) : (s.modCtx n f).boot = s.boot := State.setCtx_boot ..
@[simp] theorem State.modCtx_errCounts (s : State) (n : Nat) (f : Ctx → Ctx) : (s.modCtx n f).errCounts = s.errCounts := State.setCtx_errCounts ..
@[simp] theorem State.modCtx_errSent (s : State) (n : Nat) (f : Ctx → Ctx) : (s.modCtx n f).errSent = s.errSent := State.setCtx_errSent ..

/-! ### Reading a core or a context back -/

@[simp] theorem State.core_setCore_self (s : State) (c : CoreIx) (k : Core) : (s.setCore c k).core c = k :=
  Vector.getElem_set_self ..
theorem State.core_setCore_ne (s : State) {c d : CoreIx} (h : d ≠ c) (k : Core) : (s.setCore c k).core d = s.core d :=
  Vector.getElem_set_ne c.isLt d.isLt fun e => h (BitVec.eq_of_toNat_eq e.symm)
@[simp] theorem State.core_modCore_self (s : State) (c : CoreIx) (f : Core → Core) : (s.modCore c f).core c = f (s.core c) :=
  State.core_setCore_self ..
theorem State.core_modCore_ne (s : State) {c d : CoreIx} (h : d ≠ c) (f : Core → Core) : (s.modCore c f).core d = s.core d :=
  State.core_setCore_ne s h _
@[simp] theorem State.core_modSlot (s : State) (f : SlotCtx → SlotCtx) (c : CoreIx) : (s.modSlot f).core c = s.core c := rfl
@[simp] theorem State.me_modMe (s : State) (f : Core → Core) : (s.modMe f).me = f s.me := State.core_modCore_self ..
@[simp] theorem State.me_modSlot (s : State) (f : SlotCtx → SlotCtx) : (s.modSlot f).me = s.me := rfl
theorem State.ctx_modCtx_self (s : State) {n : Nat} (h : n < 65) (f : Ctx → Ctx) : (s.modCtx n f).ctx n = f (s.ctx n) := by
  simp [State.modCtx, State.setCtx, State.ctx, h]
theorem State.ctx_modCtx_ne (s : State) {n m : Nat} (h : m ≠ n) (f : Ctx → Ctx) : (s.modCtx n f).ctx m = s.ctx m := by
  unfold State.modCtx State.setCtx State.ctx
  split
  · simp only [Vector.getElem?_set, if_neg (Ne.symm h)]
  · rfl

/-! ### The fields of a core -/

@[simp] theorem Core.expose_ctl (k : Core) (d : Dst) (v : Word) (l : Nat) (a : Word) : (k.expose d v l a).ctl = k.ctl := by
  unfold Core.expose; split <;> rfl
@[simp] theorem Core.expose_x (k : Core) (d : Dst) (v : Word) (l : Nat) (a : Word) : (k.expose d v l a).x = k.x := by
  unfold Core.expose; split <;> rfl
@[simp] theorem Core.expose_k (k : Core) (d : Dst) (v : Word) (l : Nat) (a : Word) : (k.expose d v l a).k = k.k := by
  unfold Core.expose; split <;> rfl
@[simp] theorem Core.expose_fmt (k : Core) (d : Dst) (v : Word) (l : Nat) (a : Word) : (k.expose d v l a).fmt = k.fmt := by
  unfold Core.expose; split <;> rfl
@[simp] theorem Core.expose_shp (k : Core) (d : Dst) (v : Word) (l : Nat) (a : Word) : (k.expose d v l a).shp = k.shp := by
  unfold Core.expose; split <;> rfl
@[simp] theorem Core.expose_region (k : Core) (d : Dst) (v : Word) (l : Nat) (a : Word) : (k.expose d v l a).region = k.region := by
  unfold Core.expose; split <;> rfl
@[simp] theorem Core.expose_grid (k : Core) (d : Dst) (v : Word) (l : Nat) (a : Word) : (k.expose d v l a).grid = k.grid := by
  unfold Core.expose; split <;> rfl
@[simp] theorem Core.expose_xb (k : Core) (d : Dst) (v : Word) (l : Nat) (a : Word) : (k.expose d v l a).xb = k.xb := by
  unfold Core.expose; split <;> rfl
@[simp] theorem Core.expose_wb (k : Core) (d : Dst) (v : Word) (l : Nat) (a : Word) : (k.expose d v l a).wb = k.wb := by
  unfold Core.expose; split <;> rfl
@[simp] theorem Core.expose_gb (k : Core) (d : Dst) (v : Word) (l : Nat) (a : Word) : (k.expose d v l a).gb = k.gb := by
  unfold Core.expose; split <;> rfl
@[simp] theorem Core.expose_xbCap (k : Core) (d : Dst) (v : Word) (l : Nat) (a : Word) : (k.expose d v l a).xbCap = k.xbCap := by
  unfold Core.expose; split <;> rfl
@[simp] theorem Core.expose_wbCap (k : Core) (d : Dst) (v : Word) (l : Nat) (a : Word) : (k.expose d v l a).wbCap = k.wbCap := by
  unfold Core.expose; split <;> rfl
@[simp] theorem Core.expose_gbCap (k : Core) (d : Dst) (v : Word) (l : Nat) (a : Word) : (k.expose d v l a).gbCap = k.gbCap := by
  unfold Core.expose; split <;> rfl
@[simp] theorem Core.expose_eng (k : Core) (d : Dst) (v : Word) (l : Nat) (a : Word) : (k.expose d v l a).eng = k.eng := by
  unfold Core.expose; split <;> rfl
@[simp] theorem Core.expose_sigs (k : Core) (d : Dst) (v : Word) (l : Nat) (a : Word) : (k.expose d v l a).sigs = k.sigs := by
  unfold Core.expose; split <;> rfl
@[simp] theorem Core.expose_order (k : Core) (d : Dst) (v : Word) (l : Nat) (a : Word) : (k.expose d v l a).order = k.order := by
  unfold Core.expose; split <;> rfl
@[simp] theorem Core.expose_tissued (k : Core) (d : Dst) (v : Word) (l : Nat) (a : Word) : (k.expose d v l a).tissued = k.tissued := by
  unfold Core.expose; split <;> rfl
@[simp] theorem Core.expose_seqr (k : Core) (d : Dst) (v : Word) (l : Nat) (a : Word) : (k.expose d v l a).seqr = k.seqr := by
  unfold Core.expose; split <;> rfl
@[simp] theorem Core.expose_icache (k : Core) (d : Dst) (v : Word) (l : Nat) (a : Word) : (k.expose d v l a).icache = k.icache := by
  unfold Core.expose; split <;> rfl
@[simp] theorem Core.expose_utlb (k : Core) (d : Dst) (v : Word) (l : Nat) (a : Word) : (k.expose d v l a).utlb = k.utlb := by
  unfold Core.expose; split <;> rfl
@[simp] theorem Core.expose_substituted (k : Core) (d : Dst) (v : Word) (l : Nat) (a : Word) : (k.expose d v l a).substituted = k.substituted := by
  unfold Core.expose; split <;> rfl
@[simp] theorem Core.expose_grp (k : Core) (d : Dst) (v : Word) (l : Nat) (a : Word) : (k.expose d v l a).grp = k.grp := by
  unfold Core.expose; split <;> rfl
@[simp] theorem Core.expose_lastCtx (k : Core) (d : Dst) (v : Word) (l : Nat) (a : Word) : (k.expose d v l a).lastCtx = k.lastCtx := by
  unfold Core.expose; split <;> rfl

@[simp] theorem Core.wx_ctl (k : Core) (r : BitVec 5) (v : Word) : (k.wx r v).ctl = k.ctl := by
  unfold Core.wx; split <;> rfl
@[simp] theorem Core.wx_k (k : Core) (r : BitVec 5) (v : Word) : (k.wx r v).k = k.k := by
  unfold Core.wx; split <;> rfl
@[simp] theorem Core.wx_fmt (k : Core) (r : BitVec 5) (v : Word) : (k.wx r v).fmt = k.fmt := by
  unfold Core.wx; split <;> rfl
@[simp] theorem Core.wx_shp (k : Core) (r : BitVec 5) (v : Word) : (k.wx r v).shp = k.shp := by
  unfold Core.wx; split <;> rfl
@[simp] theorem Core.wx_rs (k : Core) (r : BitVec 5) (v : Word) : (k.wx r v).rs = k.rs := by
  unfold Core.wx; split <;> rfl
@[simp] theorem Core.wx_region (k : Core) (r : BitVec 5) (v : Word) : (k.wx r v).region = k.region := by
  unfold Core.wx; split <;> rfl
@[simp] theorem Core.wx_grid (k : Core) (r : BitVec 5) (v : Word) : (k.wx r v).grid = k.grid := by
  unfold Core.wx; split <;> rfl
@[simp] theorem Core.wx_xb (k : Core) (r : BitVec 5) (v : Word) : (k.wx r v).xb = k.xb := by
  unfold Core.wx; split <;> rfl
@[simp] theorem Core.wx_wb (k : Core) (r : BitVec 5) (v : Word) : (k.wx r v).wb = k.wb := by
  unfold Core.wx; split <;> rfl
@[simp] theorem Core.wx_gb (k : Core) (r : BitVec 5) (v : Word) : (k.wx r v).gb = k.gb := by
  unfold Core.wx; split <;> rfl
@[simp] theorem Core.wx_xbCap (k : Core) (r : BitVec 5) (v : Word) : (k.wx r v).xbCap = k.xbCap := by
  unfold Core.wx; split <;> rfl
@[simp] theorem Core.wx_wbCap (k : Core) (r : BitVec 5) (v : Word) : (k.wx r v).wbCap = k.wbCap := by
  unfold Core.wx; split <;> rfl
@[simp] theorem Core.wx_gbCap (k : Core) (r : BitVec 5) (v : Word) : (k.wx r v).gbCap = k.gbCap := by
  unfold Core.wx; split <;> rfl
@[simp] theorem Core.wx_eng (k : Core) (r : BitVec 5) (v : Word) : (k.wx r v).eng = k.eng := by
  unfold Core.wx; split <;> rfl
@[simp] theorem Core.wx_sigs (k : Core) (r : BitVec 5) (v : Word) : (k.wx r v).sigs = k.sigs := by
  unfold Core.wx; split <;> rfl
@[simp] theorem Core.wx_order (k : Core) (r : BitVec 5) (v : Word) : (k.wx r v).order = k.order := by
  unfold Core.wx; split <;> rfl
@[simp] theorem Core.wx_tissued (k : Core) (r : BitVec 5) (v : Word) : (k.wx r v).tissued = k.tissued := by
  unfold Core.wx; split <;> rfl
@[simp] theorem Core.wx_seqr (k : Core) (r : BitVec 5) (v : Word) : (k.wx r v).seqr = k.seqr := by
  unfold Core.wx; split <;> rfl
@[simp] theorem Core.wx_icache (k : Core) (r : BitVec 5) (v : Word) : (k.wx r v).icache = k.icache := by
  unfold Core.wx; split <;> rfl
@[simp] theorem Core.wx_utlb (k : Core) (r : BitVec 5) (v : Word) : (k.wx r v).utlb = k.utlb := by
  unfold Core.wx; split <;> rfl
@[simp] theorem Core.wx_substituted (k : Core) (r : BitVec 5) (v : Word) : (k.wx r v).substituted = k.substituted := by
  unfold Core.wx; split <;> rfl
@[simp] theorem Core.wx_grp (k : Core) (r : BitVec 5) (v : Word) : (k.wx r v).grp = k.grp := by
  unfold Core.wx; split <;> rfl
@[simp] theorem Core.wx_lastCtx (k : Core) (r : BitVec 5) (v : Word) : (k.wx r v).lastCtx = k.lastCtx := by
  unfold Core.wx; split <;> rfl
@[simp] theorem Core.wk_ctl (k : Core) (r : BitVec 3) (v : Word) : (k.wk r v).ctl = k.ctl := rfl
@[simp] theorem Core.wk_x (k : Core) (r : BitVec 3) (v : Word) : (k.wk r v).x = k.x := rfl
@[simp] theorem Core.wk_fmt (k : Core) (r : BitVec 3) (v : Word) : (k.wk r v).fmt = k.fmt := rfl
@[simp] theorem Core.wk_shp (k : Core) (r : BitVec 3) (v : Word) : (k.wk r v).shp = k.shp := rfl
@[simp] theorem Core.wk_rs (k : Core) (r : BitVec 3) (v : Word) : (k.wk r v).rs = k.rs := rfl
@[simp] theorem Core.wk_region (k : Core) (r : BitVec 3) (v : Word) : (k.wk r v).region = k.region := rfl
@[simp] theorem Core.wk_grid (k : Core) (r : BitVec 3) (v : Word) : (k.wk r v).grid = k.grid := rfl
@[simp] theorem Core.wk_xb (k : Core) (r : BitVec 3) (v : Word) : (k.wk r v).xb = k.xb := rfl
@[simp] theorem Core.wk_wb (k : Core) (r : BitVec 3) (v : Word) : (k.wk r v).wb = k.wb := rfl
@[simp] theorem Core.wk_gb (k : Core) (r : BitVec 3) (v : Word) : (k.wk r v).gb = k.gb := rfl
@[simp] theorem Core.wk_xbCap (k : Core) (r : BitVec 3) (v : Word) : (k.wk r v).xbCap = k.xbCap := rfl
@[simp] theorem Core.wk_wbCap (k : Core) (r : BitVec 3) (v : Word) : (k.wk r v).wbCap = k.wbCap := rfl
@[simp] theorem Core.wk_gbCap (k : Core) (r : BitVec 3) (v : Word) : (k.wk r v).gbCap = k.gbCap := rfl
@[simp] theorem Core.wk_eng (k : Core) (r : BitVec 3) (v : Word) : (k.wk r v).eng = k.eng := rfl
@[simp] theorem Core.wk_sigs (k : Core) (r : BitVec 3) (v : Word) : (k.wk r v).sigs = k.sigs := rfl
@[simp] theorem Core.wk_order (k : Core) (r : BitVec 3) (v : Word) : (k.wk r v).order = k.order := rfl
@[simp] theorem Core.wk_tissued (k : Core) (r : BitVec 3) (v : Word) : (k.wk r v).tissued = k.tissued := rfl
@[simp] theorem Core.wk_seqr (k : Core) (r : BitVec 3) (v : Word) : (k.wk r v).seqr = k.seqr := rfl
@[simp] theorem Core.wk_icache (k : Core) (r : BitVec 3) (v : Word) : (k.wk r v).icache = k.icache := rfl
@[simp] theorem Core.wk_utlb (k : Core) (r : BitVec 3) (v : Word) : (k.wk r v).utlb = k.utlb := rfl
@[simp] theorem Core.wk_substituted (k : Core) (r : BitVec 3) (v : Word) : (k.wk r v).substituted = k.substituted := rfl
@[simp] theorem Core.wk_grp (k : Core) (r : BitVec 3) (v : Word) : (k.wk r v).grp = k.grp := rfl
@[simp] theorem Core.wk_lastCtx (k : Core) (r : BitVec 3) (v : Word) : (k.wk r v).lastCtx = k.lastCtx := rfl

/-- A write of x[r] is read back (R158). -/
theorem Core.rx_wx_self (k : Core) {r : BitVec 5} (h : r ≠ 0) (v : Word) : (k.wx r v).rx r = v := by
  rw [Core.rx, Core.wx, if_neg h, if_neg h]
  exact Vector.getElem_set_self ..
/-- A write of x[r] leaves the other registers. -/
theorem Core.rx_wx_ne (k : Core) {r q : BitVec 5} (h : q ≠ r) (v : Word) : (k.wx r v).rx q = k.rx q := by
  unfold Core.rx Core.wx
  split
  · rfl
  · split
    · rfl
    · exact Vector.getElem_set_ne r.isLt q.isLt fun e => h (BitVec.eq_of_toNat_eq e.symm)
/-- x0 reads 0 whatever is written (R158). -/
@[simp] theorem Core.rx_zero (k : Core) : k.rx 0 = 0 := rfl
@[simp] theorem Core.wx_zero (k : Core) (v : Word) : k.wx 0 v = k := rfl

end Sys2Proof.Machine
end

