-- ==== Sys2Proof/Safety.lean ====
section
/-! DEFINITION. What counts as a safe run: no step of it stops. The only stop of the model is that of a halted package (R412, R420). -/

namespace Sys2Proof.Machine

/-- The package is not held halted. -/
def State.alive (s : State) : Prop := s.boot.halted = false

/-- The next step goes on. -/
def State.safeStep (s : State) : Prop := ∃ t, step s = .next t

/-- `n` steps from a state, if none stops. -/
def runFor : Nat → State → Option State
  | 0, s => some s
  | n + 1, s =>
    match step s with
    | .next t => runFor n t
    | _ => none

/-- No step of a run stops. -/
def State.safe (s : State) : Prop := ∀ n, (runFor n s).isSome

/-- Every byte store of the state is in its canonical form: device memory, the buffers of every core, and the frames that
an import holds. -/
def State.memWf (s : State) : Prop :=
  Memory.wf s.mem = true ∧
    (∀ c : CoreIx, (s.core c).xb.wf = true ∧ (s.core c).wb.wf = true ∧ (s.core c).gb.wf = true) ∧
    ∀ n f, f ∈ (s.ctx n).imported → f.2.wf = true

end Sys2Proof.Machine
end

