-- ==== Sys2Proof/Certificates/Slice0/Obligations.lean ====
section
/-! DEFINITION. The statements for the provers, each a proposition about the model that formalises the spec's rules named in its
docstring. -/

namespace Sys2Proof.Machine

/-! ### Shapes of statements -/

/-- The register form of an S slot (R154): opcode, d, a, b, L, function. -/
def sWord (op : BitVec 7) (d a b : BitVec 5) (l : Bool) (f : BitVec 9) : Cell := op ++ d ++ a ++ b ++ bit1 l ++ f

/-- An S instruction `op` with function `f` on x[a] and b (R180): its word decodes to it, and it writes x[d] := g (x[a], b) with
latency `lat`. Under L, b is the literal and field b is zero. -/
def AluForm (op : BitVec 7) (f : BitVec 9) (i : BitVec 5 → BitVec 5 → BitVec 5 → Bool → Instr) (lat : Nat)
    (g : Word → Word → Word) : Prop :=
  ∀ (s : State) (lit : Option Cell) (d a b : BitVec 5) (l : Bool), (l = true → b = 0 ∧ lit.isSome) →
    decodeSlot .s lit (sWord op d a b l f) = .ok (i d a b l) ∧
      exec (i d a b l) s = .next (s.result d (g (s.rx a) (if l then (s.slot.lit.getD 0).signExtend 64 else s.rx b)) lat)

/-- An immediate form (R183): the value is imm15 sign-extended, or the literal under the marker 0x4000. -/
def ImmForm (op : BitVec 7) (i : BitVec 5 → BitVec 5 → BitVec 15 → Instr) (ok : Option Cell → BitVec 15 → Prop)
    (g : Word → Word → Word) : Prop :=
  ∀ (s : State) (lit : Option Cell) (d a : BitVec 5) (n : BitVec 15), (n = 0x4000 → lit.isSome) → ok lit n →
    decodeSlot .s lit (op ++ d ++ a ++ n) = .ok (i d a n) ∧
      exec (i d a n) s =
        .next (s.result d (g (s.rx a) (if n = 0x4000 then (s.slot.lit.getD 0).signExtend 64 else n.signExtend 64)) 1)

/-- The amount of a shift by an immediate lies in 0 to 63 (R183). -/
def shiftAmount (lit : Option Cell) (n : BitVec 15) : Prop :=
  if n = 0x4000 then ∀ c, lit = some c → c.toNat < 64 else n.toNat < 64

/-- The number of a bit function of `n` bits. -/
def valOf (n : Nat) (y : Nat → Bool) : Nat := ((List.range n).map (fun i => (y i).toNat * 2 ^ i)).sum

/-- The value of `y` counts the false bits of `x` from 0 up to the first true one. -/
def isCount (n : Nat) (y x : Nat → Bool) : Prop :=
  valOf n y ≤ n ∧ (∀ i < valOf n y, x i = false) ∧ (valOf n y < n → x (valOf n y) = true)

/-- A packed operation (R186): it writes x[d] at latency 1, and every field of width 8, 16, 32 or 64 is what `p` says of the bits
of the same fields of the sources. -/
def BitForm (s : State) (i : Instr) (d : BitVec 5) (w : BitVec 2) (x m : Word)
    (p : Nat → (Nat → Bool) → (Nat → Bool) → (Nat → Bool) → Prop) : Prop :=
  ∃ v : Word, exec i s = .next (s.result d v 1) ∧ ∀ f, f < 64 / (8 * 2 ^ w.toNat) →
    let n := 8 * 2 ^ w.toNat
    p n (fun j => x.getLsbD (n * f + j)) (fun j => m.getLsbD (n * f + j)) (fun j => v.getLsbD (n * f + j))

/-- The k register that a k field names. -/
def State.kReg (s : State) (f : BitVec 5) : Word := s.me.k[(f.extractLsb' 0 3).toNat]'(f.extractLsb' 0 3).isLt

/-- k[d] := v at latency 1, and the packet carries the write to the grid side. -/
def State.kLands (s : State) (d : BitVec 3) (v : Word) : State :=
  (s.modMe (fun k => { k with rs := { k.rs with pend := k.rs.pend ++ [⟨.k d, v, k.rs.issue + 1, 0⟩] } })).modSlot (fun c =>
    { c with pkt := { c.pkt with sw := some (.kreg d v) } })

/-- A transfer to the bundle's address plus twice the sign-extended offset; `lost` says whether it costs a cycle. -/
def State.goes {n : Nat} (s : State) (o : BitVec n) (lost : Bool) : State :=
  s.modSlot (fun c => { c with npc := s.slot.bunAddr + 2 * o.signExtend 64, lost := lost })

/-- Every held store of the core can commit (R217, R280). -/
def Core.gateFree (k : Core) : Prop := ∀ h ∈ k.rs.gate, k.heldBlocked h = false

/-- Nothing holds an irrevocable operation back (R105): every earlier fill and LDG has settled, no device read of the packet itself
is outstanding, and the store gate can commit, no store of the packet standing behind a transfer of the packet. -/
def State.unblocked (s : State) : Prop := s.slot.settled = true ∧ s.me.devReads = [] ∧ s.me.gateFree ∧ s.gateBehind = false

/-- Device reads of a packet return one after another, oldest first, each for the end of the packet (R105, R210). -/
def State.readsReturn : List DevRead → State → State → Prop
  | [], s, u => u = s
  | r :: l, s, u => ∃ t, s.me.oldestRead = some r ∧ s.settleRead s.cur false r = .done t ∧ State.readsReturn l t u

/-- The state on which an irrevocable operation performs: the gate has committed, and the next packet takes a mark (R105). -/
def State.afterGate (s : State) : State := (s.commitKeep s.cur).modSlot (fun c => { c with markNext := true })

/-- No window of the core's timed region is open. -/
def State.noOpenWindow (s : State) : Prop :=
  ∀ w ∈ s.me.region.sends ++ s.me.region.recvs, w.openAt (s.regionCycle s.cur) = false

/-- A trap of the core is entered and not doubled (R403, R405). -/
def State.handlerReady (s : State) : Prop := s.me.ctl.inTrap = false ∧ s.me.ctl.tvec ≠ 0 ∧ s.me.region.start = none

/-- The state after trap entry (R403, R404): the gate is empty, sr.epc, sr.cause and sr.tval are written, issue goes on at sr.tvec in
trap handling; the registers and the buffers are those of the core. -/
def State.entered (s t : State) (cause : BitVec 9) (tval epc : Word) : Prop :=
  let k := t.core s.cur
  k.ctl.epc = epc ∧ k.ctl.cause = cause.setWidth 64 ∧ k.ctl.tval = tval ∧ k.ctl.pc = s.me.ctl.tvec ∧ k.ctl.tvec = s.me.ctl.tvec ∧
    k.ctl.inTrap = true ∧ k.ctl.st = .run ∧ k.ctl.wait = none ∧ k.ctl.pendTrap = none ∧ k.ctl.markNext = true ∧ k.rs.gate = [] ∧
    k.x = s.me.x ∧ k.k = s.me.k ∧ k.fmt = s.me.fmt ∧ k.shp = s.me.shp ∧ t.ctxs = s.ctxs ∧ t.groups = s.groups

/-- A CSRR that reads `v` (R192): x[d] at latency 1, and the value in the log. -/
def CsrReads (s : State) (d : BitVec 5) (n : BitVec 12) (v : Word) : Prop :=
  exec (.csrr d n) s =
    .next ((s.result d v 1).modMe (fun k => { k with rs := { k.rs with log := k.rs.log ++ [some v] } }))

/-- CSRW, CSRS and CSRC of a register whose write `f op v` describes: CSRW writes x[a], CSRS sets its bits, CSRC clears them (R191). -/
def CsrWrites (s : State) (a : BitVec 5) (n : BitVec 12) (f : BitVec 2 → State) : Prop :=
  exec (.csrw a n) s = .next (f 0) ∧ exec (.csrs a n) s = .next (f 1) ∧ exec (.csrc a n) s = .next (f 2)

/-- The write that an S slot sends to the grid side with its packet. -/
def State.carries (s : State) (w : SWrite) : State := s.modSlot (fun c => { c with pkt := { c.pkt with sw := some w } })

/-- Every other core of the group is EXITED or has arrived at `n` (R325). -/
def State.othersArrived (s : State) (g : Group) (n : BitVec 4) : Prop :=
  ∀ p ∈ g.cores.zipIdx, p.2 = g.rankOf s.cur ∨ (s.core p.1).ctl.st = .exited ∨ (n, p.2) ∈ g.bar.arr

/-- A phase of an identifier completed (R325). -/
def Barrier.advanced (r : Barrier) (n : BitVec 4) : Vector (BitVec 32) 16 := r.p.set n.toNat (r.p[n.toNat]'n.isLt + 1) n.isLt

/-- The address of an A-form access (R155, R205): the offset times the size, or the literal under the marker 0x1000. -/
def State.addr (s : State) (b : BitVec 5) (o : BitVec 13) (size : Nat) : Word :=
  s.rx b + (if o = 0x1000 then (s.slot.lit.getD 0).signExtend 64 else o.signExtend 64 * BitVec.ofNat 64 size)

/-- A buffer access of `len` bytes is in bounds and aligned (R205). -/
def State.inBuffer (s : State) (sp : Space) (a : Word) (len align : Nat) : Prop :=
  a.toNat + len ≤ (s.env s.cur).extent sp ∧ a.toNat % align = 0

/-- LD of `n` bytes (R89 to R92, R103, R104, R207): the bytes at the address, under the older held stores, extended, reach x[d] at
4 issue cycles, at 6 from XB or WB in felt-timed mode; a felt load in interlocked mode arrives 6 cycles later; the value is logged. -/
def LoadForm (i : BitVec 5 → BitVec 5 → BitVec 2 → BitVec 13 → Instr) (n : Nat) (signed : Bool) : Prop :=
  ∀ (s : State) (d b : BitVec 5) (p : BitVec 2) (o : BitVec 13),
    let sp := spaceOf p
    let a := s.addr b o n
    s.inBuffer sp a n n → ¬ (s.me.timed = true ∧ felt sp a.toNat n = true) → s.me.ctl.st ≠ .replay → s.me.rs.log.length < 32 →
    s.me.xferBusy sp a.toNat n false = false →
    let raw : BitVec (8 * n) := BitVec.ofNat (8 * n) (leNat ((List.range n).map (fun j => s.loadByte sp (a.toNat + j))))
    let v : Word := if signed then raw.signExtend 64 else raw.setWidth 64
    let lat := if (s.env s.cur).mode = .feltTimed ∧ (sp = .xb ∨ sp = .wb) then 6 else 4
    let arr : Word := if (s.env s.cur).mode = .interlocked ∧ felt sp a.toNat n = true then s.cyc s.cur + 6 else 0
    exec (i d b p o) s = .next (s.modMe (fun k => { k with rs := { k.rs with
      pend := k.rs.pend ++ (if d = 0 then [] else [⟨.x d, v, k.rs.issue + lat, arr⟩]), log := k.rs.log ++ [some v] } }))

/-- ST of `n` bytes (R103, R207) completes where its bytes lie in the buffer, aligned, and the gate has room, or, in a timed region,
no transfer meets them: the store enters the gate with its address and the low bytes of the register; the packet notes a store that must
follow a transfer of its own (R208), and nothing else changes. -/
def StoreForm (i : BitVec 5 → BitVec 5 → BitVec 2 → BitVec 13 → Instr) (n : Nat) : Prop :=
  ∀ (s : State) (r b : BitVec 5) (p : BitVec 2) (o : BitVec 13),
    let sp := spaceOf p
    let a := s.addr b o n
    s.inBuffer sp a n n →
    ((s.me.timed = false ∧ s.me.rs.gate.length < 32) ∨
      (s.me.timed = true ∧ s.me.xferBusy sp a.toNat n true = false ∧ s.ownXfer sp a.toNat n true = false) →
      exec (i r b p o) s = .next ((s.modSlot (fun t => { t with behind := t.behind || s.ownXfer sp a.toNat n true })).modRs s.cur (fun q =>
        { q with gate := q.gate ++ [⟨sp, a.toNat, a, s.slot.bunAddr, leBytes n (s.rx r).toNat⟩] }))) ∧
    (s.me.timed = false → s.me.rs.gate.length = 32 → exec (i r b p o) s = .next (s.raise 0x0C1 33)) ∧
    (s.me.timed = true → s.me.xferBusy sp a.toNat n true = true ∨ s.ownXfer sp a.toNat n true = true →
      exec (i r b p o) s = .next (s.timing 9))

/-- The bounds and alignment faults of an access to a buffer (R205): bounds first. -/
def FaultForm (i : Instr) (s : State) (sp : Space) (a : Word) (len align : Nat) : Prop :=
  ((s.env s.cur).extent sp < a.toNat + len → exec i s = .next (s.raise 0x050 a)) ∧
    (a.toNat + len ≤ (s.env s.cur).extent sp → a.toNat % align ≠ 0 → exec i s = .next (s.raise 0x060 a))

/-- The youngest store of a list that covers a byte, and that byte. -/
def youngest (l : List Held) (sp : Space) (a : Nat) : Option Byte :=
  (l.reverse.find? (fun h => decide (h.space = sp ∧ h.addr ≤ a ∧ a < h.addr + h.data.length))).bind (fun h => h.data[a - h.addr]?)

/-- No block of device memory waits for a rewrite. -/
def State.noWalks (s : State) : Prop := ∀ d, (s.die d).walks = [] ∧ (s.die d).waitWalks = []

/-- LDG of `n` bytes (R104, R209): outstanding, with its place in the log and among the core's device reads. -/
def LdgForm (i : BitVec 5 → BitVec 5 → BitVec 13 → Instr) (w : LdW) : Prop :=
  ∀ (s : State) (d b : BitVec 5) (o : BitVec 13),
    let a := s.addr b o w.bytes
    (s.me.timed = false → a.toNat % w.bytes = 0 → s.me.ctl.st ≠ .replay → s.me.rs.log.length < 32 → s.slot.markNext = false →
      exec (i d b o) s = .next (s.modMe (fun k => { k with
        rs := { k.rs with
          log := k.rs.log ++ [none]
          ldgs := k.rs.ldgs ++ [⟨s.slot.bunAddr, k.order, d, a, w, k.rs.log.length, k.rs.gate.length⟩] }
        order := k.order + 1 }))) ∧
    (s.me.timed = false → a.toNat % w.bytes ≠ 0 → exec (i d b o) s = .next (s.raise 0x060 a)) ∧
    (s.me.timed = true → exec (i d b o) s = .next (s.timing 8))

/-- STG of `n` bytes (R103, R209) completes where its address is aligned, translates for a write and has a route, and the gate has
room: it enters the gate at the physical address. It has performed already where the answer to its fault completed it (R376); a fault
of the translation is its page fault, with the stored value where detail 0x07 asks for it. -/
def StgForm (i : BitVec 5 → BitVec 5 → BitVec 13 → Instr) (n : Nat) : Prop :=
  ∀ (s t : State) (r b : BitVec 5) (o : BitVec 13),
    let a := s.addr b o n
    (s.me.timed = true → exec (i r b o) s = .next (s.timing 8)) ∧
    (s.me.timed = false → a.toNat % n ≠ 0 → exec (i r b o) s = .next (s.raise 0x060 a)) ∧
    (s.me.timed = false → a.toNat % n = 0 → s.me.ctl.skip = some (s.me.rs.fwd, s.slot.bunAddr) → exec (i r b o) s = .next s) ∧
    (s.me.timed = false → a.toNat % n = 0 → s.me.ctl.skip = none → s.me.rs.gate.length = 32 →
      exec (i r b o) s = .next (s.raise 0x0C1 33)) ∧
    (s.me.timed = false → a.toNat % n = 0 → s.me.ctl.skip = none → s.me.rs.gate.length < 32 →
      (∀ pa, s.translate (s.ctxOf s.cur) (dieOf s.cur) (some s.cur) a .write n = (.ok pa, t) → s.dieReach (dieOf s.cur) (homeDie pa) = true →
        exec (i r b o) s = .next (t.modRs s.cur (fun q => { q with gate := q.gate ++ [⟨.dm, pa, a, s.slot.bunAddr, leBytes n (s.rx r).toNat⟩] }))) ∧
      ∀ f, s.translate (s.ctxOf s.cur) (dieOf s.cur) (some s.cur) a .write n = (.error f, t) →
        exec (i r b o) s = .next (t.pageFault
          (if f.detail = 0x07 then { f with value := BitVec.ofNat 64 (leNat (leBytes n (s.rx r).toNat)) } else f)))

/-- An atomic on `n` bytes (R221 to R224): the bytes at the address are read, the new value, if any, is written, and x[d] takes the
old value, sign-extended, for the next packet. `f` says the new value from old, x[s] and x[d]. -/
def AmoForm (i : State → BitVec 5 → BitVec 5 → BitVec 5 → Bool → Instr) (pre : State → Prop) (post : State → State)
    (f : ∀ m : Nat, BitVec m → BitVec m → BitVec m → Option (BitVec m)) : Prop :=
  ∀ (s t : State) (d b r : BitVec 5) (w : Bool) (pa : Nat),
    let n := if w then 8 else 4
    s.unblocked → s.me.timed = false → (s.rx b).toNat % n = 0 → pre s →
    s.afterGate.translate (s.ctxOf s.cur) (dieOf s.cur) (some s.cur) (s.rx b) .atomic n = (.ok pa, t) →
    t.dieReach (dieOf s.cur) (homeDie pa) = true →
    let old : BitVec (8 * n) := BitVec.ofNat (8 * n) (leNat (t.getMem pa n).1)
    let u := (t.getMem pa n).2
    let u := match f (8 * n) old ((s.rx r).setWidth (8 * n)) ((s.rx d).setWidth (8 * n)) with
      | some v => u.putMem pa (leBytes n v.toNat)
      | none => u
    exec (i s d b r w) s = .next (post (u.result d (old.signExtend 64) 1))

/-- The operations of AMO and AMOSC on the width of the access (R221, R222). -/
def amoAddF (m : Nat) (o s _ : BitVec m) : Option (BitVec m) := some (o + s)
def amoMinF (m : Nat) (o s _ : BitVec m) : Option (BitVec m) := some (if o.toInt ≤ s.toInt then o else s)
def amoMaxF (m : Nat) (o s _ : BitVec m) : Option (BitVec m) := some (if o.toInt ≤ s.toInt then s else o)
def amoXchgF (m : Nat) (_ s _ : BitVec m) : Option (BitVec m) := some s
def amoAndF (m : Nat) (o s _ : BitVec m) : Option (BitVec m) := some (o &&& s)
def amoOrF (m : Nat) (o s _ : BitVec m) : Option (BitVec m) := some (o ||| s)
def amoCasF (m : Nat) (o s c : BitVec m) : Option (BitVec m) := if o = c then some s else none

/-- The carried deckle is a legal one (R161). -/
def State.deckleOk (s : State) : Prop :=
  let p := s.slot.pkt.shp
  0 < shpRows p ∧ shpRow0 p + shpRows p ≤ 64 ∧ 0 < shpCols p ∧ shpCols p ≤ 64

/-- A type that is not reserved and, for binary8, has a precision (R123). -/
def Ty.sound (t : Ty) : Prop := t.code.toNat ≤ 12 ∧ (t.code = 3 ∨ t.code = 4 → t.prec ≠ 0)

/-- Table 11.2 and Table 11.4: what the rank-k family accepts. -/
def rkAccepts (fmt : Word) : Prop :=
  let a := fmtTA fmt
  let b := fmtTB fmt
  let d := fmtTD fmt
  a.sound ∧ b.sound ∧ a.code.toNat ≤ 10 ∧ b.code.toNat ≤ 10 ∧ (a.code = 0 → b.code.toNat ≤ 2) ∧ (b.code = 0 → a.code.toNat ≤ 2) ∧
    (d.code = 0 ∨ (d.code = 11 ∧ 6 ≤ a.code.toNat ∧ 6 ≤ b.code.toNat))

/-- An M slot on the access side (R123, R230): it joins the packet where its format is accepted and traps where it is not. -/
def MJoins (i : Instr) (ok : Word → Prop) : Prop :=
  ∀ s : State, s.slot.side = .access →
    (ok s.slot.pkt.fmt → exec i s = .next (s.modSlot (fun c => { c with pkt := { c.pkt with m := some ⟨i, c.word, c.lit⟩ } }))) ∧
    (¬ ok s.slot.pkt.fmt → ∃ d, 1 ≤ d ∧ d ≤ 4 ∧ exec i s = .next (s.raise (BitVec.ofNat 9 (0x040 + d)) s.slot.pkt.fmt))

/-- A V slot on the access side (R123, R245): it joins the packet where its run-time fields and its format are accepted. -/
def VJoins (i : Instr) (field ok : Word → Prop) : Prop :=
  ∀ s : State, s.slot.side = .access →
    (field s.slot.pkt.shp → ok s.slot.pkt.fmt →
      exec i s = .next (s.modSlot (fun c => { c with pkt := { c.pkt with v := c.pkt.v ++ [⟨i, c.word, c.lit⟩] } }))) ∧
    (¬ field s.slot.pkt.shp → exec i s = .next (s.illegal .reservedField)) ∧
    (field s.slot.pkt.shp → ¬ ok s.slot.pkt.fmt →
      ∃ d, 1 ≤ d ∧ d ≤ 4 ∧ exec i s = .next (s.raise (BitVec.ofNat 9 (0x040 + d)) s.slot.pkt.fmt))

/-- Elements per cell. -/
def Ty.per (t : Ty) : Nat := 32 / t.width

/-- A rank-k instruction on the grid side (R231 to R234): the entries popped, the work of its write cycle, and what issue changes. -/
def RkForm (i : Instr) (qa qb t : BitVec 2) (neg : Bool) (za zb : Grid → Word → Int)
    (sc : Grid → Option (Vector Byte 64 × Vector Byte 64)) : Prop :=
  ∀ s : State, s.slot.side = .grid → s.deckleOk →
    let g := s.me.grid
    let p := s.slot.pkt
    let ta := fmtTA p.fmt
    let tb := fmtTB p.fmt
    let sr := (fmtRc p.fmt).rnd = 5
    let na := if ta.per < tb.per then tb.per / ta.per else 1
    let nb := if tb.per < ta.per then ta.per / tb.per else 1
    let occ := max na nb * (if (if tb.per < ta.per then tb else ta).code = 0 then 2 else 1)
    let (r0, n, cols) := mTarget p.shp t
    let rows := (List.range n).map (fun r => r0 + r)
    let w : RkWork :=
      { row0 := r0, rows := n, cols := cols, ta := ta, tb := tb, td := fmtTD p.fmt, rc := fmtRc p.fmt
        aEnt := ((g.queue (0#1 ++ qa)).entries.take na).map (fun e => e.data)
        bEnt := ((g.queue (1#1 ++ qb)).entries.take nb).map (fun e => e.data)
        neg := neg, za := za g p.fmt, zb := zb g p.fmt, scale := sc g
        gens := if sr then rows.map (fun r => (r, srAdvance (g.gen r))) else [] }
    ∃ h : Grid, exec i s = .next (s.modGrid s.cur (fun _ => h)) ∧
      h.inflight = g.inflight ++ [{ fwd := p.fwd, kind := .m, due := g.cyc + (occ + 3), rows := [], rk := some w, vld := none
                                    regs := [], flags := 0, histRows := [], histRegs := [], written := false }] ∧
      h.mFree = g.cyc + occ ∧
      h.queue (0#1 ++ qa) = { g.queue (0#1 ++ qa) with entries := (g.queue (0#1 ++ qa)).entries.drop na, p := (g.queue (0#1 ++ qa)).p + na } ∧
      h.queue (1#1 ++ qb) = { g.queue (1#1 ++ qb) with entries := (g.queue (1#1 ++ qb)).entries.drop nb, p := (g.queue (1#1 ++ qb)).p + nb } ∧
      (∀ q, q ≠ 0#1 ++ qa → q ≠ 1#1 ++ qb → h.queue q = g.queue q) ∧
      (∀ r, r < 64 → h.gen r = if sr ∧ r ∈ rows then srAdvance (g.gen r) else g.gen r) ∧
      h.cells = g.cells ∧ h.e = g.e ∧ h.qs = g.qs ∧ h.k = g.k ∧ h.flags = g.flags ∧ h.giq = g.giq

/-- An M instruction that rewrites cells (R233 to R238): occupancy, write cycle, and every cell after the write. -/
def MMove (i : Instr) (occ w : Nat) (new : State → Nat → Nat → Cell) : Prop :=
  ∀ s : State, s.slot.side = .grid → s.deckleOk →
    let g := s.me.grid
    ∃ (h : Grid) (f : Flight), exec i s = .next (s.modGrid s.cur (fun _ => h)) ∧ h.inflight = g.inflight ++ [f] ∧
      h.mFree = g.cyc + occ ∧ f.due = g.cyc + w ∧ f.kind = .m ∧ f.written = false ∧ f.fwd = s.slot.pkt.fwd ∧
      h.cells = g.cells ∧ h.queues = g.queues ∧ h.e = g.e ∧ h.qs = g.qs ∧ h.k = g.k ∧
      ∀ r c, r < 64 → c < 64 → (({ s.me with grid := h } : Core).applyFlight f).grid.cell r c = new s r c

/-- A cell lies in a target (Table 11.1). -/
def inTarget (shp : Word) (t : BitVec 2) (r c : Nat) : Bool :=
  match t.toNat with
  | 0 => decide (r < 32)
  | 1 => decide (32 ≤ r)
  | 2 => decide (shpRow0 shp ≤ r ∧ r < shpRow0 shp + shpRows shp ∧ c < shpCols shp)
  | _ => true

/-- The integer that element `l` of a side's entries is (R131, R231). -/
def sideInt (t : Ty) (ents : List Row) (cell l : Nat) : Int :=
  let c := (ents.getD (l / t.per) (Vector.replicate 64 0)).at cell
  let v := c.toNat / 2 ^ (t.width * (l % t.per)) % 2 ^ t.width
  if t.code = 7 ∨ t.code = 9 then v else if v < 2 ^ (t.width - 1) then v else (v : Int) - (2 ^ t.width : Nat)

/-- The grid after a V slot's rows are written. -/
def VOut.cellsOf (o : VOut) (g : Grid) : Grid := o.rows.foldl (fun g q => g.setRow q.1 q.2) g

/-- An elementwise V instruction on the grid side (R243 to R245): every active element of gd takes `f` of its draw, its vector and
lane and its old cell; every other cell keeps its value; no e, qs or k register is written. -/
def Elementwise (i : Instr) (d : BitVec 8) (m rounds : Bool) (f : State → Nat → Nat → Nat → Cell → Cell) : Prop :=
  ∀ s : State, s.slot.side = .grid → s.deckleOk → isSpecial d = false →
    let g := s.me.grid
    let p := s.slot.pkt
    ∃ o : VOut, exec i s = .next (s.modGrid s.cur (fun g => g.vIssue p i o)) ∧ o.regs = [] ∧ o.g.cells = g.cells ∧
      (∀ r l, r < grpVecs d p.shp → inLanes d p.shp l = true → g.active m l = true →
        let c := cellOf d r l
        (o.cellsOf g).cell c.1 c.2 =
          f s (if rounds = true ∧ (fmtRc p.fmt).rnd = 5 then srDraw (srAdvance (g.gen c.1)) c.2 0 else 0) r l (g.cell c.1 c.2)) ∧
      ∀ a b, a < 64 → b < 64 → (∀ r l, r < grpVecs d p.shp → inLanes d p.shp l = true → g.active m l = true → cellOf d r l ≠ (a, b)) →
        (o.cellsOf g).cell a b = g.cell a b

/-- Element (r, lane) of a source of the slot. -/
def State.elem (s : State) (x : BitVec 8) (r l : Nat) : Cell := s.me.grid.src s.slot.lit x r l

/-- A two-source elementwise operation. -/
def Elem2 (i : Instr) (d a b : BitVec 8) (m rounds : Bool) (f : Word → Nat → Cell → Cell → Cell → Cell) : Prop :=
  Elementwise i d m rounds (fun s draw r l old => f s.slot.pkt.fmt draw (s.elem a r l) (s.elem b r l) old)

/-- An integer result: modulo 2^32, or clamped to int32 under SAT (R253). -/
def sat32 (fmt : Word) (v : Int) : Cell :=
  BitVec.ofInt 32 (if fmt.getLsbD 27 then max (-2147483648) (min 2147483647 v) else v)

/-- A condition of VCMP on two cells (R255): FP32 with the zeros equal and no relation to a NaN, or signed INT32. -/
def cmpHolds (int : Bool) (x y : Cell) : Cond → Prop
  | .eq => if int then x = y else fpNan x = false ∧ fpNan y = false ∧ fpKey0 x = fpKey0 y
  | .ne => if int then x ≠ y else fpNan x = true ∨ fpNan y = true ∨ fpKey0 x ≠ fpKey0 y
  | .lt => if int then x.toInt < y.toInt else fpNan x = false ∧ fpNan y = false ∧ fpKey0 x < fpKey0 y
  | .le => if int then x.toInt ≤ y.toInt else fpNan x = false ∧ fpNan y = false ∧ fpKey0 x ≤ fpKey0 y
  | .gt => if int then y.toInt < x.toInt else fpNan x = false ∧ fpNan y = false ∧ fpKey0 y < fpKey0 x
  | .ge => if int then y.toInt ≤ x.toInt else fpNan x = false ∧ fpNan y = false ∧ fpKey0 y ≤ fpKey0 x
  | .un => int = false ∧ (fpNan x = true ∨ fpNan y = true)

/-- VCMP on the grid side (R255): one k register is written; bit j of the range is the condition at its lane position where lane j is
active and 0 where it is not; the bits outside the range keep their values; no cell changes. -/
def CmpForm (i : Instr) (c : Cond) (k : BitVec 3) (a b : BitVec 8) (m : Bool) : Prop :=
  ∀ s : State, s.slot.side = .grid → s.deckleOk →
    let g := s.me.grid
    let shp := s.slot.pkt.shp
    let lo := if isSpecial a then (if isSpecial b then 0 else laneLo b shp) else laneLo a shp
    let n := if isSpecial a then (if isSpecial b then shpCols shp else laneCnt b shp) else laneCnt a shp
    ∃ (o : VOut) (v : Word), exec i s = .next (s.modGrid s.cur (fun g => g.vIssue s.slot.pkt i o)) ∧ o.regs = [.k k v] ∧ o.rows = [] ∧
      o.g = g ∧
      (∀ j, j < 64 → ¬ (lo ≤ j ∧ j < lo + n) → v.getLsbD j = (g.rk k).getLsbD j) ∧
      ∀ p, p < n → (v.getLsbD (lo + p) = true ↔ g.active m (lo + p) = true ∧
        cmpHolds (decide ((fmtTA s.slot.pkt.fmt).code = 11)) (s.elem a 0 (laneLo a shp + p)) (s.elem b 0 (laneLo b shp + p)) c)

/-- A V instruction on the grid side with its outcome. -/
def VGives (i : Instr) (s : State) (p : VOut → Prop) : Prop :=
  ∃ o : VOut, exec i s = .next (s.modGrid s.cur (fun g => g.vIssue s.slot.pkt i o)) ∧ p o

/-- The active cells of a source group of a reduction, lane by lane and vector by vector (R143, R267). -/
def State.redCells (s : State) (shape a : BitVec 8) (m : Bool) : List Cell :=
  (s.me.grid.activeLanes m shape s.slot.pkt.shp).flatMap (fun l =>
    (List.range (grpVecs shape s.slot.pkt.shp)).map (fun r => s.elem a r l))

/-- A reduction (R267): one value in every lane of the range of gd's vector 0, every other cell as before. -/
def RedForm (i : Instr) (d a : BitVec 8) (m : Bool) (p : State → List Cell → Cell → Prop) : Prop :=
  ∀ s : State, s.slot.side = .grid → s.deckleOk → isSpecial d = false →
    let g := s.me.grid
    let shp := s.slot.pkt.shp
    ∃ v : Cell, p s (s.redCells (if isSpecial a then d else a) a m) v ∧ VGives i s (fun o => o.regs = [] ∧ o.g.cells = g.cells ∧
      ∀ x y, x < 64 → y < 64 →
        ((∃ l, l < 64 ∧ inLanes d shp l = true ∧ cellOf d 0 l = (x, y)) → (o.cellsOf g).cell x y = v) ∧
        ((∀ l, l < 64 → inLanes d shp l = true → cellOf d 0 l ≠ (x, y)) → (o.cellsOf g).cell x y = g.cell x y))

/-- Two partials of a reduction joined (R143). -/
def joinCells (f : Cell → Cell → Cell) : Option Cell → Option Cell → Option Cell
  | some a, some b => some (f a b)
  | some a, none => some a
  | none, b => b

/-- The steps h = 2^(n-1), ..., 2, 1 of R143 over the lanes from 0. -/
def foldHalves (f : Cell → Cell → Cell) : Nat → (Nat → Option Cell) → Option Cell
  | 0, p => p 0
  | n + 1, p => foldHalves f n (fun j => joinCells f (p j) (p (j + 2 ^ n)))

/-- A list of cells folded from its first (R143, R144). -/
def foldCells (f : Cell → Cell → Cell) : List Cell → Option Cell
  | [] => none
  | x :: r => some (r.foldl f x)

/-- The result of a reduction in the order of R143: each active lane's vectors in increasing order, then the halves. -/
def State.reduced (s : State) (shape a : BitVec 8) (m : Bool) (pre : Cell → Cell) (f : Cell → Cell → Cell) : Option Cell :=
  foldHalves f 6 (fun l =>
    if inLanes shape s.slot.pkt.shp l = true ∧ s.me.grid.active m l = true then
      foldCells f ((List.range (grpVecs shape s.slot.pkt.shp)).map (fun r => pre (s.elem a r l)))
    else none)

/-- A NaN is canonical (R126). -/
def canonNan (c : Cell) : Cell := if fpNan c then tyFP32.nan else c
/-- One rounded FP32 addition, RNE when the mode is SR (R143). -/
def fpAdd1 (fmt : Word) (x y : Cell) : Cell :=
  (sumRound tyFP32 ⟨noSR (fmtRc fmt).rnd, (fmtRc fmt).sat⟩ 0 [tyFP32.val x, tyFP32.val y]).1
/-- The greater and the lesser of two FP32 values: -0 below +0, NaN from any NaN (R143). -/
def fpGreater (x y : Cell) : Cell := if fpNan x || fpNan y then tyFP32.nan else if fpKey x < fpKey y then y else x
def fpLesser (x y : Cell) : Cell := if fpNan x || fpNan y then tyFP32.nan else if fpKey y < fpKey x then y else x

/-- The low-element form of a value in a type. -/
def lowOf (t : Ty) (c : Cell) : Cell := BitVec.ofNat 32 (c.toNat % 2 ^ t.width)

/-- An operation at the tail of an engine queue (R278, R291). -/
def State.enqueued (s : State) (q : Fin 6) (op : EngOp) : State :=
  s.modMe (fun k => { k with
    eng := k.eng.set q.val (k.eng[q] ++ [⟨k.rs.fwd, op, false, 0, 0, none, [], [], k.order⟩]) q.isLt
    order := k.order + 1 })

/-- A C slot whose operands are sound enters `op` into queue `q`, waits while the queue holds 16, and traps in a timed region. -/
def EnqForm (i : Instr) (s : State) (q : Fin 6) (op : EngOp) : Prop :=
  (s.me.timed = true → exec i s = .next (s.timing 8)) ∧
  (s.me.timed = false → s.unblocked → (∀ r ∈ op.ranges, s.me.xferBusy r.1 r.2.1 r.2.2.1 r.2.2.2 = false) →
    ((s.me.eng[q]).length < 16 → exec i s = .next (s.afterGate.enqueued q op)) ∧
    (16 ≤ (s.me.eng[q]).length → exec i s = .next (s.afterGate.hold (.engineQueue (BitVec.ofNat 3 q.val)))))

/-- An endpoint of a copy of `len` bytes is in bounds and aligned (R205, R277). -/
def State.ptOk (s : State) (sp : BitVec 2) (a : Word) (len : Nat) : Prop :=
  if sp = 3 then a.toNat % 4 = 0 ∧ a.toNat < 2 ^ 52 else s.inBuffer (spaceOf sp) a len 4

/-- Operand c of a C slot: the literal zero-extended, or a register (Table 7.4). -/
def State.third (s : State) (c : BitVec 5) (l : Bool) : Word := if l then (s.slot.lit.getD 0).setWidth 64 else s.rx c

/-- The bytes of XB at an address, under the held stores (R103, R277). -/
def State.xbNow (s : State) (a n : Nat) : List Byte :=
  (List.range n).map (fun i => (youngest s.me.rs.gate .xb (a + i)).getD (s.me.xb.read (a + i)))

/-- A little-endian field of a block. -/
def fieldOf (b : List Byte) (i n : Nat) : Nat := leNat ((b.drop i).take n)

/-- A block of XB can be read: in bounds, aligned to its length, and no transfer, of an earlier packet or of its own, writes it. -/
def State.blockOk (s : State) (a : Word) (n : Nat) : Prop :=
  s.inBuffer .xb a n n ∧ s.me.xferBusy .xb a.toNat n false = false ∧ s.ownXfer .xb a.toNat n false = false

/-- The result of a list that lands last: of the greatest count, and of equal counts the later in program order (R164). -/
def lastLanding : List Exposed → Option Exposed
  | [] => none
  | e :: l =>
    match lastLanding l with
    | some h => some (if h.due < e.due then e else h)
    | none => some e

/-- The value that x[r] has once every outstanding exposed result has landed at its count. -/
def Core.later (k : Core) (r : BitVec 5) : Word :=
  match lastLanding (k.rs.pend.filter (fun e => decide (e.dst = .x r))) with
  | some e => e.val
  | none => k.rx r

/-- The registers, the grid and the buffers of a core are those of another. -/
def Core.sameData (k l : Core) : Prop :=
  k.x = l.x ∧ k.k = l.k ∧ k.fmt = l.fmt ∧ k.shp = l.shp ∧ k.grid = l.grid ∧ k.xb = l.xb ∧ k.wb = l.wb ∧ k.gb = l.gb

/-- A group that held a core has ended (R408): it is ENDED without cores, and the core is free. -/
def State.groupEnded (s t : State) (c : CoreIx) : Prop :=
  ∀ (g : Nat) (h : Group), (s.core c).grp = some g → s.group g = some h → h.st ≠ .ended → c ∈ h.cores →
    ∃ u, t.group g = some u ∧ u.st = .ended ∧ u.cores = [] ∧ (t.core c).grp = none ∧
      ((t.core c).ctl.st = .idle ∨ (t.core c).ctl.st = .failed)

/-- The slots of a grid packet run in order, each by its meaning. -/
def State.runsSlots (s : State) : List GSlot → State → Prop
  | [], t => t = s
  | g :: l, t => ∃ u, exec g.instr (s.modSlot (fun c => { c with word := g.word, lit := g.lit })) = .next u ∧ State.runsSlots u l t

/-- The state in which the slots of the head packet run on the grid side of a core. -/
def State.gridSide (s : State) (c : CoreIx) (p : GridPkt) : State :=
  let u := s.modGrid c (fun g => { g with giq := g.giq.drop 1, pkts := g.pkts ++ [p] })
  { u with cur := c, slot := { s.slot with side := .grid, pkt := p } }

/-- A wait that an event ends. -/
def State.waitEnds (s : State) (c : CoreIx) : State := s.modCtl c (fun t => { t with wait := none })

/-- Every die reaches every other (R387). -/
def State.joinedUp (s : State) : Prop := ∀ a b, s.dieReach a b = true

/-- The extents of a group lie within the capacities of a core (R2, R12), and the pages of a frame slot are in memory of its context
(R114, R116). -/
def State.frameUsable (s : State) (g : Group) (base : Nat) (k : AccKind) : Prop :=
  g.env.xbext ≤ 2097152 ∧ g.env.wbext ≤ 2097152 ∧ ∀ o n, o < 0x420000 → s.frameFault g.ctx (base + o) k n = none

/-- A shadow-table entry that names the next level (R352). -/
def nextLevel (e : Word) : Prop := e.getLsbD 0 = true ∧ e &&& 0x800F00000000FFFE = 0
/-- A leaf at level 3 with its reserved bits clear (R352). -/
def leaf3 (e : Word) : Prop := e.getLsbD 0 = true ∧ e.getLsbD 1 = true ∧ e &&& 0x800F00000000FF80 = 0
/-- The address in an entry. -/
def entryAddr (e : Word) : Nat := (e.extractLsb' 16 32).toNat * 65536
/-- The rights that an access needs stand in a leaf, and a write finds no GT (R353). -/
def leafAllows (e : Word) : AccKind → Prop
  | .read => e.getLsbD 2 = true
  | .write => e.getLsbD 3 = true ∧ e.getLsbD 6 = false
  | .fetch => e.getLsbD 4 = true
  | .atomic => e.getLsbD 2 = true ∧ e.getLsbD 3 = true ∧ e.getLsbD 6 = false

/-- A clock that a cluster may be given now (R15, R420). -/
def State.clockOk (s : State) (cl : ClusterIx) (mhz : Nat) : Prop :=
  650 ≤ mhz ∧ mhz ≤ 1300 ∧ (mhz - 650) % 25 = 0 ∧ (0, cl.toNat) ∉ s.boot.lowest

/-- What a change of a cluster's clock does (R15). -/
def State.clocked (s : State) (cl : ClusterIx) (mhz : Nat) (o : Host.Outcome State Fault Refusal) : Prop :=
  ((∀ c, clusterOf c = cl → (s.core c).timed = false) →
    o = .next (s.modCluster cl (fun k => { k with mhz := mhz, pendMhz := none }))) ∧
  ((∃ c, clusterOf c = cl ∧ (s.core c).timed = true) → o = .next (s.modCluster cl (fun k => { k with pendMhz := some mhz })))

/-- What stays when the package loses power or is reset (R415, R416). -/
def State.lostPower (s t : State) : Prop :=
  t.mem = [] ∧ t.groups = [] ∧ t.frames = [] ∧ t.flows = [] ∧ t.boot.booted = false ∧ t.boot.fuses = s.boot.fuses ∧
    t.boot.slotA = s.boot.slotA ∧ t.boot.slotB = s.boot.slotB ∧ t.boot.newest = s.boot.newest ∧ t.boot.feltOff = s.boot.feltOff ∧ t.pkg = s.pkg ∧ (∀ n, (t.ctx n).st = .free) ∧
    (∀ c, (t.core c).ctl.st = .idle ∧ (t.core c).grp = none) ∧ ∀ i, (t.link i).st = .reset

/-- A datagram that passes checks 1 to 3 of R391 for a flow: to the device's UDP port, of version 1, from the flow's host, its tag good under
the flow's key. -/
def Flow.knows (f : Flow) (h : Hdr) : Prop := h.dst = 47130 ∧ h.version = 1 ∧ f.ip = h.ip ∧ f.udp = h.udp ∧ f.opens h ≠ none

/-- A message of an open flow in order, from its host, with room in the inbound share and below its cap, every home in reach of its port; no
other message of the flow waits (R387, R391, R392, R400). -/
def State.inTurn (s : State) (h : Hdr) (m : InMsg) (f : Flow) : Prop :=
  (s.link (18 + (portIx h.port).val)).st = .up ∧ s.flows.filter (fun g => decide (g.port = h.port ∧ g.no = h.flow)) = [f] ∧
    f.knows h ∧ h.seq.toNat = f.rx ∧ f.held = [] ∧ f.inq = [] ∧
    s.shareUsed h.port f.ctx + m.payload ≤ 262144 ∧ s.underCap h.port f.ctx m.cls = true ∧ ∀ d, s.dieReach (portDie h.port) d = true
/-- Such a message, well formed. -/
def State.arrives (s : State) (h : Hdr) (m : InMsg) (f : Flow) : Prop := s.inTurn h m f ∧ s.goodForm f h m = true

/-- The state as the message is applied: its acknowledgement taken, its sequence counted, its payload counted in the budget (R392,
R400). -/
def State.taken (s : State) (h : Hdr) (f : Flow) (m : InMsg) : State :=
  ((s.takeAck h.port h.flow h.ack h.sack).modFlow h.port h.flow (fun g =>
    { g with rx := g.rx + 1, inq := [], pendAck := g.pendAck + 1 })).countBytes h.port f.ctx m.cls m.payload

/-- After a message: the acknowledgement after 16 unacknowledged ones, and the end of the flow's sequences (R392, R393). -/
def State.afterMessage (s : State) (h : Hdr) : State :=
  (match s.flow h.port h.flow with
    | some f => if 16 ≤ f.pendAck then s.send h.port h.flow .ack else s
    | none => s).checkSeqs h.port h.flow

/-- The effect of a message that is applied for context `n`. -/
def MsgForm (i : Hdr → Instr) (m : InMsg) (eff : State → Hdr → Nat → State → Prop) : Prop :=
  ∀ (s v : State) (h : Hdr) (f : Flow), s.arrives h m f → h.tag = s.tagOf f.ctx → eff (s.taken h f m) h f.ctx v →
    exec (i h) s = .next (v.afterMessage h)

/-- A message of the host other than a command (Table 18.5). -/
def carriesMsg (i : Hdr → Instr) (m : InMsg) : Prop :=
  (∃ q es, i = (fun h => .append h q es) ∧ m = .append q es) ∨ (∃ va l id, i = (fun h => .read h va l id) ∧ m = .read va l id) ∨
    (∃ va id d, i = (fun h => .write h va id d) ∧ m = .write va id d) ∨
    (∃ va n w, i = (fun h => .xlate h va n w) ∧ m = .xlate va n w) ∨
    (∃ id st o d, i = (fun h => .readData h id st o d) ∧ m = .readData id st o d) ∨
    (∃ id st, i = (fun h => .writeDone h id st) ∧ m = .writeDone id st)

/-- A piece of an access of the host at an address outside the host windows, within one page. -/
def State.onePiece (s : State) (n : Nat) (va : Word) (len : Nat) : Prop :=
  va.toNat % 65536 + len ≤ 65536 ∧ (s.ctx n).hostWin va = none

/-- A command in order on its flow whose turn it is (R37). -/
def State.commandDue (s : State) (h : CmdHdr) (c : Cmd) (f : Flow) : Prop :=
  s.arrives h.hdr (.cmd h c) f ∧ h.hdr.tag = s.tagOf f.ctx ∧
    let u := s.taken h.hdr f (.cmd h c)
    u.overtakes h c = true ∨ (u.busy h.ctx = false ∧ (u.ctx h.ctx).cmdQ = [] ∧ u.mustWait h c = false)

/-- A command (R37, Table 2.4): its checks in order, the right, the state, the operands and the room, each with the status of its
refusal, and what it does when they hold. -/
def CmdForm (i : CmdHdr → Instr) (c : Cmd) (code : Nat) (right stateOk operands room : State → CmdHdr → Prop)
    (eff : State → CmdHdr → State) : Prop :=
  ∀ (s : State) (h : CmdHdr) (f : Flow), s.commandDue h c f →
    let u := s.taken h.hdr f (.cmd h c)
    let gives (v : State) : Prop := exec (i h) s = .next (v.afterMessage h.hdr)
    (¬ right u h → gives (u.reply h code 3)) ∧
    (right u h → ¬ stateOk u h → gives (u.reply h code 1)) ∧
    (right u h → stateOk u h → ¬ operands u h → gives (u.reply h code 2)) ∧
    (right u h → stateOk u h → operands u h → ¬ room u h → gives (u.reply h code 5)) ∧
    (right u h → stateOk u h → operands u h → room u h → gives (eff u h))

/-- The issuer is the system context. -/
def bySys (_ : State) (h : CmdHdr) : Prop := tagCtx h.hdr.tag = 0
/-- The issuer is the system context or the context named. -/
def byOwn (_ : State) (h : CmdHdr) : Prop := tagCtx h.hdr.tag = 0 ∨ tagCtx h.hdr.tag = h.target.toNat
/-- The issuer is the context named. -/
def bySelf (_ : State) (h : CmdHdr) : Prop := tagCtx h.hdr.tag = h.target.toNat
/-- The context named is a tenant. -/
def tenantNamed (_ : State) (h : CmdHdr) : Prop := 1 ≤ h.target.toNat ∧ h.target.toNat ≤ 64
def always (_ : State) (_ : CmdHdr) : Prop := True
/-- The named context is in a state, where a tenant is named. -/
def inState (p : Ctx → Prop) (u : State) (h : CmdHdr) : Prop := tenantNamed u h → p (u.ctx h.ctx)
/-- READY or MIGRATING. -/
def Ctx.works (c : Ctx) : Prop := c.st = .ready ∨ c.st = .migrating

/-- The row of spec/opcode_table.json that an event due performs; an input performs its own. A blow of FW_COMMIT and the gathering of what is due at a core have none. -/
def Due.row : Due → Instr → Prop
  | .exposedResultWrite c, i => i = .exposedResultWrite c
  | .ldgReturn c, i => i = .ldgReturn c
  | .fillSettle c q, i => i = .fillSettle c q
  | .fillDelivery c q, i => i = .fillDelivery c q
  | .trapEntry c, i => i = .trapEntry c
  | .gridIssue c, i => i = .gridIssue c
  | .mWriteCycle c, i => i = .mWriteCycle c
  | .vWriteCycle c, i => i = .vWriteCycle c
  | .vldWrite c, i => i = .vldWrite c
  | .operandStarvation c, i => i = .operandStarvation c
  | .srFlagsWrite c, i => i = .srFlagsWrite c
  | .srCouchmWrite c, i => i = .srCouchmWrite c
  | .couchSave c, i => i = .programCouchSave c
  | .couchRestore c, i => i = .programCouchRestore c
  | .calenderPosition c, i => i = .calenderPosition c
  | .fenceDone c, i => i = .fenceDone c
  | .fwaitPass c, i => i = .fwaitPass c
  | .cwaitPass c q, i => i = .cwaitPass c q
  | .barrierRelease g b, i => i = .barrierRelease g b
  | .instructionFetch c, i => i = .instructionFetch c
  | .qfenceDone c, i => i = .qfenceDone c
  | .wfenceDone c, i => i = .wfenceDone c
  | .regionLimit c, i => i = .regionLimit c
  | .chunkTransfer c, i => i = .chunkTransfer c
  | .engineOpStart c q, i => i = .engineOpStart c q
  | .engineOpPerformed c q, i => i = .engineOpPerformed c q
  | .fsigPerform c, i => i = .fsigPerform c
  | .qpushAppend c, i => i = .qpushAppend c
  | .scatterTrainApply c, i => i = .scatterTrainApply c
  | .rredApply c, i => i = .rredApply c
  | .macroSequencerRun c, i => i = .macroSequencerRun c
  | .pageHash n va, i => i = .pageHash n va
  | .groupLull g, i => i = .groupLull g
  | .saveDone g, i => i = .saveDone g
  | .restoreDone g, i => i = .restoreDone g
  | .groupPlacement d, i => i = .groupPlacement d
  | .groupEnd g, i => i = .groupEnd g
  | .walkStart d, i => i = .walkStart d
  | .counterBlockRewrite d u, i => i = .counterBlockRewrite d u
  | .tileRecordAccept n, i => i = .tileRecordAccept n
  | .stagingCopyDone c, i => i = .stagingCopyDone c
  | .tileRecordComplete n, i => i = .tileRecordComplete n
  | .tileFaultRecord n, i => i = .tileFaultRecord n
  | .resetDrainDone n, i => i = .resetDrainDone n
  | .kernelLoadChecksDone n k, i => i = .kernelLoadChecksDone n k
  | .fuseBlow, _ => False
  | .coreDue, _ => False
  | .input j, i => i = j

/-- The packet at the pc of core `c` is fetched and may issue at once: it runs, no wait stands, its bundles and its shape are legal, it
no packet waits part way, it takes no mark and no register that it names is interlocked (R101, R148, R149, R164). -/
def State.issues (s t : State) (c : CoreIx) (p : Packet) : Prop :=
  s.boot.halted = false ∧ s.agenda = [] ∧ s.cur = c ∧ (s.core c).ctl.stall = 0 ∧ (s.core c).seqr = none ∧ s.mayIssue c = true ∧
    (s.core c).part = none ∧ (s.core c).ctl.markNext = false ∧ (s.endWait c).fetchPacket c = (.ok p, t) ∧ p.badHeader = none ∧ p.badShape = none ∧
    p.marked = false ∧ p.transfers = false ∧ (t.core c).grp.isSome = true ∧ p.interlocked (t.core c) (t.cyc c) = false

end Sys2Proof.Machine

section Statements
open Sys2Proof Sys2Proof.Machine

/-! ### S slots -/

/-- R182: Table 9.1, the shift and rotate amount, the latency, and the unassigned codes. -/
def Obligations.IntegerAluTable : Prop :=
  AluForm 1 0x000 .add 1 (fun x y => x + y) ∧
  AluForm 1 0x001 .sub 1 (fun x y => x - y) ∧
  AluForm 1 0x002 .and 1 (fun x y => x &&& y) ∧
  AluForm 1 0x003 .or 1 (fun x y => x ||| y) ∧
  AluForm 1 0x004 .xor 1 (fun x y => x ^^^ y) ∧
  AluForm 1 0x005 .andn 1 (fun x y => x &&& ~~~y) ∧
  AluForm 1 0x006 .shl 1 (fun x y => x <<< (y.toNat % 64)) ∧
  AluForm 1 0x007 .shr 1 (fun x y => x >>> (y.toNat % 64)) ∧
  AluForm 1 0x008 .sar 1 (fun x y => x.sshiftRight (y.toNat % 64)) ∧
  AluForm 1 0x009 .rot 1 (fun x y => (x <<< (y.toNat % 64)) ||| (x >>> (64 - y.toNat % 64))) ∧
  AluForm 1 0x00A .min 1 (fun x y => if x.toInt ≤ y.toInt then x else y) ∧
  AluForm 1 0x00B .max 1 (fun x y => if x.toInt ≤ y.toInt then y else x) ∧
  AluForm 1 0x00C .minu 1 (fun x y => if x.toNat ≤ y.toNat then x else y) ∧
  AluForm 1 0x00D .maxu 1 (fun x y => if x.toNat ≤ y.toNat then y else x) ∧
  AluForm 1 0x00E .slt 1 (fun x y => if x.toInt < y.toInt then 1 else 0) ∧
  AluForm 1 0x00F .sltu 1 (fun x y => if x.toNat < y.toNat then 1 else 0) ∧
  AluForm 1 0x010 .seq 1 (fun x y => if x = y then 1 else 0) ∧
  ∀ (lit : Option Cell) (d a b : BitVec 5) (l : Bool) (f : BitVec 9), 0x011 ≤ f.toNat →
    decodeSlot .s lit (sWord 1 d a b l f) = .error .unassignedFunction

/-- R184: multiplication and division, their latencies, and the unassigned codes. -/
def Obligations.MultiplyDivide : Prop :=
  AluForm 2 0x000 .mul 3 (fun x y => (x.signExtend 128 * y.signExtend 128).extractLsb' 0 64) ∧
  AluForm 2 0x001 .mulh 3 (fun x y => (x.signExtend 128 * y.signExtend 128).extractLsb' 64 64) ∧
  AluForm 2 0x002 .mulhu 3 (fun x y => (x.setWidth 128 * y.setWidth 128).extractLsb' 64 64) ∧
  AluForm 2 0x003 .div 20 (fun x y =>
    if y = 0 then 0xFFFFFFFFFFFFFFFF
    else if x = 0x8000000000000000 ∧ y = -1 then 0x8000000000000000
    else BitVec.ofInt 64 (x.toInt.tdiv y.toInt)) ∧
  AluForm 2 0x004 .divu 20 (fun x y => if y = 0 then 0xFFFFFFFFFFFFFFFF else BitVec.ofNat 64 (x.toNat / y.toNat)) ∧
  AluForm 2 0x005 .rem 20 (fun x y =>
    if y = 0 then x
    else if x = 0x8000000000000000 ∧ y = -1 then 0
    else BitVec.ofInt 64 (x.toInt - y.toInt * x.toInt.tdiv y.toInt)) ∧
  AluForm 2 0x006 .remu 20 (fun x y => if y = 0 then x else BitVec.ofNat 64 (x.toNat % y.toNat)) ∧
  ∀ (lit : Option Cell) (d a b : BitVec 5) (l : Bool) (f : BitVec 9), 0x007 ≤ f.toNat →
    decodeSlot .s lit (sWord 2 d a b l f) = .error .unassignedFunction

/-- R185: SEL, with s in function [4:0] and [8:5] zero. -/
def Obligations.SelectPicks : Prop :=
  ∀ (s : State) (lit : Option Cell) (d a b : BitVec 5) (l : Bool) (c : BitVec 5), (l = true → b = 0 ∧ lit.isSome) →
    decodeSlot .s lit (sWord 3 d a b l ((0#4 ++ c : BitVec 9))) = .ok (.sel d a b l c) ∧
      exec (.sel d a b l c) s = .next (s.result d
        (if s.rx c ≠ 0 then s.rx a else if l then (s.slot.lit.getD 0).signExtend 64 else s.rx b) 1) ∧
      (c = 0 → exec (.sel d a b l c) s =
        .next (s.result d (if l then (s.slot.lit.getD 0).signExtend 64 else s.rx b) 1))

/-- R183: the immediate forms and LI. -/
def Obligations.ImmediateForms : Prop :=
  ImmForm 0x10 .addi (fun _ _ => True) (fun x y => x + y) ∧
  ImmForm 0x11 .andi (fun _ _ => True) (fun x y => x &&& y) ∧
  ImmForm 0x12 .ori (fun _ _ => True) (fun x y => x ||| y) ∧
  ImmForm 0x13 .xori (fun _ _ => True) (fun x y => x ^^^ y) ∧
  ImmForm 0x14 .shli shiftAmount (fun x y => x <<< (y.toNat % 64)) ∧
  ImmForm 0x15 .shri shiftAmount (fun x y => x >>> (y.toNat % 64)) ∧
  ImmForm 0x16 .sari shiftAmount (fun x y => x.sshiftRight (y.toNat % 64)) ∧
  (∀ (s : State) (lit : Option Cell) (d : BitVec 5) (n : BitVec 15), (n = 0x4000 → lit.isSome) →
    decodeSlot .s lit (0x17#7 ++ d ++ 0#5 ++ n) = .ok (.li d n) ∧
      exec (.li d n) s =
        .next (s.result d (if n = 0x4000 then (s.slot.lit.getD 0).signExtend 64 else n.signExtend 64) 1)) ∧
  (∀ (lit : Option Cell) (op : BitVec 7) (d a : BitVec 5) (n : BitVec 15), 0x14 ≤ op.toNat → op.toNat ≤ 0x16 →
    ¬ shiftAmount lit n → decodeSlot .s lit (op ++ d ++ a ++ n) = .error .reservedField) ∧
  ∀ (lit : Option Cell) (d a : BitVec 5) (n : BitVec 15), a ≠ 0 →
    decodeSlot .s lit (0x17#7 ++ d ++ a ++ n) = .error .reservedField

/-- R186: the packed bit operations, field by field. -/
def Obligations.PackedBits : Prop :=
  ∀ (s : State) (d a b : BitVec 5) (l : Bool) (w : BitVec 2),
    BitForm s (.clz d a w) d w (s.rx a) 0 (fun n x _ y => isCount n y (fun i => x (n - 1 - i))) ∧
    BitForm s (.ctz d a w) d w (s.rx a) 0 (fun n x _ y => isCount n y x) ∧
    BitForm s (.ffs d a w) d w (s.rx a) 0 (fun n x _ y =>
      if ∀ i < n, x i = false then valOf n y = 0 else 0 < valOf n y ∧ x (valOf n y - 1) = true ∧ ∀ i < valOf n y - 1, x i = false) ∧
    BitForm s (.popc d a w) d w (s.rx a) 0 (fun n x _ y => valOf n y = (List.range n).countP x) ∧
    BitForm s (.brev d a w) d w (s.rx a) 0 (fun n x _ y => ∀ i < n, y i = x (n - 1 - i)) ∧
    BitForm s (.bext d a b l w) d w (s.rx a) (s.opB b l) (fun n x m y =>
      (∀ i < n, m i = true → y ((List.range i).countP m) = x i) ∧ ∀ j < n, (List.range n).countP m ≤ j → y j = false) ∧
    BitForm s (.bins d a b l w) d w (s.rx a) (s.opB b l) (fun n x m y =>
      ∀ i < n, y i = (m i && x ((List.range i).countP m)))

/-- R187: the mask operations. A result in a k register also travels to the grid side with the packet (R158). -/
def Obligations.MaskOperations : Prop :=
  ∀ (s : State) (d a b : BitVec 5),
    exec (.kand d a b) s = .next (s.kLands (d.extractLsb' 0 3) (s.kReg a &&& s.kReg b)) ∧
    exec (.kor d a b) s = .next (s.kLands (d.extractLsb' 0 3) (s.kReg a ||| s.kReg b)) ∧
    exec (.kxor d a b) s = .next (s.kLands (d.extractLsb' 0 3) (s.kReg a ^^^ s.kReg b)) ∧
    exec (.knot d a) s = .next (s.kLands (d.extractLsb' 0 3) (~~~s.kReg a)) ∧
    exec (.kmovKK d a) s = .next (s.kLands (d.extractLsb' 0 3) (s.kReg a)) ∧
    exec (.kmovKX d a) s = .next (s.kLands (d.extractLsb' 0 3) (s.rx a)) ∧
    exec (.kmovXK d a) s = .next (s.result d (s.kReg a) 1) ∧
    exec (.kpopc d a) s =
      .next (s.result d (BitVec.ofNat 64 ((List.range 64).countP (fun i => (s.kReg a).getLsbD i))) 1) ∧
    ∃ n : Nat, exec (.kfirst d a) s = .next (s.result d (BitVec.ofNat 64 n) 1) ∧ n ≤ 64 ∧
      (∀ i < n, (s.kReg a).getLsbD i = false) ∧ (n < 64 → (s.kReg a).getLsbD n = true)

/-- R158, R164, R180: where an x result lands. A result of latency L is kept with the count t + L; the results whose count has come
are written in order, so that the last of them stands; x0 reads 0 whatever is written. -/
def Obligations.ResultsLandAtTheirCount : Prop :=
  (∀ (s : State) (d : BitVec 5) (v : Word) (lat : Nat), d ≠ 0 →
    (s.result d v lat).me.rs.pend = s.me.rs.pend ++ [⟨.x d, v, s.me.rs.issue + lat, 0⟩] ∧ (s.result d v lat).me.x = s.me.x) ∧
  (∀ (s : State) (v : Word) (lat : Nat), s.result 0 v lat = s) ∧
  ∀ (k : Core) (cyc : Word) (r : BitVec 5),
    (k.landDue cyc).rx r =
      (if r = 0 then 0
       else
        match (k.rs.pend.filter (fun e => decide (e.dst = .x r) && decide (e.due ≤ k.rs.issue ∧ e.arr.toNat ≤ cyc.toNat))).getLast? with
        | some e => e.val
        | none => k.rx r) ∧
    (k.landDue cyc).rs.pend = k.rs.pend.filter (fun e => !decide (e.due ≤ k.rs.issue ∧ e.arr.toNat ≤ cyc.toNat))

/-- R188 to R190: what a transfer does, and that it happens after the packet. -/
def Obligations.ControlTransfers : Prop :=
  (∀ (s : State) (a b : BitVec 5) (o : BitVec 12),
    exec (.bEq a b o) s = .next (if s.rx a = s.rx b then s.goes o true else s) ∧
    exec (.bNe a b o) s = .next (if s.rx a ≠ s.rx b then s.goes o true else s) ∧
    exec (.bLt a b o) s = .next (if (s.rx a).toInt < (s.rx b).toInt then s.goes o true else s) ∧
    exec (.bGe a b o) s = .next (if (s.rx b).toInt ≤ (s.rx a).toInt then s.goes o true else s) ∧
    exec (.bLtu a b o) s = .next (if (s.rx a).toNat < (s.rx b).toNat then s.goes o true else s) ∧
    exec (.bGeu a b o) s = .next (if (s.rx b).toNat ≤ (s.rx a).toNat then s.goes o true else s)) ∧
  (∀ (s : State) (o : BitVec 25),
    exec (.j o) s = .next (s.goes o true) ∧ exec (.call o) s = .next ((s.result 31 s.slot.nextAddr 1).goes o true)) ∧
  (∀ (s : State) (a : BitVec 5), (s.rx a).getLsbD 0 = false →
    (s.env s.cur).codeVa.toNat ≤ (s.rx a).toNat → (s.rx a).toNat < (s.env s.cur).codeVa.toNat + (s.env s.cur).codeLen →
    exec (.ret a) s = .next (s.modSlot (fun c => { c with npc := s.rx a, lost := true }))) ∧
  (∀ (s : State) (a : BitVec 5), ((s.rx a).getLsbD 0 = true ∨ (s.rx a).toNat < (s.env s.cur).codeVa.toNat ∨
    (s.env s.cur).codeVa.toNat + (s.env s.cur).codeLen ≤ (s.rx a).toNat) →
    exec (.ret a) s = .next (s.raise 0x072 (s.rx a))) ∧
  (∀ (s : State) (a : BitVec 5) (o : BitVec 12),
    exec (.loop a o) s = .next
      (if s.rx a = 0 then s
       else if s.rx a - 1 = 0 then (s.result a 0 1).modSlot (fun c => { c with lost := true })
       else (s.result a (s.rx a - 1) 1).goes o false)) ∧
  ∀ (k : Core) (t : SlotCtx) (cyc : Word),
    (k.retirePacket t cyc).ctl.pc = t.npc ∧ (k.retirePacket t cyc).ctl.stall = (if t.lost then 1 else 0)

/-- R159, R191, R192: what CSRR reads, by the numbers of Table 7.7. -/
def Obligations.ControlRegisterReads : Prop :=
  (∀ (s : State) (d : BitVec 5), s.me.ctl.st ≠ .replay → s.me.rs.log.length < 32 →
    CsrReads s d 0x000 (s.cluster (clusterOf s.cur)).ccyc ∧
    CsrReads s d 0x001 (s.cluster (clusterOf s.cur)).ccyc ∧
    CsrReads s d 0x002 (0#42 ++ s.pkg ++ BitVec.ofBool s.me.substituted ++ 0#6 ++ s.cur) ∧
    CsrReads s d 0x003 (0#42 ++ (s.ctx (s.ctxOf s.cur)).desc.part.extractLsb' 0 6 ++ s.tagOf (s.ctxOf s.cur)) ∧
    (s.me.xbCap = 2097152 → s.me.wbCap = 2097152 → s.me.gbCap = 65536 → CsrReads s d 0x004 0x0020004008000800) ∧
    (s.me.xbCap = 1048576 → s.me.wbCap = 1048576 → s.me.gbCap = 65536 → CsrReads s d 0x004 0x0020004004000400) ∧
    CsrReads s d 0x005 (0#15 ++ s.ports[1].factor ++ 0#15 ++ s.ports[0].factor) ∧
    CsrReads s d 0x011 s.me.fmt ∧
    CsrReads s d 0x012 s.me.shp ∧
    CsrReads s d 0x030 s.me.ctl.tvec ∧
    CsrReads s d 0x031 s.me.ctl.epc ∧
    CsrReads s d 0x032 s.me.ctl.cause ∧
    CsrReads s d 0x033 s.me.ctl.tval ∧
    (s.me.grid.pkts = [] → s.me.grid.giq = [] → CsrReads s d 0x010 (s.me.grid.flags.setWidth 64)) ∧
    (s.me.grid.couch.active = false → s.me.grid.giq = [] →
      CsrReads s d 0x020 (0#40 ++ s.me.grid.couch.base ++ 0#8 ++ BitVec.ofBool s.me.grid.couch.op ++ 0#1 ++
        BitVec.ofNat 6 s.me.grid.couch.next) ∧
      CsrReads s d 0x021 s.me.grid.couch.mask)) ∧
  (∀ (s : State) (d : BitVec 5) (n : BitVec 12) (v : Word), csrListed n = true → s.me.logged = some v →
    exec (.csrr d n) s = .next ((s.result d v 1).modMe (fun k => k.logAdvance 1))) ∧
  (∀ (s : State) (d : BitVec 5), s.me.ctl.st ≠ .replay → s.me.rs.log.length < 32 → s.me.gridBusy = true →
    exec (.csrr d 0x010) s = .next (if s.me.timed = true then s.timing 9 else s.hold .flags)) ∧
  (∀ (s : State) (d : BitVec 5), s.me.ctl.st ≠ .replay → s.me.rs.log.length < 32 → s.me.grid.couch.active = true →
    exec (.csrr d 0x020) s = .next (if s.me.timed = true then s.timing 9 else s.hold .couch) ∧
      exec (.csrr d 0x021) s = .next (if s.me.timed = true then s.timing 9 else s.hold .couch)) ∧
  (∀ (s : State) (d : BitVec 5) (n : BitVec 12), csrListed n = true → s.me.ctl.st ≠ .replay → s.me.rs.log.length = 32 →
    exec (.csrr d n) s = .next (s.raise 0x0C2 33)) ∧
  ∀ n : BitVec 12, csrListed n = true ↔
    n.toNat ≤ 5 ∨ (0x010 ≤ n.toNat ∧ n.toNat ≤ 0x012) ∨ n.toNat = 0x020 ∨ n.toNat = 0x021 ∨ (0x030 ≤ n.toNat ∧ n.toNat ≤ 0x033)

/-- R119, R146, R160, R191: what CSRW, CSRS and CSRC write, and where they trap. -/
def Obligations.ControlRegisterWrites : Prop :=
  (∀ (s : State) (a : BitVec 5), s.unblocked →
    ((s.rx a).getLsbD 0 = false → exec (.csrw a 0x030) s = .next (s.afterGate.modCtl s.cur (fun t => { t with tvec := s.rx a }))) ∧
    exec (.csrs a 0x030) s = .next (s.afterGate.modCtl s.cur (fun t => { t with tvec := t.tvec ||| s.rx a })) ∧
    exec (.csrc a 0x030) s = .next (s.afterGate.modCtl s.cur (fun t => { t with tvec := t.tvec &&& ~~~s.rx a })) ∧
    ((s.rx a).getLsbD 0 = false → exec (.csrw a 0x031) s = .next (s.afterGate.modCtl s.cur (fun t => { t with epc := s.rx a }))) ∧
    exec (.csrs a 0x031) s = .next (s.afterGate.modCtl s.cur (fun t => { t with epc := t.epc ||| s.rx a })) ∧
    exec (.csrc a 0x031) s = .next (s.afterGate.modCtl s.cur (fun t => { t with epc := t.epc &&& ~~~s.rx a })) ∧
    CsrWrites s a 0x021 (fun op => s.afterGate.carries (.couchm op (s.rx a))) ∧
    ((s.rx a).toNat < 128 → CsrWrites s a 0x010 (fun op => s.afterGate.carries (.flags op (s.rx a))))) ∧
  (∀ (s : State) (a : BitVec 5),
    let now (op : BitVec 2) : State := s.carries (.couch op (s.rx a))
    (s.rx a &&& 0xFFFFFFFFFF00FE00 = 0 → (s.rx a).getLsbD 8 = false →
      exec (.csrw a 0x020) s = .next (now 0) ∧ exec (.csrs a 0x020) s = .next (now 1)) ∧
    exec (.csrc a 0x020) s = .next (now 2)) ∧
  (∀ (s : State) (a : BitVec 5), s.rx a &&& 0xFFFFFFFFFF00FE00 = 0 → (s.rx a).getLsbD 8 = true → s.me.grid.giq = [] →
    let base := s.me.grid.couch.base ||| (s.rx a).extractLsb' 16 8
    exec (.csrs a 0x020) s = .next
      (if (s.env s.cur).gbext < (base.toNat + 64) * 256 then s.raise 0x050 (BitVec.ofNat 64 (base.toNat * 256))
       else s.carries (.couch 1 (s.rx a)))) ∧
  (∀ (s : State) (a : BitVec 5), s.rx a &&& 0xFFFFFFFFFF00FE00 = 0 → (s.rx a).getLsbD 8 = true →
    exec (.csrw a 0x020) s = .next
      (if (s.env s.cur).gbext < (((s.rx a).extractLsb' 16 8).toNat + 64) * 256 then
         s.raise 0x050 (BitVec.ofNat 64 (((s.rx a).extractLsb' 16 8).toNat * 256))
       else s.carries (.couch 0 (s.rx a)))) ∧
  (∀ (s : State) (a d : BitVec 5) (n : BitVec 12), csrListed n = false →
    CsrWrites s a n (fun _ => s.illegal .reservedRegister) ∧ exec (.csrr d n) s = .next (s.illegal .reservedRegister)) ∧
  (∀ (s : State) (a : BitVec 5) (n : BitVec 12), n.toNat ≤ 5 ∨ n = 0x011 ∨ n = 0x012 ∨ n = 0x032 ∨ n = 0x033 →
    CsrWrites s a n (fun _ => s.illegal .readOnlyRegister)) ∧
  (∀ (s : State) (a : BitVec 5) (n : BitVec 12),
    (n = 0x010 ∧ 128 ≤ (s.rx a).toNat) ∨ (n = 0x020 ∧ s.rx a &&& 0xFFFFFFFFFF00FE00 ≠ 0) →
    exec (.csrw a n) s = .next (s.illegal .reservedField) ∧ exec (.csrs a n) s = .next (s.illegal .reservedField)) ∧
  ∀ (s : State) (a : BitVec 5) (n : BitVec 12), n = 0x030 ∨ n = 0x031 → (s.rx a).getLsbD 0 = true →
    exec (.csrw a n) s = .next (s.illegal .reservedField)

/-- R193 to R196, R123: SETFMT, SETSHAPE, SETTILE and SEED. -/
def Obligations.FormatAndDeckle : Prop :=
  (∀ (s : State) (a : BitVec 5), exec (.setfmt a) s = .next
    (if (s.rx a).toNat < 2 ^ 29 ∧ ((s.rx a).extractLsb' 24 3).toNat < 6 then
       s.modMe (fun k => { k with rs := { k.rs with pend := k.rs.pend ++ [⟨.fmt, s.rx a, k.rs.issue + 4, 0⟩] } })
     else s.illegal .reservedField)) ∧
  (∀ (s : State) (d a b : BitVec 5), (s.rx a).toNat < 2 ^ 22 →
    let r0 := (s.rx a).toNat / 65536
    let rows := min ((s.rx a).toNat % 65536) (64 - r0)
    let cols := min (s.rx b).toNat 64
    let t := (s.result d (BitVec.ofNat 64 rows) 2).result (d + 1) (BitVec.ofNat 64 cols) 2
    exec (.setshape d a b) s = .next
      (if 0 < rows ∧ 0 < cols then t.modMe (fun k =>
         { k with rs := { k.rs with pend := k.rs.pend ++ [⟨.shape, BitVec.ofNat 64 (65536 * r0 + 256 * cols + rows), k.rs.issue + 2, 0⟩] } })
       else t)) ∧
  (∀ (s : State) (d a b : BitVec 5), 2 ^ 22 ≤ (s.rx a).toNat → exec (.setshape d a b) s = .next (s.illegal .reservedField)) ∧
  (∀ (s : State) (d a : BitVec 5),
    let r0 := (s.me.shp.extractLsb' 16 6).toNat
    let m := min (s.rx a).toNat (64 - r0)
    let n := min (s.rx (a + 1)).toNat 64
    let k := min (s.rx (a + 2)).toNat 64
    let t := ((s.result d (BitVec.ofNat 64 m) 2).result (d + 1) (BitVec.ofNat 64 n) 2).result (d + 2) (BitVec.ofNat 64 k) 2
    exec (.settile d a) s = .next
      (if 0 < m ∧ 0 < n then t.modMe (fun c =>
         { c with rs := { c.rs with pend := c.rs.pend ++ [⟨.shape, BitVec.ofNat 64 (65536 * r0 + 256 * n + m), c.rs.issue + 2, 0⟩] } })
       else t)) ∧
  (∀ (k : Core) (v : Word), (k.land .shape v).shp = v ∧ (k.land .fmt v).fmt = v) ∧
  ∀ (s : State) (a : BitVec 5), exec (.seed a) s = .next (s.carries (.seed (s.rx a)))

/-- R197, R198, R403 to R405: TRAP, ERET, and the entry and the doubling of a trap. -/
def Obligations.TrapsAndReturn : Prop :=
  (∀ (s : State) (n : BitVec 15), s.unblocked → s.handlerReady → ∃ t, exec (.trap n) s = .next t ∧ s.entered t 0x0D0 (n.setWidth 64) s.slot.nextAddr ∧
    t.slot.npc = s.me.ctl.tvec) ∧
  (∀ (s : State), s.me.ctl.inTrap = true → ∃ t, exec .eret s = .next t ∧
    t.me.ctl = { s.me.ctl with inTrap := false, pc := s.me.ctl.epc
                               st := if s.me.ctl.st = .replay ∧ s.me.rs.logPos < s.me.rs.log.length then .replay else .run } ∧
    t.slot.npc = s.me.ctl.epc ∧ t.me.x = s.me.x ∧ t.me.k = s.me.k ∧ t.me.rs = s.me.rs ∧ t.me.grid = s.me.grid ∧ t.mem = s.mem) ∧
  (∀ (s : State), s.me.ctl.inTrap = false → exec .eret s = .next (s.raise 0x0E1 0)) ∧
  (∀ (s : State) (c : CoreIx) (r : TrapReq), (s.core c).ctl.pendTrap = some r → (s.core c).settled = true → (s.core c).gateFree →
    (s.core c).ctl.inTrap = false → (s.core c).ctl.tvec ≠ 0 → (s.core c).region.start = none →
    ∃ t, exec (.trapEntry c) s = .next t ∧ ({ s with cur := c } : State).entered t r.cause r.tval r.epc) ∧
  (∀ (s : State) (cause : BitVec 9) (tval : Word), s.me.settled = true → s.me.gateFree → s.handlerReady →
    s.entered (s.raise cause tval) cause tval s.slot.pktAddr) ∧
  (∀ (s : State) (c : CoreIx) (r : TrapReq), (s.core c).ctl.inTrap = true → s.trapEntry c r = s.endMine c 0x0E2 r.addr 0) ∧
  ∀ (s : State) (c : CoreIx) (r : TrapReq), (s.core c).ctl.inTrap = false → (s.core c).ctl.tvec = 0 →
    s.trapEntry c r = (s.commitAll c).endMine c r.cause r.addr r.tval

/-- R105, R148, R199 to R203, R325: synchronisation, the end of a program, and what has no effect. -/
def Obligations.SynchronisationAndEnd : Prop :=
  (∀ (s : State) (p : Word), s.unblocked → s.me.ctl.csyncAt = some p → p.toNat ≤ (s.cyc s.cur).toNat → s.me.timed = false ∨ (s.noOpenWindow ∧ s.me.grp.isSome) →
    exec .csync s = .next (s.afterGate.modMe (fun k =>
      { k with
        region := { start := some p, lockLo := s.slot.pktAddr
                    lockHi := BitVec.ofNat 64 (min (s.slot.pktAddr.toNat + 8192) ((s.env s.cur).codeVa.toNat + (s.env s.cur).codeLen))
                    sends := [], recvs := [] }
        ctl := { k.ctl with csyncAt := none } }))) ∧
  (∀ (s : State) (n : BitVec 4) (g : Group), s.unblocked → (s.env s.cur).bmask.getLsbD n.toNat = true → s.myGroup = some g →
    g.bar.broken = false → (n, g.rankOf s.cur) ∉ g.bar.arr →
    (s.othersArrived g n → exec (.bara n) s = .next (s.afterGate.modGroup g.id (fun h => { h with bar := { h.bar with
      arr := h.bar.arr.filter (fun a => decide (a.1 ≠ n)), p := h.bar.advanced n } }))) ∧
    (¬ s.othersArrived g n → exec (.bara n) s = .next (s.afterGate.modGroup g.id (fun h => { h with bar := { h.bar with
      arr := h.bar.arr ++ [(n, g.rankOf s.cur)] } })))) ∧
  (∀ (s : State) (n : BitVec 4) (g : Group), (s.env s.cur).bmask.getLsbD n.toNat = true → s.myGroup = some g →
    g.bar.broken = false → (n, g.rankOf s.cur) ∈ g.bar.arr → exec (.bara n) s = .next (s.raise 0x0F1 (n.setWidth 64))) ∧
  (∀ (s : State) (n : BitVec 4) (g : Group), s.unblocked → s.me.timed = false → (s.env s.cur).bmask.getLsbD n.toNat = true →
    s.myGroup = some g → g.bar.broken = false →
    ((∃ w ∈ g.bar.w, w.1 = g.rankOf s.cur ∧ w.2.1 = n ∧ w.2.2 ≠ g.bar.phase n) →
      exec (.barw n) s = .next (s.afterGate.modGroup g.id (fun h => { h with bar := { h.bar with
        w := h.bar.w.filter (fun w => decide (w.1 ≠ g.rankOf s.cur)) } }))) ∧
    ((∀ w ∈ g.bar.w, w.1 = g.rankOf s.cur → w.2.1 ≠ n) → s.othersArrived g n →
      exec (.barw n) s = .next (s.afterGate.modGroup g.id (fun h => { h with bar := { h.bar with
        arr := h.bar.arr.filter (fun a => decide (a.1 ≠ n)), p := h.bar.advanced n
        w := h.bar.w.filter (fun w => decide (w.1 ≠ g.rankOf s.cur)) } })))) ∧
  (∀ (s : State) (a : BitVec 5) (sc : BitVec 3) (l : Bool) (n : BitVec 8), s.unblocked → s.me.timed = false →
    (sc = 4 → (s.env s.cur).fmask.getLsbD 3 = false) →
    let v := if l then s.litS else s.rx a
    exec (.fwait a sc l n) s = .next
      (if v.toNat ≤ ((s.ctx (s.ctxOf s.cur)).counter n).toNat then s.afterGate else s.afterGate.hold (.fwait n v))) ∧
  (∀ (s : State), s.unblocked → s.me.timed = false → ∃ t, exec .exit s = .next t ∧
    (t.core s.cur).ctl = { s.me.ctl with st := .exited, wait := none } ∧ (t.core s.cur).rs.gate = [] ∧
    (t.core s.cur).x = s.me.x ∧ (t.core s.cur).k = s.me.k ∧ (t.core s.cur).grid = s.me.grid ∧ (t.core s.cur).eng = s.me.eng) ∧
  (∀ (s : State) (x r u : Bool) (b : BitVec 5) (o : BitVec 13), exec .nop s = .next s ∧ exec (.nullBundle x r u) s = .next s ∧
    exec (.pref b o) s = .next s) ∧
  ∀ (s : State) (n : BitVec 4), (s.env s.cur).bmask.getLsbD n.toNat = false →
    exec (.bara n) s = .next (s.illegal .reservedField) ∧ exec (.barw n) s = .next (s.illegal .reservedField)

/-! ### A slots -/

/-- R104, R207, R209: the seven LDs from the buffers, and LDG with its return. -/
def Obligations.LoadsReadTheirSpace : Prop :=
  (
  LoadForm .ldB 1 true ∧ LoadForm .ldH 2 true ∧ LoadForm .ldW 4 true ∧ LoadForm .ldD 8 false ∧
    LoadForm .ldBu 1 false ∧ LoadForm .ldHu 2 false ∧ LoadForm .ldWu 4 false ∧
  (∀ (s : State) (sp : Space) (a : Nat), s.slot.undo = [] →
    s.loadByte sp a = (youngest (s.me.rs.gate.take s.slot.older) sp a).getD ((s.me.buf sp).read a)) ∧
  (∀ (s : State) (d b : BitVec 5) (p : BitVec 2) (o : BitVec 13), s.inBuffer (spaceOf p) (s.addr b o 8) 8 8 → s.me.timed = false →
    s.me.ctl.st ≠ .replay → s.me.rs.log.length = 32 → exec (.ldD d b p o) s = .next (s.raise 0x0C2 33))) ∧
  (
  LdgForm .ldgB ⟨1, true⟩ ∧ LdgForm .ldgH ⟨2, true⟩ ∧ LdgForm .ldgW ⟨4, true⟩ ∧ LdgForm .ldgD ⟨8, false⟩ ∧
    LdgForm .ldgBu ⟨1, false⟩ ∧ LdgForm .ldgHu ⟨2, false⟩ ∧ LdgForm .ldgWu ⟨4, false⟩ ∧
  (∀ (s : State) (c : CoreIx), (∀ l, (s.core c).oldestRead ≠ some (.ldg l)) → exec (.ldgReturn c) s = .next s) ∧
  ∀ (s t : State) (c : CoreIx) (l : Ldg) (pa : Nat), (s.core c).oldestRead = some (.ldg l) →
    s.translate (s.ctxOf c) (dieOf c) (some c) l.va .read l.w.bytes = (.ok pa, t) → t.dieReach (dieOf c) (homeDie pa) = true →
    t.noWalks →
    let bs := (List.range l.w.bytes).map (fun j => (youngest ((s.core c).rs.gate.take l.older) .dm (pa + j)).getD (s.mem.read (pa + j)))
    let raw : BitVec (8 * l.w.bytes) := BitVec.ofNat (8 * l.w.bytes) (leNat bs)
    let v : Word := if l.w.signed then raw.signExtend 64 else raw.setWidth 64
    exec (.ldgReturn c) s = .next (t.modCore c (fun k =>
      { k with x := if l.d = 0 then k.x else k.x.set l.d.toNat v l.d.isLt
               rs := { k.rs with log := k.rs.log.set l.log (some v), ldgs := k.rs.ldgs.filter (fun m => decide (m ≠ l)) } })))

/-- R103, R207, R209: the four STs and the four STGs complete with one entry more in the gate: what they store and where. Everything
but the gate stays, and a translation, which an STG makes as it enters the gate, fills TLBs and nothing else (R358). -/
def Obligations.StoresEnterTheGate : Prop :=
  StoreForm (fun r b p o => .stB r b p o) 1 ∧
  StoreForm (fun r b p o => .stH r b p o) 2 ∧
  StoreForm (fun r b p o => .stW r b p o) 4 ∧
  StoreForm (fun r b p o => .stD r b p o) 8 ∧
  StgForm (fun r b o => .stgB r b o) 1 ∧
  StgForm (fun r b o => .stgH r b o) 2 ∧
  StgForm (fun r b o => .stgW r b o) 4 ∧
  StgForm (fun r b o => .stgD r b o) 8 ∧
  ∀ (s : State) (n : Nat) (d : BitVec 2) (c : CoreIx) (va : Word) (k : AccKind) (len : Nat),
    let t := (s.translate n d (some c) va k len).2
    t = { s with cores := t.cores, dies := t.dies } ∧ (∀ e, t.core e = { s.core e with utlb := (t.core e).utlb }) ∧
      ∀ e, t.die e = { s.die e with ltlb := (t.die e).ltlb }

/-- R102, R103: the store gate commits in program order: each byte holds what the youngest committed store gave it, and every other
byte of the core's buffers and of device memory is unchanged. A store whose frame is no longer its context's writes nothing and is recorded (R363, R374;
that the record finds the store discarded is the model's choice, log 132). -/
def Obligations.GateCommitsInOrder : Prop :=
  (∀ (s : State) (c : CoreIx) (n : Nat) (sp : Space) (a : Nat), s.memWf → sp ≠ .dm →
    (((s.commitGate c n).core c).buf sp).read a =
      (youngest ((s.core c).rs.gate.take n) sp a).getD (((s.core c).buf sp).read a)) ∧
  (∀ (s : State) (c : CoreIx) (n : Nat) (a : Nat), s.memWf → s.noWalks →
    (s.commitGate c n).mem.read a =
      (youngest (((s.core c).rs.gate.take n).filter (fun h => decide (h.space ≠ .dm) || s.homeTakes c h.addr)) .dm a).getD (s.mem.read a)) ∧
  (∀ (s : State) (c : CoreIx) (n : Nat), ((s.commitGate c n).core c).rs.gate = (s.core c).rs.gate.drop n ∧
    ((s.commitGate c n).core c).x = (s.core c).x ∧ ((s.commitGate c n).core c).grid = (s.core c).grid ∧
    ((s.commitGate c n).core c).ctl = (s.core c).ctl) ∧
  (∀ (s : State) (c : CoreIx) (h : Held) (rest : List Held), (s.core c).rs.gate = h :: rest → h.space = .dm → s.homeTakes c h.addr = false →
    (s.commitGate c 1).mem = s.mem ∧ ∃ r f, (s.commitGate c 1).refused = s.refused ++ [(r, f)] ∧ r.agent = 1 ∧ r.core = c ∧ r.va = h.va ∧
      r.whr = h.bun ∧ f.va = h.va ∧ f.kind = .write ∧ f.size = h.data.length ∧ f.detail = (s.frameCheck (s.ctxOf c) h.addr).getD 0x05) ∧
  ∀ (s : State) (c d : CoreIx) (n : Nat), d ≠ c → (s.commitGate c n).core d = s.core d

/-- R205: bounds and alignment of every access to a buffer. -/
def Obligations.BufferFaults : Prop :=
  ∀ (s : State) (d b : BitVec 5) (p : BitVec 2) (o : BitVec 13) (q : BitVec 3) (r : BitVec 6),
    FaultForm (.ldB d b p o) s (spaceOf p) (s.addr b o 1) 1 1 ∧ FaultForm (.ldBu d b p o) s (spaceOf p) (s.addr b o 1) 1 1 ∧
    FaultForm (.ldH d b p o) s (spaceOf p) (s.addr b o 2) 2 2 ∧ FaultForm (.ldHu d b p o) s (spaceOf p) (s.addr b o 2) 2 2 ∧
    FaultForm (.ldW d b p o) s (spaceOf p) (s.addr b o 4) 4 4 ∧ FaultForm (.ldWu d b p o) s (spaceOf p) (s.addr b o 4) 4 4 ∧
    FaultForm (.ldD d b p o) s (spaceOf p) (s.addr b o 8) 8 8 ∧
    FaultForm (.stB d b p o) s (spaceOf p) (s.addr b o 1) 1 1 ∧ FaultForm (.stH d b p o) s (spaceOf p) (s.addr b o 2) 2 2 ∧
    FaultForm (.stW d b p o) s (spaceOf p) (s.addr b o 4) 4 4 ∧ FaultForm (.stD d b p o) s (spaceOf p) (s.addr b o 8) 8 8 ∧
    FaultForm (.qfill q b p o) s (spaceOf p) (s.addr b o 256) 256 4 ∧ FaultForm (.qfillt q b p o) s (spaceOf p) (s.addr b o 256) 16132 4 ∧
    FaultForm (.vld r b o) s .gb (s.addr b o 256) 256 4 ∧ FaultForm (.vst r b p o) s (spaceOf p) (s.addr b o 256) 256 4

/-- R108, R211 to R214: the fills of the operand queues. -/
def Obligations.QueueFills : Prop :=
  (∀ (s : State) (q : BitVec 3) (b : BitVec 5) (p : BitVec 2) (o : BitVec 13) (tr : Bool),
    let i : Instr := if tr then .qfillt q b p o else .qfill q b p o
    let len := if tr then 16132 else 256
    let step := if tr then 256 else 4
    let a := s.addr b o 256
    let u := s.me.grid.queue q
    s.inBuffer (spaceOf p) a len 4 →
    (u.fillN < u.f → exec i s = .next (s.modQ s.cur q (fun u => { u with fillN := u.fillN + 1 }))) ∧
    (u.f ≤ u.fillN → u.entries.length < 8 → s.me.xferBusy (spaceOf p) a.toNat len false = false →
      s.ownXfer (spaceOf p) a.toNat len false = false →
      ∃ e : QEntry, exec i s = .next (s.modQ s.cur q (fun u =>
          { u with entries := u.entries ++ [e], fillN := u.fillN + 1, f := u.f + 1 })) ∧
        (∀ j : Fin 64, e.data[j] = BitVec.ofNat 32 (((s.me.buf (spaceOf p)).le (a.toNat + step * j.val)) 4)) ∧
        e.seq = u.fillN ∧ e.settled = true ∧ e.present = false ∧ e.due = (s.cyc s.cur).toNat + 6)) ∧
  (∀ (s : State) (q : BitVec 3) (b : BitVec 5) (o : BitVec 13), s.me.timed = false →
    let a := s.addr b o 256
    let u := s.me.grid.queue q
    a.toNat % 4 = 0 → u.f ≤ u.fillN → u.entries.length < 8 → s.slot.markNext = false →
      ∃ e : QEntry, exec (.qfillg q b o) s = .next ((s.modQ s.cur q (fun u =>
          { u with entries := u.entries ++ [e], fillN := u.fillN + 1 })).modMe (fun k => { k with order := s.me.order + 1 })) ∧
        e.va = a ∧ e.ff = none ∧ e.seq = u.fillN ∧ e.settled = false ∧ e.present = false ∧ e.ord = s.me.order ∧ e.bun = s.slot.bunAddr) ∧
  (∀ (s : State) (q : BitVec 3) (b c : BitVec 5), s.me.timed = false → s.me.ctl.st ≠ .replay →
    let u := s.me.grid.queue q
    0 < (s.rx c).toNat → (s.rx c).toNat ≤ 64 → (s.rx b).toNat % 4 = 0 → s.me.rs.log.length < 32 → u.f ≤ u.fillN →
    u.entries.length < 8 → s.slot.markNext = false →
      ∃ e : QEntry, exec (.qfillgFf q b c) s = .next (((s.modMe (fun k => { k with rs := { k.rs with log := k.rs.log ++ [none] } })).modQ
          s.cur q (fun u => { u with entries := u.entries ++ [e], fillN := u.fillN + 1 })).modMe (fun k =>
            { k with order := s.me.order + 1 })) ∧
        e.va = s.rx b ∧ e.ff = some (c, (s.rx c).toNat, s.me.rs.log.length) ∧ e.settled = false ∧ e.seq = u.fillN) ∧
  (∀ (s : State) (q : BitVec 3) (b c : BitVec 5), (s.rx c).toNat = 0 ∨ 64 < (s.rx c).toNat →
    exec (.qfillgFf q b c) s = .next (s.illegal .reservedField)) ∧
  (∀ (s t : State) (c : CoreIx) (q : BitVec 3) (e : QEntry) (ps : List (Nat × Nat)),
    (s.core c).oldestRead = some (.fill q e) → e.ff = none → (∀ a b, s.dieReach a b = true) →
    s.translateRange (s.ctxOf c) (dieOf c) (some c) e.va .read 256 = (.ok ps, t) →
    exec (.fillSettle c q) s = .next ((t.readPieces ps).2.modQ c q (fun u => { u with
      f := u.f + 1
      entries := u.entries.map (fun h => if h.seq = e.seq then { h with settled := true, data := rowOfBytes (t.readPieces ps).1
                                                                        src := ⟨.dm, false, ps⟩, due := (s.cyc c).toNat } else h) }))) ∧
  ∀ (s : State) (c : CoreIx) (q : BitVec 3), exec (.fillDelivery c q) s = .next (s.modQ c q (fun u => { u with
    entries := u.entries.map (fun e => { e with present := e.present || (e.settled && decide (e.due ≤ (s.cyc c).toNat)) }) }))

/-- R215, R218 to R220: VLD and VST join the packet; SEND and RECV open their windows, and trap by the checks of R218 and R220. -/
def Obligations.TransfersAndWindows : Prop :=
  (∀ (s : State) (r : BitVec 6) (b : BitVec 5) (p : BitVec 2) (o : BitVec 13),
    let a := s.addr b o 256
    (s.inBuffer .gb a 256 4 → exec (.vld r b o) s = .next (s.modSlot (fun c => { c with pkt := { c.pkt with
      xfers := c.pkt.xfers ++ [⟨r, false, true, a.toNat⟩] } }))) ∧
    (s.inBuffer (spaceOf p) a 256 4 → exec (.vst r b p o) s = .next (s.modSlot (fun c => { c with pkt := { c.pkt with
      xfers := c.pkt.xfers ++ [⟨r, true, decide (spaceOf p = .gb), a.toNat⟩] } })))) ∧
  (∀ (s : State) (d b : BitVec 5) (o : BitVec 13),
    let v := s.rx d
    let a := s.addr b o 64
    let peer := v.extractLsb' 0 3
    let n := (v.extractLsb' 8 8).toNat
    let t := (v.extractLsb' 16 32).toNat
    let w : Win := ⟨a.toNat, t, n, peer, s.slot.bunAddr, none⟩
    v.extractLsb' 3 5 = 0 → v.extractLsb' 48 16 = 0 → 0 < n → peer ≠ inCluster s.cur → s.inBuffer .xb a (64 * n) 64 →
    (s.joined s.cur (coreIn (clusterOf s.cur) peer) = false →
      exec (.send d b o) s = .next (s.raise 0x0A0 (peer.setWidth 64)) ∧ exec (.recv d b o) s = .next (s.raise 0x0A0 (peer.setWidth 64))) ∧
    (s.joined s.cur (coreIn (clusterOf s.cur) peer) = true → s.me.timed = false →
      exec (.send d b o) s = .next (s.timing 1) ∧ exec (.recv d b o) s = .next (s.timing 1)) ∧
    (s.joined s.cur (coreIn (clusterOf s.cur) peer) = true → s.me.timed = true → t < s.regionCycle s.cur + 2 →
      exec (.send d b o) s = .next (s.timing 2) ∧ exec (.recv d b o) s = .next (s.timing 2)) ∧
    (s.joined s.cur (coreIn (clusterOf s.cur) peer) = true → s.me.timed = true → s.regionCycle s.cur + 2 ≤ t → s.unblocked →
      ((∀ u ∈ s.me.region.sends, t + n ≤ u.t ∨ u.t + u.n ≤ t) → s.me.xferBusy .xb a.toNat (64 * n) false = false →
        s.ownXfer .xb a.toNat (64 * n) false = false →
        exec (.send d b o) s = .next (s.afterGate.modMe (fun k => { k with region := { k.region with sends := k.region.sends ++ [w] } }))) ∧
      ((∀ u ∈ s.me.region.recvs, t + n ≤ u.t ∨ u.t + u.n ≤ t) → s.me.xferBusy .xb a.toNat (64 * n) true = false →
        s.ownXfer .xb a.toNat (64 * n) true = false →
        exec (.recv d b o) s = .next (s.afterGate.modMe (fun k => { k with region := { k.region with recvs := k.region.recvs ++ [w] } })))))

/-- R221, R222, R224: AMO and AMO.CAS, in both widths. -/
def Obligations.Atomics : Prop :=
  ∀ (o c f : BitVec 3),
    let pre (s : State) : Prop := c = 4 → (s.env s.cur).fmask.getLsbD 3 = false
    AmoForm (fun _ d b r w => .amoAdd d b r o c w) pre (fun s => s) amoAddF ∧
    AmoForm (fun _ d b r w => .amoMin d b r o c w) pre (fun s => s) amoMinF ∧
    AmoForm (fun _ d b r w => .amoMax d b r o c w) pre (fun s => s) amoMaxF ∧
    AmoForm (fun _ d b r w => .amoXchg d b r o c w) pre (fun s => s) amoXchgF ∧
    AmoForm (fun _ d b r w => .amoAnd d b r o c w) pre (fun s => s) amoAndF ∧
    AmoForm (fun _ d b r w => .amoOr d b r o c w) pre (fun s => s) amoOrF ∧
    AmoForm (fun _ d b r w => .amoCas d b r f o c w) pre (fun s => s) amoCasF

/-- R28, R223, R225: AMOSC performs at a calender position that its core owns, FENCE orders, and what happens at a position. -/
def Obligations.CalenderAndFences : Prop :=
  (let pre (s : State) : Prop := (s.env s.cur).fmask.getLsbD 0 = false ∧ s.slot.scUsed = false ∧ s.wheel % 512 = s.cur.toNat
   let post (s : State) : State := s.modSlot (fun c => { c with scUsed := true })
   AmoForm (fun _ d b r w => .amoscAdd d b r w) pre post amoAddF ∧
   AmoForm (fun _ d b r w => .amoscMin d b r w) pre post amoMinF ∧
   AmoForm (fun _ d b r w => .amoscMax d b r w) pre post amoMaxF ∧
   AmoForm (fun _ d b r w => .amoscXchg d b r w) pre post amoXchgF ∧
   AmoForm (fun _ d b r w => .amoscAnd d b r w) pre post amoAndF ∧
   AmoForm (fun _ d b r w => .amoscOr d b r w) pre post amoOrF ∧
   AmoForm (fun _ d b r w => .amoscCas d b r w) pre post amoCasF) ∧
  (∀ (s : State) (c : BitVec 3), s.unblocked → s.me.timed = false →
    ((c = 4 → (s.env s.cur).fmask.getLsbD 3 = false) →
      exec (.fenceAcq c) s = .next s.afterGate ∧ exec (.fenceRel c) s = .next s.afterGate ∧ exec (.fenceAcqrel c) s = .next s.afterGate) ∧
    (s.slot.scUsed = false → s.wheel % 512 = s.cur.toNat →
      exec .fenceSc s = .next (s.afterGate.modSlot (fun c => { c with scUsed := true }))) ∧
    (s.slot.scUsed = true ∨ s.wheel % 512 ≠ s.cur.toNat → exec .fenceSc s = .next (s.afterGate.hold .calender))) ∧
  (∀ (s u : State) (c : BitVec 3) (l : List DevRead), s.slot.settled = true → s.me.timed = false →
    (c = 4 → (s.env s.cur).fmask.getLsbD 3 = false) → s.me.gateFree → l.length = s.me.devReads.length → s.readsReturn l u →
    u.me.gateFree → u.gateBehind = false → exec (.fenceAcq c) s = .next u.afterGate) ∧
  (∀ (s : State) (c : CoreIx), s.wheel % 512 = c.toNat → (s.core c).ctl.wait = some .calender →
    exec (.calenderPosition c) s = .next (s.modCtl c (fun t => { t with wait := none }))) ∧
  ∀ (s : State) (c : CoreIx), s.wheel % 512 ≠ c.toNat ∨ (s.core c).ctl.wait ≠ some .calender → exec (.calenderPosition c) s = .next s

/-! ### M slots -/

/-- R123, R230, R245, R252 to R274: the M and V slots on the access side: the types each accepts, and the run-time bound of R263. -/
def Obligations.GridSlotsJoinTheirPacket : Prop :=
  (
  ∀ (a b t q : BitVec 2) (m n : BitVec 3) (h : BitVec 1),
    MJoins (.rk a b t) rkAccepts ∧ MJoins (.rkn a b t) rkAccepts ∧ MJoins (.rka a b t m n) rkAccepts ∧
    MJoins (.rks a b t m n) (fun fmt => rkAccepts fmt ∧ (fmtTA fmt).code ≠ 0 ∧ (fmtTB fmt).code ≠ 0 ∧ (fmtTD fmt).code = 0 ∧
      fmt.getLsbD 28 = true) ∧
    MJoins (.gzero t) (fun _ => True) ∧ MJoins (.gcopy t h) (fun _ => True) ∧ MJoins .gxpose (fun _ => True) ∧
    MJoins (.mpop a b q) (fun _ => True) ∧
    (let ok (fmt : Word) : Prop := ((fmtTA fmt).code = 0 ∨ (fmtTA fmt).code = 11) ∧ ((fmtTD fmt).code = 0 ∨ (fmtTD fmt).code = 11)
     MJoins (.gscaleQs t m) ok ∧ MJoins (.gscaleLiteral t) ok)) ∧
  (
  let fp (f : Word) : Prop := (fmtTA f).code = 0 ∧ (fmtTB f).code = 0 ∧ (fmtTD f).code = 0
  let any (_ : Word) : Prop := True
  let mulw (f : Word) : Prop := (fmtTA f).sound ∧ (fmtTB f).sound ∧ (fmtTA f).code ≠ 12 ∧ (fmtTB f).code ≠ 12 ∧
    ((fmtTD f).code = 0 ∨ ((fmtTD f).code = 11 ∧ (fmtTA f).isInt = true ∧ (fmtTB f).isInt = true))
  let cmp (f : Word) : Prop := ((fmtTA f).code = 0 ∧ (fmtTB f).code = 0) ∨ ((fmtTA f).code = 11 ∧ (fmtTB f).code = 11)
  let sf (f : Word) : Prop := (fmtTA f).code = 0 ∧ (fmtTD f).code = 0
  let cvt (f : Word) : Prop := (fmtTA f).sound ∧ (fmtTD f).sound ∧ (fmtTA f).code ≠ 12 ∧ (fmtTD f).code ≠ 12
  let qnt (f : Word) : Prop := (fmtTA f).code = 0 ∧ (fmtTD f).isInt = true
  let dqnt (f : Word) : Prop := (fmtTA f).isInt = true ∧ (fmtTD f).code = 0
  let bse (f : Word) : Prop := f.getLsbD 28 = true
  let apply (f : Word) : Prop := (fmtTA f).sound ∧ (fmtTA f).code ≠ 12 ∧ (fmtTD f).code = 0 ∧ f.getLsbD 28 = true
  let bqnt (f : Word) : Prop := (fmtTA f).code = 0 ∧ (fmtTD f).sound ∧ 3 ≤ (fmtTD f).code.toNat ∧ (fmtTD f).code.toNat ≤ 10 ∧
    f.getLsbD 28 = true
  let pack (f : Word) : Prop := (fmtTA f).sound ∧ (fmtTD f).sound ∧ (fmtTD f).width < 32 ∧
    ((fmtTA f).code = 0 ∨ (fmtTA f).code = 11 ∨ (fmtTA f).code = (fmtTD f).code)
  let unpk (f : Word) : Prop := (fmtTA f).sound ∧ (fmtTD f).sound ∧ (fmtTA f).width < 32 ∧
    ((fmtTD f).code = (fmtTA f).code ∨ (fmtTD f).code = 0 ∨ (fmtTD f).code = 11)
  let red (f : Word) : Prop := ((fmtTA f).code = 0 ∧ (fmtTD f).code = 0) ∨ ((fmtTA f).code = 11 ∧ (fmtTD f).code = 11)
  ∀ (d a b : BitVec 8) (m : Bool) (k q e : BitVec 3) (c : BitVec 6),
    let room (shp : Word) : Prop := e.toNat + (grpVecs d shp - 1) / 32 ≤ 7
    (VJoins (.vadd d a b m) any fp ∧ VJoins (.vsub d a b m) any fp ∧ VJoins (.vmul d a b m) any fp ∧
      VJoins (.vfma d a b m) any fp ∧ VJoins (.vfms d a b m) any fp ∧ VJoins (.vfnma d a b m) any fp ∧
      VJoins (.vmin d a b m) any fp ∧ VJoins (.vmax d a b m) any fp) ∧
    (VJoins (.vabs d a m) any any ∧ VJoins (.vneg d a m) any any ∧ VJoins (.vcpys d a b m) any any ∧
      VJoins (.viadd d a b m) any any ∧ VJoins (.visub d a b m) any any ∧ VJoins (.vimul d a b m) any any ∧
      VJoins (.vimulh d a b m) any any ∧ VJoins (.vimin d a b m) any any ∧ VJoins (.vimax d a b m) any any ∧
      VJoins (.vand d a b m) any any ∧ VJoins (.vor d a b m) any any ∧ VJoins (.vxor d a b m) any any ∧
      VJoins (.vshl d a b m) any any ∧ VJoins (.vshr d a b m) any any ∧ VJoins (.vsar d a b m) any any ∧
      VJoins (.vsel d a b) any any ∧ VJoins (.vclass d a m) any any) ∧
    VJoins (.vmulw d a b m) any mulw ∧
    (VJoins (.vcmpEq k a b m) any cmp ∧ VJoins (.vcmpNe k a b m) any cmp ∧ VJoins (.vcmpLt k a b m) any cmp ∧
      VJoins (.vcmpLe k a b m) any cmp ∧ VJoins (.vcmpGt k a b m) any cmp ∧ VJoins (.vcmpGe k a b m) any cmp ∧
      VJoins (.vcmpUn k a b m) any cmp) ∧
    (VJoins (.vexp2 d a m) any sf ∧ VJoins (.vlog2 d a m) any sf ∧ VJoins (.vrcp d a m) any sf ∧ VJoins (.vrsq d a m) any sf ∧
      VJoins (.vsqrt d a m) any sf ∧ VJoins (.vsinp d a m) any sf ∧ VJoins (.vcosp d a m) any sf ∧ VJoins (.vtanh d a m) any sf ∧
      VJoins (.vsigm d a m) any sf) ∧
    (VJoins (.vcvt d a m) any cvt ∧ VJoins (.vqnt d a q m) any qnt ∧ VJoins (.vqntLoad a q) any any ∧ VJoins (.vdqnt d a q m) any dqnt ∧
      VJoins (.vdqntStore d q) any any ∧ VJoins (.vbscLoad a e) any bse ∧ VJoins (.vbscStore d e) any bse ∧
      VJoins (.vbscApply d a e m) room apply ∧ VJoins (.vbqnt d a e m) room bqnt ∧ VJoins (.vpack d a b m) any pack ∧
      VJoins (.vunpk d a m) any unpk) ∧
    (VJoins (.vredSum d a m) any red ∧ VJoins (.vredMax d a m) any red ∧ VJoins (.vredMin d a m) any red ∧
      VJoins (.vredAmax d a m) any red ∧ VJoins (.vscanSum d a m) any red ∧ VJoins (.vscanMax d a m) any red ∧
      VJoins (.vscanMin d a m) any red) ∧
    VJoins (.vmov d a m) any any ∧ VJoins (.vperm d a b m) any any ∧ VJoins (.vrot d a c m) any any ∧ VJoins (.vfill d a m) any any ∧
      VJoins (.vrand d) any any)

/-- R231 to R234: the four rank-k instructions on the grid side. -/
def Obligations.RankKIssues : Prop :=
  ∀ (a b t : BitVec 2) (m n : BitVec 3),
    RkForm (.rk a b t) a b t false (fun _ _ => 0) (fun _ _ => 0) (fun _ => none) ∧
    RkForm (.rkn a b t) a b t true (fun _ _ => 0) (fun _ _ => 0) (fun _ => none) ∧
    RkForm (.rks a b t m n) a b t false (fun _ _ => 0) (fun _ _ => 0) (fun g => some (g.e[m.toNat]'m.isLt, g.e[n.toNat]'n.isLt)) ∧
    RkForm (.rka a b t m n) a b t false
      (fun g fmt => if 6 ≤ (fmtTA fmt).code.toNat ∧ (fmtTA fmt).code.toNat ≤ 11 then (g.qs[m.toNat]'m.isLt).zp.toInt else 0)
      (fun g fmt => if 6 ≤ (fmtTB fmt).code.toNat ∧ (fmtTB fmt).code.toNat ≤ 11 then (g.qs[n.toNat]'n.isLt).zp.toInt else 0)
      (fun _ => none)

/-- R140, R233, R234: the write cycle of a rank-k step: every cell of the target takes the step's result on the value it then holds,
every other cell keeps its value, and the dirty bits of the target's rows are set. -/
def Obligations.RankKWritesTarget : Prop :=
  ∀ (k : Core) (f : Flight) (w : RkWork), f.rk = some w → f.rows = [] → f.vld = none → f.regs = [] → f.written = false → f.kind = .m →
    w.row0 + w.rows ≤ 64 → w.cols ≤ 64 →
    let h := (k.applyFlight f).grid
    (∀ i j, i < 64 → j < 64 → h.cell i j =
      if w.row0 ≤ i ∧ i < w.row0 + w.rows ∧ j < w.cols then (w.cell i j (k.grid.cell i j)).1 else k.grid.cell i j) ∧
    (∀ i, i < 64 → h.fdirty.getLsbD i = (k.grid.fdirty.getLsbD i || decide (w.row0 ≤ i ∧ i < w.row0 + w.rows)) ∧
      h.gdirty.getLsbD i = (k.grid.gdirty.getLsbD i || decide (w.row0 ≤ i ∧ i < w.row0 + w.rows))) ∧
    h.e = k.grid.e ∧ h.qs = k.grid.qs ∧ h.k = k.grid.k ∧ h.queues = k.grid.queues

/-- R131, R140, R231, R234: a step of integer types into INT32 without SAT is the exact sum modulo 2^32. -/
def Obligations.IntegerRankKIsExact : Prop :=
  ∀ (w : RkWork) (i j : Nat) (old : Cell), i < 64 → j < 64 → w.scale = none → w.td.code = 11 → w.rc.sat = false →
    6 ≤ w.ta.code.toNat → w.ta.code.toNat ≤ 10 → 6 ≤ w.tb.code.toNat → w.tb.code.toNat ≤ 10 →
    (w.cell i j old).1 = BitVec.ofInt 32 (old.toInt +
      ((List.range (max w.ta.per w.tb.per)).map (fun l =>
        (if w.neg then -1 else 1) * ((sideInt w.ta w.aEnt i l - w.za) * (sideInt w.tb w.bEnt j l - w.zb)))).sum)

/-- R235: GZERO. -/
def Obligations.GzeroZeroesItsTarget : Prop :=
  ∀ t : BitVec 2,
    (∀ lit, decodeSlot .m lit (8#7 ++ 0#4 ++ t ++ 0#19) = .ok (.gzero t)) ∧
    (∀ (lit : Option Cell) (q : BitVec 4) (z : BitVec 19), q ≠ 0 ∨ z ≠ 0 →
      decodeSlot .m lit (8#7 ++ q ++ t ++ z) = .error .reservedField) ∧
    (∀ s : State, s.slot.side = .access →
      exec (.gzero t) s = .next (s.modSlot (fun c => { c with pkt := { c.pkt with m := some ⟨.gzero t, c.word, c.lit⟩ } }))) ∧
    ∀ s : State, s.slot.side = .grid → s.deckleOk →
      let g := s.me.grid
      ∃ (h : Grid) (f : Flight), exec (.gzero t) s = .next (s.modGrid s.cur (fun _ => h)) ∧ h.inflight = g.inflight ++ [f] ∧
        h.cells = g.cells ∧ h.gens = g.gens ∧
        let u := (({ s.me with grid := h } : Core).applyFlight f).grid
        u.flags = g.flags ∧ u.gens = g.gens ∧
        (∀ r c, r < 64 → c < 64 → inTarget s.slot.pkt.shp t r c = true → u.cell r c = 0) ∧
        ∀ r c, r < 64 → c < 64 → inTarget s.slot.pkt.shp t r c = false → u.cell r c = g.cell r c

/-- R237: GXPOSE. -/
def Obligations.GxposeTransposes : Prop :=
  (∀ lit, decodeSlot .m lit (10#7 ++ 0#4 ++ 3#2 ++ 0#19) = .ok .gxpose) ∧
  (∀ (lit : Option Cell) (q : BitVec 4) (t : BitVec 2) (z : BitVec 19), q ≠ 0 ∨ t ≠ 3 ∨ z ≠ 0 →
    decodeSlot .m lit (10#7 ++ q ++ t ++ z) = .error .reservedField) ∧
  (∀ s : State, s.slot.side = .access →
    exec .gxpose s = .next (s.modSlot (fun c => { c with pkt := { c.pkt with m := some ⟨.gxpose, c.word, c.lit⟩ } }))) ∧
  ∀ s : State, s.slot.side = .grid →
    let g := s.me.grid
    ∃ (h : Grid) (f : Flight), exec .gxpose s = .next (s.modGrid s.cur (fun _ => h)) ∧ h.inflight = g.inflight ++ [f] ∧
      h.cells = g.cells ∧ h.gens = g.gens ∧
      let u := (({ s.me with grid := h } : Core).applyFlight f).grid
      u.flags = g.flags ∧ u.gens = g.gens ∧ ∀ i j, i < 64 → j < 64 → u.cell i j = g.cell j i

/-- R233, R235 to R239: the other M instructions on the grid side, their occupancy and their write cycle (Table 11.3). -/
def Obligations.MatrixMoves : Prop :=
  (∀ t : BitVec 2, MMove (.gzero t) 1 1 (fun s r c => if inTarget s.slot.pkt.shp t r c then 0 else s.me.grid.cell r c)) ∧
  (∀ (t : BitVec 2) (h : BitVec 1), t.toNat ≤ 1 → t.toNat ≠ h.toNat → MMove (.gcopy t h) 2 4 (fun s r c =>
    if r / 32 = t.toNat then s.me.grid.cell (32 * h.toNat + r % 32) c else s.me.grid.cell r c)) ∧
  MMove .gxpose 4 7 (fun s r c => s.me.grid.cell c r) ∧
  (∀ (t : BitVec 2) (m : BitVec 3),
    let new (s : State) (f : Cell) (r c : Nat) : Cell :=
      if inTarget s.slot.pkt.shp t r c then
        (deliver (fmtTD s.slot.pkt.fmt) (fmtRc s.slot.pkt.fmt)
          (if (fmtRc s.slot.pkt.fmt).rnd = 5 then srDraw (srAdvance (s.me.grid.gen r)) c 0 else 0)
          (((fmtTA s.slot.pkt.fmt).val (s.me.grid.cell r c)).mul (tyFP32.val f)).1).1
      else s.me.grid.cell r c
    MMove (.gscaleQs t m) 1 4 (fun s r c => new s (s.me.grid.qs[m.toNat]'m.isLt).scale r c) ∧
      MMove (.gscaleLiteral t) 1 4 (fun s r c => new s (s.slot.lit.getD 0) r c)) ∧
  ∀ (s : State) (a b p : BitVec 2), s.slot.side = .grid →
    let g := s.me.grid
    ∃ h : Grid, exec (.mpop a b p) s = .next (s.modGrid s.cur (fun _ => h)) ∧ h.cells = g.cells ∧ h.inflight = g.inflight ∧
      h.mFree = g.cyc + 1 ∧
      ∀ q : BitVec 3, h.queue q =
        if (q = 0#1 ++ a ∧ p.getLsbD 0 = true) ∨ (q = 1#1 ++ b ∧ p.getLsbD 1 = true) then
          { g.queue q with entries := (g.queue q).entries.drop 1, p := (g.queue q).p + 1 }
        else g.queue q

/-! ### V slots -/

/-- R252, R254, R257 to R263: the elementwise instructions that read types or bits. -/
def Obligations.ElementwiseFloat : Prop :=
  ∀ (d a b : BitVec 8) (m : Bool) (q e : BitVec 3),
    Elem2 (.vadd d a b m) d a b m true (fun f draw x y _ => (sumRound tyFP32 (fmtRc f) draw [tyFP32.val x, tyFP32.val y]).1) ∧
    Elem2 (.vsub d a b m) d a b m true (fun f draw x y _ => (sumRound tyFP32 (fmtRc f) draw [tyFP32.val x, (tyFP32.val y).negate]).1) ∧
    Elem2 (.vmul d a b m) d a b m true (fun f draw x y _ => (deliver tyFP32 (fmtRc f) draw ((tyFP32.val x).mul (tyFP32.val y)).1).1) ∧
    Elem2 (.vfma d a b m) d a b m true (fun f draw x y o =>
      (sumRound tyFP32 (fmtRc f) draw [((tyFP32.val x).mul (tyFP32.val y)).1, tyFP32.val o]).1) ∧
    Elem2 (.vfms d a b m) d a b m true (fun f draw x y o =>
      (sumRound tyFP32 (fmtRc f) draw [((tyFP32.val x).mul (tyFP32.val y)).1, (tyFP32.val o).negate]).1) ∧
    Elem2 (.vfnma d a b m) d a b m true (fun f draw x y o =>
      (sumRound tyFP32 (fmtRc f) draw [((tyFP32.val x).mul (tyFP32.val y)).1.negate, tyFP32.val o]).1) ∧
    Elem2 (.vmin d a b m) d a b m false (fun _ _ x y _ =>
      if fpNan x ∧ fpNan y then tyFP32.nan else if fpNan x then y else if fpNan y then x else if fpKey x < fpKey y then x else y) ∧
    Elem2 (.vmax d a b m) d a b m false (fun _ _ x y _ =>
      if fpNan x ∧ fpNan y then tyFP32.nan else if fpNan x then y else if fpNan y then x else if fpKey x < fpKey y then y else x) ∧
    Elem2 (.vabs d a m) d a a m false (fun _ _ x _ _ => 0#1 ++ x.extractLsb' 0 31) ∧
    Elem2 (.vneg d a m) d a a m false (fun _ _ x _ _ => BitVec.ofBool (!x.msb) ++ x.extractLsb' 0 31) ∧
    Elem2 (.vcpys d a b m) d a b m false (fun _ _ x y _ => BitVec.ofBool y.msb ++ x.extractLsb' 0 31) ∧
    Elem2 (.vmulw d a b m) d a b m true (fun f draw x y _ =>
      (deliver (fmtTD f) (fmtRc f) draw (((fmtTA f).val x).mul ((fmtTB f).val y)).1).1) ∧
    (Elem2 (.vexp2 d a m) d a a m true (fun f draw x _ _ => (specialFn .exp2 (fmtRc f) draw x).1) ∧
      Elem2 (.vlog2 d a m) d a a m true (fun f draw x _ _ => (specialFn .log2 (fmtRc f) draw x).1) ∧
      Elem2 (.vrcp d a m) d a a m true (fun f draw x _ _ => (specialFn .rcp (fmtRc f) draw x).1) ∧
      Elem2 (.vrsq d a m) d a a m true (fun f draw x _ _ => (specialFn .rsq (fmtRc f) draw x).1) ∧
      Elem2 (.vsqrt d a m) d a a m true (fun f draw x _ _ => (specialFn .sqrt (fmtRc f) draw x).1) ∧
      Elem2 (.vsinp d a m) d a a m true (fun f draw x _ _ => (specialFn .sinp (fmtRc f) draw x).1) ∧
      Elem2 (.vcosp d a m) d a a m true (fun f draw x _ _ => (specialFn .cosp (fmtRc f) draw x).1) ∧
      Elem2 (.vtanh d a m) d a a m true (fun f draw x _ _ => (specialFn .tanh (fmtRc f) draw x).1) ∧
      Elem2 (.vsigm d a m) d a a m true (fun f draw x _ _ => (specialFn .sigm (fmtRc f) draw x).1)) ∧
    Elem2 (.vcvt d a m) d a a m true (fun f draw x _ _ => (conv (fmtTA f) (fmtTD f) (fmtRc f) draw x).1) ∧
    Elementwise (.vqnt d a q m) d m true (fun s draw r l _ =>
      (quantise (fmtTD s.slot.pkt.fmt) (fmtRc s.slot.pkt.fmt).rnd draw (s.me.grid.qs[q.toNat]'q.isLt) (tyFP32.val (s.elem a r l))).1) ∧
    Elementwise (.vdqnt d a q m) d m true (fun s draw r l _ =>
      (dequantise (fmtRc s.slot.pkt.fmt) draw (fmtTA s.slot.pkt.fmt) (s.me.grid.qs[q.toNat]'q.isLt) (s.elem a r l)).1) ∧
    Elementwise (.vbscApply d a e m) d m true (fun s draw r l _ =>
      let c := (s.me.grid.re (e + BitVec.ofNat 3 (r / 32)))[l % 64]'(Nat.mod_lt _ (by decide))
      if c = 0xFF then tyFP32.nan
      else (deliver tyFP32 (fmtRc s.slot.pkt.fmt) draw (((fmtTA s.slot.pkt.fmt).val (s.elem a r l)).scale ((c.toNat : Int) - 127))).1)

/-- R253, R257, R269 to R273: the integer group, classification, and the moves. -/
def Obligations.ElementwiseInteger : Prop :=
  ∀ (d a b : BitVec 8) (m : Bool) (c : BitVec 6),
    Elem2 (.viadd d a b m) d a b m false (fun f _ x y _ => sat32 f (x.toInt + y.toInt)) ∧
    Elem2 (.visub d a b m) d a b m false (fun f _ x y _ => sat32 f (x.toInt - y.toInt)) ∧
    Elem2 (.vimul d a b m) d a b m false (fun f _ x y _ => sat32 f (x.toInt * y.toInt)) ∧
    Elem2 (.vimulh d a b m) d a b m false (fun _ _ x y _ => (x.signExtend 64 * y.signExtend 64).extractLsb' 32 32) ∧
    Elem2 (.vimin d a b m) d a b m false (fun _ _ x y _ => if x.toInt ≤ y.toInt then x else y) ∧
    Elem2 (.vimax d a b m) d a b m false (fun _ _ x y _ => if x.toInt ≤ y.toInt then y else x) ∧
    Elem2 (.vand d a b m) d a b m false (fun _ _ x y _ => x &&& y) ∧
    Elem2 (.vor d a b m) d a b m false (fun _ _ x y _ => x ||| y) ∧
    Elem2 (.vxor d a b m) d a b m false (fun _ _ x y _ => x ^^^ y) ∧
    Elem2 (.vshl d a b m) d a b m false (fun _ _ x y _ => x <<< (y.extractLsb' 0 5).toNat) ∧
    Elem2 (.vshr d a b m) d a b m false (fun _ _ x y _ => x >>> (y.extractLsb' 0 5).toNat) ∧
    Elem2 (.vsar d a b m) d a b m false (fun _ _ x y _ => x.sshiftRight (y.extractLsb' 0 5).toNat) ∧
    Elem2 (.vclass d a m) d a a m false (fun _ _ x _ _ =>
      let e := (x.extractLsb' 23 8).toNat
      let z := x.extractLsb' 0 23 = 0
      1#32 <<< (if e = 255 ∧ ¬ z then (if x.getLsbD 22 then 9 else 8)
                else if e = 255 then (if x.msb then 0 else 7)
                else if e = 0 ∧ z then (if x.msb then 3 else 4)
                else if e = 0 then (if x.msb then 2 else 5)
                else if x.msb then 1 else 6)) ∧
    Elementwise (.vmov d a m) d m false (fun s _ r l _ =>
      let shp := s.slot.pkt.shp
      let p := l - laneLo d shp
      if (specView d = 0 ↔ specView a = 0) then s.elem a r (laneLo a shp + p) else s.elem a p (laneLo a shp + r)) ∧
    Elementwise (.vperm d a b m) d m false (fun s _ r l _ =>
      let k := (s.elem b r l).toNat % 64
      if isSpecial a then s.slot.lit.getD 0 else if inLanes a s.slot.pkt.shp k then s.elem a r k else 0) ∧
    Elementwise (.vrot d a c m) d m false (fun s _ r l _ =>
      let lo := laneLo d s.slot.pkt.shp
      let n := laneCnt d s.slot.pkt.shp
      s.elem a r (lo + ((((l - lo : Nat) : Int) - (c.toNat : Int)) % (n : Int)).toNat)) ∧
    Elementwise (.vfill d a m) d m false (fun s _ r _ _ => s.elem a 0 ((laneLo a s.slot.pkt.shp + r) % 64)) ∧
    Elementwise (.vrand d) d false false (fun s _ r l _ =>
      let x := cellOf d r l
      (srHash (srAdvance (s.me.grid.gen x.1)) x.2 0).extractLsb' 32 32)

/-- R256: VSEL. -/
def Obligations.VselPicksByK0 : Prop :=
  ∀ d a b : BitVec 8, dstSpec d = true → srcSpec a = true → srcSpec b = true → sameView d a = true → sameView d b = true →
    (∀ lit, decodeSlot .v lit (0x28#7 ++ d ++ a ++ b ++ 0#1) = .ok (.vsel d a b) ∧
      decodeSlot .v lit (0x28#7 ++ d ++ a ++ b ++ 1#1) = .error .reservedField) ∧
    (∀ s : State, s.slot.side = .access →
      exec (.vsel d a b) s = .next (s.modSlot (fun c => { c with pkt := { c.pkt with v := c.pkt.v ++ [⟨.vsel d a b, c.word, c.lit⟩] } }))) ∧
    Elementwise (.vsel d a b) d false false (fun s _ r l _ =>
      if (s.me.grid.k[0]).getLsbD l then s.elem a r l else s.elem b r l)

/-- R255: the seven VCMPs on the grid side. -/
def Obligations.VectorCompares : Prop :=
  ∀ (k : BitVec 3) (a b : BitVec 8) (m : Bool),
    CmpForm (.vcmpEq k a b m) .eq k a b m ∧ CmpForm (.vcmpNe k a b m) .ne k a b m ∧ CmpForm (.vcmpLt k a b m) .lt k a b m ∧
    CmpForm (.vcmpLe k a b m) .le k a b m ∧ CmpForm (.vcmpGt k a b m) .gt k a b m ∧ CmpForm (.vcmpGe k a b m) .ge k a b m ∧
    CmpForm (.vcmpUn k a b m) .un k a b m

/-- R262 to R266: the load and store modes of VQNT, VDQNT and VBSC, block quantisation, packing and unpacking. -/
def Obligations.ScalesAndPacking : Prop :=
  (∀ (s : State) (d a : BitVec 8) (q e : BitVec 3), s.slot.side = .grid → s.deckleOk →
    let g := s.me.grid
    VGives (.vqntLoad a q) s (fun o => o.g = g ∧ o.rows = [] ∧ o.regs = [.qs q ⟨s.elem a 0 0, (s.elem a 0 1).extractLsb' 0 16⟩]) ∧
    VGives (.vbscLoad a e) s (fun o => o.g = g ∧ o.rows = [] ∧
      ∃ v : Vector Byte 64, o.regs = [.e e v] ∧ ∀ j : Fin 64, v[j] = (s.elem a 0 j.val).extractLsb' 0 8) ∧
    (isSpecial d = false →
      VGives (.vdqntStore d q) s (fun o => o.g = g ∧ o.regs = [] ∧ ∀ x y, x < 64 → y < 64 → (o.cellsOf g).cell x y =
        if cellOf d 0 0 = (x, y) then (g.rq q).scale else if cellOf d 0 1 = (x, y) then (g.rq q).zp.signExtend 32 else g.cell x y) ∧
      VGives (.vbscStore d e) s (fun o => o.g = g ∧ o.regs = [] ∧
        (∀ j : Fin 64, let c := cellOf d 0 j.val; (o.cellsOf g).cell c.1 c.2 = ((g.re e)[j]).setWidth 32) ∧
        ∀ x y, x < 64 → y < 64 → (∀ j, j < 64 → cellOf d 0 j ≠ (x, y)) → (o.cellsOf g).cell x y = g.cell x y))) ∧
  (∀ (d a : BitVec 8) (m : Bool) (s : State), s.slot.side = .grid → s.deckleOk → isSpecial d = false →
    let p := s.slot.pkt
    let g := s.me.grid
    let ta := fmtTA p.fmt
    let td := fmtTD p.fmt
    VGives (.vunpk d a m) s (fun o => o.regs = [] ∧ o.g.cells = g.cells ∧
      (∀ r l, r < grpVecs d p.shp → inLanes d p.shp l = true → g.active m l = true →
        let c := cellOf d r l
        let x := lowOf ta (s.elem a (r / ta.per) l >>> (ta.width * (r % ta.per)))
        (o.cellsOf g).cell c.1 c.2 = if ta.code = td.code then x
          else (conv ta td (fmtRc p.fmt)
            (if (fmtRc p.fmt).rnd = 5 ∧ td.code = 11 ∧ ta.isInt = false then srDraw (srAdvance (g.gen c.1)) c.2 0 else 0) x).1) ∧
      ∀ i j, i < 64 → j < 64 → (∀ r l, r < grpVecs d p.shp → inLanes d p.shp l = true → g.active m l = true → cellOf d r l ≠ (i, j)) →
        (o.cellsOf g).cell i j = g.cell i j)) ∧
  (∀ (d a b : BitVec 8) (m : Bool) (s : State), s.slot.side = .grid → s.deckleOk → isSpecial d = false →
    let p := s.slot.pkt
    let g := s.me.grid
    let ta := fmtTA p.fmt
    let t := fmtTD p.fmt
    let n := grpVecs a p.shp
    t.width < 32 →
    VGives (.vpack d a b m) s (fun o => o.regs = [] ∧ o.g.cells = g.cells ∧
      (∀ r l x, r < packVecs t (2 * n) → inLanes d p.shp l = true → g.active m l = true → x < t.per →
        let c := cellOf d r l
        let k := r * t.per + x
        let src := if k < n then s.elem a k l else s.elem b (k - n) l
        lowOf t ((o.cellsOf g).cell c.1 c.2 >>> (t.width * x)) =
          if 2 * n ≤ k then 0
          else if ta.code = t.code then lowOf t src
          else lowOf t (conv ta t (fmtRc p.fmt) (if (fmtRc p.fmt).rnd = 5 then srDraw (srAdvance (g.gen c.1)) c.2 x else 0) src).1) ∧
      ∀ i j, i < 64 → j < 64 →
        (∀ r l, r < packVecs t (2 * n) → inLanes d p.shp l = true → g.active m l = true → cellOf d r l ≠ (i, j)) →
        (o.cellsOf g).cell i j = g.cell i j)) ∧
  ∀ (d a : BitVec 8) (e : BitVec 3) (m : Bool) (s : State), s.slot.side = .grid → s.deckleOk → isSpecial d = false →
    let p := s.slot.pkt
    let g := s.me.grid
    let code (k l : Nat) : Byte := (blockCode (fmtTD p.fmt)
      ((List.range (min 32 (grpVecs d p.shp - 32 * k))).map (fun x => tyFP32.val (s.elem a (32 * k + x) l)))).1
    VGives (.vbqnt d a e m) s (fun o => o.g.cells = g.cells ∧
      o.regs.length = (grpVecs d p.shp - 1) / 32 + 1 ∧
      (∀ k, k ≤ (grpVecs d p.shp - 1) / 32 → ∃ v : Vector Byte 64, o.regs[k]? = some (.e (e + BitVec.ofNat 3 k) v) ∧
        ∀ j : Fin 64, v[j] = if inLanes d p.shp j.val = true ∧ g.active m j.val = true then code k j.val
                             else (g.re (e + BitVec.ofNat 3 k))[j]) ∧
      (∀ r l, r < grpVecs d p.shp → inLanes d p.shp l = true → g.active m l = true →
        let c := cellOf d r l
        (o.cellsOf g).cell c.1 c.2 = (blockElem (fmtTD p.fmt) (fmtRc p.fmt)
          (if (fmtRc p.fmt).rnd = 5 then srDraw (srAdvance (g.gen c.1)) c.2 0 else 0) (code (r / 32) l) (tyFP32.val (s.elem a r l))).1) ∧
      ∀ i j, i < 64 → j < 64 → (∀ r l, r < grpVecs d p.shp → inLanes d p.shp l = true → g.active m l = true → cellOf d r l ≠ (i, j)) →
        (o.cellsOf g).cell i j = g.cell i j)

/-- R143, R144, R267, R268: reductions and scans complete on the grid side. FP32 and INT32 are reduced in the order of R143, a SUM
rounding or clamping at each step; on INT32 without SAT a sum is then the sum of all active elements modulo 2^32, and the greatest and
the least are those of the signed elements; with no active lane the value is that of R143. A scan gives each active lane the fold of the
active lanes up to it. -/
def Obligations.ReductionsAndScans : Prop :=
  ∀ (d a : BitVec 8) (m : Bool),
    let sh := if isSpecial a then d else a
    RedForm (.vredSum d a m) d a m (fun s xs v =>
      let fmt := s.slot.pkt.fmt
      ((fmtTA fmt).code = 0 → v = canonNan ((s.reduced sh a m (fun x => x) (fpAdd1 fmt)).getD 0)) ∧
      ((fmtTA fmt).code = 11 → v = (s.reduced sh a m (fun x => x) (fun x y => sat32 fmt (x.toInt + y.toInt))).getD 0) ∧
      ((fmtTA fmt).code = 11 → fmt.getLsbD 27 = false → v = BitVec.ofInt 32 ((xs.map BitVec.toInt).sum))) ∧
    RedForm (.vredMax d a m) d a m (fun s xs v =>
      ((fmtTA s.slot.pkt.fmt).code = 0 → v = canonNan ((s.reduced sh a m (fun x => x) fpGreater).getD 0xFF800000)) ∧
      ((fmtTA s.slot.pkt.fmt).code = 11 → (xs = [] → v = 0x80000000) ∧ (xs ≠ [] → v ∈ xs ∧ ∀ x ∈ xs, x.toInt ≤ v.toInt))) ∧
    RedForm (.vredMin d a m) d a m (fun s xs v =>
      ((fmtTA s.slot.pkt.fmt).code = 0 → v = canonNan ((s.reduced sh a m (fun x => x) fpLesser).getD 0x7F800000)) ∧
      ((fmtTA s.slot.pkt.fmt).code = 11 → (xs = [] → v = 0x7FFFFFFF) ∧ (xs ≠ [] → v ∈ xs ∧ ∀ x ∈ xs, v.toInt ≤ x.toInt))) ∧
    RedForm (.vredAmax d a m) d a m (fun s xs v =>
      ((fmtTA s.slot.pkt.fmt).code = 0 → v = canonNan ((s.reduced sh a m (fun x => x &&& 0x7FFFFFFF) fpGreater).getD 0)) ∧
      ((fmtTA s.slot.pkt.fmt).code = 11 → (xs = [] → v = 0) ∧
        (xs ≠ [] → ∃ x ∈ xs, v = BitVec.ofNat 32 (min 2147483647 x.toInt.natAbs)) ∧ ∀ x ∈ xs, min 2147483647 x.toInt.natAbs ≤ v.toNat)) ∧
    (let scan (op : Int → Int → Int) (f : Word → Cell → Cell → Cell) (i : Instr) (ok : State → Prop) : Prop :=
      ∀ s : State, s.slot.side = .grid → s.deckleOk → isSpecial d = false →
        let g := s.me.grid
        let shp := s.slot.pkt.shp
        let fmt := s.slot.pkt.fmt
        VGives i s (fun o => o.regs = [] ∧ o.g = g ∧
          (∀ r l, r < grpVecs d shp → inLanes d shp l = true → g.active m l = true →
            let c := cellOf d r l
            let before := ((g.activeLanes m d shp).filter (fun x => decide (x ≤ l))).map (fun x => s.elem a r x)
            let ints := before.map BitVec.toInt
            ((fmtTA fmt).code = 11 → ok s → (o.cellsOf g).cell c.1 c.2 = BitVec.ofInt 32 (ints.tail.foldl op (ints.headD 0))) ∧
            ((fmtTA fmt).code = 0 → (o.cellsOf g).cell c.1 c.2 = canonNan ((foldCells (f fmt) before).getD 0))) ∧
          ∀ x y, x < 64 → y < 64 → (∀ r l, r < grpVecs d shp → inLanes d shp l = true → g.active m l = true → cellOf d r l ≠ (x, y)) →
            (o.cellsOf g).cell x y = g.cell x y)
     scan (fun x y => x + y) fpAdd1 (.vscanSum d a m) (fun s => s.slot.pkt.fmt.getLsbD 27 = false) ∧
     scan max (fun _ => fpGreater) (.vscanMax d a m) (fun _ => True) ∧
     scan min (fun _ => fpLesser) (.vscanMin d a m) (fun _ => True))

/-- R104, R164, R274: VXFER on both sides. On the access side it reserves its places in the log and joins the packet; on the grid side
the values enter the log and the registers, unless a rollback has taken the core back before the packet. -/
def Obligations.VectorTransfers : Prop :=
  ∀ (s : State) (d : BitVec 5) (a : BitVec 8) (l : BitVec 6) (n : BitVec 3),
    (s.slot.side = .access → s.me.timed = false → s.me.ctl.st ≠ .replay →
      (s.me.rs.log.length < 32 → ∃ t, exec (.vxferElement d a l) s = .next t ∧
        t.slot.pkt.v = s.slot.pkt.v ++ [⟨.vxferElement d a l, s.slot.word, s.slot.lit⟩] ∧
        t.slot.pkt.log = s.slot.pkt.log ++ [s.me.rs.log.length] ∧ t.me.rs.log = s.me.rs.log ++ [none] ∧ t.me.x = s.me.x) ∧
      (s.me.rs.log.length < 31 → ∃ t, exec (.vxferKcount d n) s = .next t ∧
        t.slot.pkt.v = s.slot.pkt.v ++ [⟨.vxferKcount d n, s.slot.word, s.slot.lit⟩] ∧
        t.slot.pkt.log = s.slot.pkt.log ++ [s.me.rs.log.length, s.me.rs.log.length + 1] ∧
        t.me.rs.log = s.me.rs.log ++ [none, none] ∧ t.me.x = s.me.x)) ∧
    (s.slot.side = .access → s.me.timed = true →
      exec (.vxferElement d a l) s = .next (s.timing 8) ∧ exec (.vxferKcount d n) s = .next (s.timing 8)) ∧
    (s.slot.side = .grid → s.slot.pkt.fwd < s.me.rs.fwd →
      (∀ p, s.slot.pkt.log = [p] → isSpecial a = false → ∃ t, exec (.vxferElement d a l) s = .next t ∧
        let c := cellOf a 0 l.toNat
        let v := (s.me.grid.cell c.1 c.2).signExtend 64
        t.me.rs.log = s.me.rs.log.set p (some v) ∧ t.me.grid = s.me.grid ∧ t.me.k = s.me.k ∧
          ∀ r, t.me.rx r = if r = d ∧ r ≠ 0 then v else s.me.rx r) ∧
      (∀ p q, s.slot.pkt.log = [p, q] → ∃ t, exec (.vxferKcount d n) s = .next t ∧
        let w := s.me.grid.k[n.toNat]'n.isLt
        let v := BitVec.ofNat 64 ((List.range 64).countP (fun j => w.getLsbD j))
        t.me.rs.log = (s.me.rs.log.set p (some v)).set q (some w) ∧ t.me.grid = s.me.grid ∧
          (∀ r, t.me.rx r = if r = d ∧ r ≠ 0 then v else s.me.rx r) ∧ ∀ r, t.me.rk r = if r = n then w else s.me.rk r))

/-- R244, R248, R249, Table 12.2: when a V slot issues: its occupancy, its write cycle, the unit it takes, its history. -/
def Obligations.VectorTiming : Prop :=
  (∀ (g : Grid) (p : GridPkt) (i : Instr) (o : VOut), o.g.inflight = g.inflight → o.g.v0Free = g.v0Free → o.g.v1Free = g.v1Free →
    let u := Instr.vUse p.shp p.fmt i
    let start := if u.sf then max g.cyc g.sfFree else g.cyc
    let occ := if u.sf then max 1 ((o.n + 15) / 16) else max 1 ((o.n + 63) / 64)
    ∃ f : Flight, (g.vIssue p i o).inflight = g.inflight ++ [f] ∧ f.fwd = p.fwd ∧ f.kind = .v ∧ f.written = false ∧
      f.due = start + occ + u.lat - 1 ∧ f.rows = o.rows ∧ f.regs = o.regs ∧ f.flags = o.flags ∧
      f.histRows.map (fun h => (h.1, h.2.1)) = u.rw.map (fun r => (r, g.row r)) ∧
      (g.vIssue p i o).cells = o.g.cells ∧
      (g.v0Free ≤ g.cyc → (g.vIssue p i o).v0Free = start + occ ∧ (g.vIssue p i o).v1Free = g.v1Free) ∧
      (g.cyc < g.v0Free → (g.vIssue p i o).v1Free = start + occ ∧ (g.vIssue p i o).v0Free = g.v0Free)) ∧
  ∀ (p : GridPkt) (d a b : BitVec 8) (m : Bool) (k q e : BitVec 3),
      (Instr.vUse p.shp p.fmt (.vadd d a b m)).lat = 4 ∧ (Instr.vUse p.shp p.fmt (.vabs d a m)).lat = 2 ∧
      (Instr.vUse p.shp p.fmt (.viadd d a b m)).lat = 2 ∧ (Instr.vUse p.shp p.fmt (.vimul d a b m)).lat = 4 ∧
      (Instr.vUse p.shp p.fmt (.vcmpEq k a b m)).lat = 2 ∧ (Instr.vUse p.shp p.fmt (.vbqnt d a e m)).lat = 6 ∧
      (Instr.vUse p.shp p.fmt (.vexp2 d a m)).lat = 8 ∧ (Instr.vUse p.shp p.fmt (.vscanSum d a m)).lat = 8 ∧
      (Instr.vUse p.shp p.fmt (.vredSum d a m)).lat = 10 ∧ (Instr.vUse p.shp p.fmt (.vqnt d a q m)).lat = 4

/-! ### C slots -/

/-- R281 to R290, R299: the copies, the stream, scatter and queue operations, their operands, where they trap, and CWAIT. -/
def Obligations.EngineOperationsEnterTheirQueue : Prop :=
  (
  ∀ (s : State) (q y z : BitVec 2) (a b c : BitVec 5) (l : Bool),
    let n := s.third c l
    let len : Prop := n.toNat % 4 = 0 ∧ n.toNat ≤ 2 ^ 32
    let pt (sp : BitVec 2) (x : Word) : EndPt := ⟨spaceOf sp, none, x⟩
    let d := s.rx a
    let peer := d.extractLsb' 24 3
    let there : Word := (d.extractLsb' 0 21).setWidth 64
    let qi : Fin 6 := ⟨q.toNat, by have := q.isLt; omega⟩
    (len → s.ptOk y (s.rx a) n.toNat → s.ptOk z (s.rx b) n.toNat →
      EnqForm (.cpy q a b c l y z) s qi (.copy (pt y (s.rx a)) (pt z (s.rx b)) 1 n.toNat 0 0)) ∧
    (¬ len → exec (.cpy q a b c l y z) s = .next (s.illegal .reservedField)) ∧
    (let blk := s.xbNow n.toNat 32
     let rows := fieldOf blk 4 4
     let sz := fieldOf blk 0 4
     let ss : Word := BitVec.ofNat 64 (fieldOf blk 8 8)
     let ds : Word := BitVec.ofNat 64 (fieldOf blk 16 8)
     let ok : Prop := sz % 4 = 0 ∧ 4 ≤ sz ∧ sz ≤ 65536 ∧ 1 ≤ rows ∧ rows ≤ 65536 ∧ ss.toNat % 4 = 0 ∧ ds.toNat % 4 = 0 ∧
       fieldOf blk 24 8 = 0
     s.blockOk n 32 →
     (ok → (∀ r, r < rows → s.ptOk y (s.rx a + BitVec.ofNat 64 r * ds) sz) → (∀ r, r < rows → s.ptOk z (s.rx b + BitVec.ofNat 64 r * ss) sz) →
       EnqForm (.cpy2d q a b c l y z) s qi (.copy (pt y (s.rx a)) (pt z (s.rx b)) rows sz ds ss)) ∧
     (¬ ok → exec (.cpy2d q a b c l y z) s = .next (s.illegal .reservedField))) ∧
    (y ≠ 3 → len → d.extractLsb' 27 37 = 0 → d.extractLsb' 21 3 = 0 → peer ≠ inCluster s.cur → s.ptOk y there n.toNat →
      s.ptOk z (s.rx b) n.toNat →
      (s.joined s.cur (coreIn (clusterOf s.cur) peer) = true →
        EnqForm (.cpyb q a b c l y z) s qi
          (.copy ⟨spaceOf y, some (coreIn (clusterOf s.cur) peer), there⟩ (pt z (s.rx b)) 1 n.toNat 0 0)) ∧
      (s.joined s.cur (coreIn (clusterOf s.cur) peer) = false → s.me.timed = false →
        exec (.cpyb q a b c l y z) s = .next (s.raise 0x0A0 (peer.setWidth 64)))) ∧
    (len → s.me.timed = false → y ≠ 3 → (s.env s.cur).extent (spaceOf y) < (s.rx a).toNat + n.toNat →
      exec (.cpy q a b c l y z) s = .next (s.raise 0x050 (s.rx a))) ∧
    (len → s.me.timed = false → y = 3 → (s.rx a).toNat % 4 ≠ 0 → exec (.cpy q a b c l y z) s = .next (s.raise 0x060 (s.rx a)))) ∧
  (
  ∀ (s : State) (a b c : BitVec 5) (l : Bool) (q : BitVec 2) (sc : BitVec 3),
    (s.blockOk (s.rx a) 64 →
      let blk := s.xbNow (s.rx a).toNat 64
      let w := if fieldOf blk 1 1 = 0 then 4 else 8
      let ok : Prop := fieldOf blk 0 1 ≤ 3 ∧ fieldOf blk 1 1 ≤ 1 ∧ fieldOf blk 2 2 = 0 ∧ fieldOf blk 4 4 % 4 = 0 ∧ 4 ≤ fieldOf blk 4 4 ∧
        fieldOf blk 4 4 ≤ 65536 ∧ fieldOf blk 24 8 % 4 = 0 ∧ 1 ≤ fieldOf blk 32 4 ∧ fieldOf blk 32 4 ≤ 16777216 ∧
        1 ≤ fieldOf blk 36 4 ∧ fieldOf blk 56 8 = 0
      let aligned : Prop := fieldOf blk 8 8 % w = 0 ∧ fieldOf blk 16 8 % 4 = 0 ∧ fieldOf blk 40 8 % 4 = 0 ∧ fieldOf blk 48 8 % 8 = 0 ∧
        fieldOf blk 8 8 < 2 ^ 52 ∧ fieldOf blk 16 8 < 2 ^ 52 ∧ fieldOf blk 40 8 < 2 ^ 52 ∧ fieldOf blk 48 8 < 2 ^ 52
      (ok → (s.env s.cur).fmask.getLsbD 1 = false → aligned → EnqForm (.strm a) s 4 (.stream blk)) ∧
      (¬ ok → exec (.strm a) s = .next (s.illegal .reservedField)) ∧
      (ok → (s.env s.cur).fmask.getLsbD 1 = true → exec (.strm a) s = .next (s.illegal .featureMasked)) ∧
      EnqForm (.qpush a b) s 5 (.qpush blk (s.rx b))) ∧
    (let n := (s.rx b).toNat
     let base := s.third c l
     (1 ≤ n → n ≤ 4096 → (s.env s.cur).fmask.getLsbD 2 = false → s.inBuffer .xb (s.rx a) (8 * n) 8 → base.toNat < 2 ^ 52 →
       EnqForm (.sctr a b c l) s 5 (.scatter (s.rx a) n base)) ∧
     (n = 0 ∨ 4096 < n → exec (.sctr a b c l) s = .next (s.illegal .reservedField))) ∧
    (let d := s.third c l
     let n := (d.extractLsb' 0 13).toNat
     let ok : Prop := 1 ≤ n ∧ n ≤ 4096 ∧ (d.extractLsb' 28 2).toNat ≤ 1 ∧ d.extractLsb' 13 15 = 0 ∧ d.extractLsb' 32 32 = 0 ∧
       ¬ (d.getLsbD 31 = true ∧ (d.extractLsb' 28 2).toNat = 1)
     (ok → (s.env s.cur).fmask.getLsbD 2 = false →
       s.inBuffer .xb (s.rx a) (4 * n + if d.getLsbD 31 then 4 * ((n + 63) / 64) else 0) 4 →
       (s.rx b).toNat % 4 = 0 → (s.rx b).toNat / 16384 = ((s.rx b).toNat + 4 * n - 1) / 16384 → (s.rx b).toNat < 2 ^ 52 →
       EnqForm (.rred a b c l) s 5 (.rred (s.rx a) (s.rx b) n (d.getLsbD 28) (d.getLsbD 31)
         (if d.getLsbD 30 then some (s.me.k[0]) else none))) ∧
     (¬ ok → exec (.rred a b c l) s = .next (s.illegal .reservedField))) ∧
    ((s.rx a).toNat ≤ 255 → (sc = 4 → (s.env s.cur).fmask.getLsbD 3 = false) →
      EnqForm (.cwait q a c l sc) s ⟨q.toNat, by have := q.isLt; omega⟩ (.cwait ((s.rx a).extractLsb' 0 8) (s.third c l))) ∧
    (255 < (s.rx a).toNat → exec (.cwait q a c l sc) s = .next (s.illegal .reservedField)))

/-- R289 to R292, R297, R298: FSIG, the two fences of the queues, and the two instructions that hand over a tile record. -/
def Obligations.SignalsFencesAndRecords : Prop :=
  (∀ (s : State) (a c : BitVec 5) (l : Bool) (sc : BitVec 3), (s.rx a).toNat ≤ 255 →
    (sc = 4 → (s.env s.cur).fmask.getLsbD 3 = false) → s.me.timed = false → s.unblocked →
    (s.me.sigs.length < 16 → exec (.fsig a c l sc) s = .next (s.afterGate.modMe (fun k => { k with
      sigs := k.sigs ++ [⟨(s.rx a).extractLsb' 0 8, s.third c l, sc, k.order⟩], order := k.order + 1 }))) ∧
    (16 ≤ s.me.sigs.length → exec (.fsig a c l sc) s = .next (s.afterGate.hold (.engineQueue 6)))) ∧
  (∀ (s : State) (m : BitVec 6), s.me.timed = false → s.unblocked →
    ((∀ q : Fin 6, m.getLsbD q.val = true → s.me.eng[q] = []) → exec (.qfence m) s = .next s.afterGate) ∧
    ((∃ q : Fin 6, m.getLsbD q.val = true ∧ s.me.eng[q] ≠ []) → exec (.qfence m) s = .next (s.afterGate.hold (.qfence m)))) ∧
  (∀ s : State, s.me.timed = false → s.unblocked → (s.env s.cur).fmask.getLsbD 5 = false →
    ((∀ q : Fin 6, s.me.eng[q] = []) → exec .wfence s = .next s.afterGate) ∧
    ((∃ q : Fin 6, s.me.eng[q] ≠ []) → exec .wfence s = .next (s.afterGate.hold .wfence))) ∧
  (∀ s : State, (s.env s.cur).fmask.getLsbD 5 = true → exec .wfence s = .next (s.illegal .featureMasked)) ∧
  (∀ (s : State) (a : BitVec 5), s.me.timed = false → s.unblocked → s.blockOk (s.rx a) 64 →
    let b := s.xbNow (s.rx a).toNat 64
    let ok : Prop := tileOk true true false b = true ∧ ¬ (b.headD 0 = 8 ∧ (s.env s.cur).fmask.getLsbD 3 = true)
    (ok → s.me.grid.giq = [] → s.me.grid.pkts = [] → (∀ q : Fin 6, s.me.eng[q] = []) → (b.headD 0 = 9 → s.me.tissued = []) →
      (∀ t ∈ s.tiles, t.id ∈ s.me.tissued → t.bytes.headD 0 ≠ 9) →
      exec (.texec a) s = .next (s.afterGate.modMe (fun k => { k with seqr := some ⟨b, none, 0, 0, 0, false, none, 0, 0, false⟩ }))) ∧
    (ok → s.me.grid.pkts ≠ [] ∨ (∃ t ∈ s.tiles, t.id ∈ s.me.tissued ∧ t.bytes.headD 0 = 9) →
      exec (.texec a) s = .next (s.afterGate.hold .texec)) ∧
    (¬ ok → exec (.texec a) s = .next (s.raise 0x120 (s.rx a)))) ∧
  ∀ (s : State) (a : BitVec 5) (d : BitVec 2), 1 ≤ d.toNat → (d = 3 → (s.env s.cur).fmask.getLsbD 4 = false) → s.me.timed = false →
    s.unblocked → s.blockOk (s.rx a) 64 →
    let b := s.xbNow (s.rx a).toNat 64
    let ok : Prop := tileOk false true false b = true ∧ ¬ (b.headD 0 = 8 ∧ (s.env s.cur).fmask.getLsbD 3 = true)
    (ok → s.me.tissued.length < 8 → ∃ (t : State) (n : TileNode), exec (.tissue a d) s = .next t ∧
      t.tiles = s.tiles ++ [n] ∧ n.id = s.tileCount + 1 ∧ n.st = .waiting ∧ n.ctx = s.ctxOf s.cur ∧
      n.level = (if d = 1 then .cluster (clusterOf s.cur) else if d = 2 then .die (dieOf s.cur) else .package) ∧
      n.bytes = setBytes (setBytes (setBytes b 2 (leBytes 2 (corePath s.cur))) 56 (leBytes 2 (s.tagOf (s.ctxOf s.cur)).toNat)) 58
        (leBytes 6 ((s.ctx (s.ctxOf s.cur)).tissues + 1).toNat) ∧
      t.me.tissued = s.me.tissued ++ [s.tileCount + 1] ∧ t.me.x = s.me.x ∧ t.me.grid = s.me.grid) ∧
    (ok → 8 ≤ s.me.tissued.length → exec (.tissue a d) s = .next (s.afterGate.hold .tissue)) ∧
    (¬ ok → exec (.tissue a d) s = .next (s.raise 0x120 (s.rx a)))

/-! ### Events of a core -/

/-- R102, R106, R107, R152, R164, R374: fetching, the write of exposed results, the mark, and rollback. -/
def Obligations.MarksAndRollback : Prop :=
  (∀ (s : State) (c : CoreIx), s.noWalks → (s.core c).ctl.wait ≠ some .csync → ∃ t, exec (.instructionFetch c) s = .next t ∧ t.mem = s.mem ∧ t.groups = s.groups ∧ t.ctxs = s.ctxs ∧
    ∀ d, (t.core d).sameData (s.core d) ∧ (t.core d).ctl = (s.core d).ctl ∧ (t.core d).rs = (s.core d).rs) ∧
  (∀ (s : State) (c : CoreIx), exec (.exposedResultWrite c) s = .next (s.setCore c ((s.core c).landDue (s.cyc c)))) ∧
  (∀ (s : State) (c : CoreIx), (s.core c).ctl.st = .run ∨ (s.core c).ctl.st = .replay → (s.core c).settled = true →
    (s.core c).gateFree → (s.core c).atMark = false → (s.core c).timed = false →
    (s.core c).ctl.markNext = true →
    ∃ t, exec (.restartMark c) s = .next t ∧
      let k := s.core c
      let l := t.core c
      l.rs.shadow.pc = k.ctl.pc ∧ l.rs.shadow.fwd = k.rs.fwd ∧ l.rs.shadow.inTrap = k.ctl.inTrap ∧
        l.rs.shadow.fillN = k.grid.queues.map (fun q => q.fillN) ∧
        (∀ r, r ≠ 0 → l.rs.shadow.x[r.toNat]'r.isLt = k.later r) ∧
        (k.rs.pend = [] → l.rs.shadow.k = k.k ∧ l.rs.shadow.fmt = k.fmt ∧ l.rs.shadow.shp = k.shp) ∧
        l.rs.gate = [] ∧ l.rs.log = [] ∧ l.rs.logPos = 0 ∧ l.ctl.markNext = false ∧ l.x = k.x ∧ l.grid = k.grid) ∧
  (∀ (s : State) (c : CoreIx) (l : Ldg) (rest : List Ldg) (f : PageFault), (s.core c).rs.ldgs = l :: rest →
    (s.translate (s.ctxOf c) (dieOf c) (some c) l.va .read l.w.bytes).1 = .error f →
    ∃ t, exec (.rollback c) s = .next t ∧
      let k := t.core c
      let h := (s.core c).rs.shadow
      k.x = h.x ∧ k.k = h.k ∧ k.fmt = h.fmt ∧ k.shp = h.shp ∧ k.ctl.pc = h.pc ∧ k.ctl.inTrap = h.inTrap ∧ k.ctl.st = .rollback ∧
        k.ctl.wait = some (.fault (s.faultCount + 1)) ∧ t.faultCount = s.faultCount + 1 ∧
        k.rs.fwd = h.fwd ∧ k.rs.gate = [] ∧ k.rs.ldgs = [] ∧ k.rs.pend = [] ∧ k.rs.logPos = 0 ∧ k.rs.log = (s.core c).rs.log ∧
        k.grid.cells = (s.core c).grid.cells ∧ k.grid.giq = (s.core c).grid.giq ∧ k.xb = (s.core c).xb ∧
        ∀ q e, e ∈ (k.grid.queue q).entries → e ∈ ((s.core c).grid.queue q).entries ∧ e.settled = true) ∧
  ∀ (s : State) (c : CoreIx), (s.core c).rs.ldgs = [] → (∀ q e, e ∈ ((s.core c).grid.queue q).entries → e.settled = true) →
    exec (.rollback c) s = .next s

/-- R119, R120, R146: the writes that the grid side performs with a packet, and the two program couch operations. -/
def Obligations.ForwardedWritesAndCouch : Prop :=
  (∀ (s : State) (c : CoreIx) (p : GridPkt) (ps : List GridPkt) (op : BitVec 2) (v : Word), (s.core c).grid.giq = p :: ps →
    let new (old : Word) : Word := if op = 0 then v else if op = 1 then old ||| v else old &&& ~~~v
    (p.sw = some (.flags op v) → (s.core c).grid.pkts = [] →
      exec (.srFlagsWrite c) s = .next (s.modGrid c (fun g => { g with
        flags := (new (g.flags.setWidth 64)).extractLsb' 0 7, giq := { p with sw := none } :: ps }))) ∧
    (p.sw = some (.flags op v) → (s.core c).grid.pkts ≠ [] → exec (.srFlagsWrite c) s = .next s) ∧
    (p.sw = some (.couchm op v) → (s.core c).grid.couch.active = false →
      exec (.srCouchmWrite c) s = .next (s.modGrid c (fun g => { g with
        couch := { g.couch with mask := new g.couch.mask }, giq := { p with sw := none } :: ps })))) ∧
  (∀ (s : State) (c : CoreIx), let g := (s.core c).grid
    let n := g.couch.next
    let a := (g.couch.base.toNat + n) * 256
    s.memWf → g.couch.active = true → n < 64 → n ∉ g.pendingRows →
    (g.couch.op = false → g.gdirty.getLsbD n = true → ∃ t, exec (.programCouchSave c) s = .next t ∧
      (∀ j b, j < 64 → b < 4 → (t.core c).gb.read (a + 4 * j + b) = (g.cell n j).extractLsb' (8 * b) 8) ∧
      (∀ i, i < a ∨ a + 256 ≤ i → (t.core c).gb.read i = (s.core c).gb.read i) ∧
      (t.core c).grid.cells = g.cells ∧
      (∀ i, i < 64 → (t.core c).grid.gdirty.getLsbD i = (g.gdirty.getLsbD i && decide (i ≠ n)) ∧
        (t.core c).grid.couch.mask.getLsbD i = (g.couch.mask.getLsbD i || decide (i = n))) ∧
      (t.core c).x = (s.core c).x ∧ (t.core c).xb = (s.core c).xb ∧ t.mem = s.mem) ∧
    (g.couch.op = true → ∃ t, exec (.programCouchRestore c) s = .next t ∧
      (∀ i j, i < 64 → j < 64 → (t.core c).grid.cell i j =
        if i = n then (if g.couch.mask.getLsbD n then BitVec.ofNat 32 ((s.core c).gb.le (a + 4 * j) 4) else 0) else g.cell i j) ∧
      (∀ i, i < 64 → (t.core c).grid.gdirty.getLsbD i = (g.gdirty.getLsbD i && decide (i ≠ n)) ∧
        (t.core c).grid.fdirty.getLsbD i = (g.fdirty.getLsbD i || decide (i = n))) ∧
      (t.core c).grid.couch.next = (if n = 63 then 0 else n + 1) ∧ (t.core c).grid.couch.active = decide (n ≠ 63) ∧
      (t.core c).grid.couch.mask = g.couch.mask ∧ (t.core c).gb = (s.core c).gb ∧ (t.core c).x = (s.core c).x))

/-- R111, R215, R232, R233, R240, R247, R249: the issue of a packet on the grid, the write cycles, and starvation. -/
def Obligations.GridIssueAndWrites : Prop :=
  (∀ (s : State) (c : CoreIx) (p : GridPkt) (ps : List GridPkt), let g := (s.core c).grid
    g.giq = p :: ps → p.sw = none → (s.core c).seqr = none →
    (g.ready p = false → exec (.gridIssue c) s = .next s) ∧
    (g.ready p = true → p.xfers = [] → (∀ m ∈ p.m.toList ++ p.v, m.instr.slotKind = some .m ∨ m.instr.slotKind = some .v) →
      ∀ t, (s.gridSide c p).runsSlots (p.m.toList ++ p.v) t →
        exec (.gridIssue c) s = .next { t with cur := s.cur, slot := s.slot }) ∧
    (∀ (r : BitVec 6) (gb : Bool) (a : Nat), g.ready p = true → p.m = none → p.v = [] →
      (p.xfers = [⟨r, true, gb, a⟩] → (∀ q e, e ∈ (g.queue q).entries → e.settled = true ∨ e.src.space = .dm) →
        exec (.gridIssue c) s = .next (s.modCore c (fun k =>
        let b := (List.range 64).flatMap (fun j => leBytes 4 (g.cell r.toNat j).toNat)
        let k := { k with grid := { k.grid with giq := ps, pkts := g.pkts ++ [p] } }
        if gb then { k with gb := k.gb.store a b } else { k with xb := k.xb.store a b }))) ∧
      (p.xfers = [⟨r, false, gb, a⟩] → ∃ f : Flight, exec (.gridIssue c) s = .next (s.modGrid c (fun g =>
          { g with giq := ps, pkts := g.pkts ++ [p], inflight := g.inflight ++ [f] })) ∧
        f.kind = .vld ∧ f.due = g.cyc + 3 ∧ f.fwd = p.fwd ∧ f.vld = some a ∧ f.rowSet = [r.toNat] ∧ f.written = false))) ∧
  (∀ (s : State) (c : CoreIx) (f : Flight) (p : GridPkt), let g := (s.core c).grid
    g.inflight = [f] → g.pkts = [p] → f.fwd = p.fwd → f.written = false → f.due < g.cyc →
    let done (e : Instr) (k : FlKind) : Prop := f.kind = k → ∃ t, exec e s = .next t ∧ (t.core c).grid.inflight = [] ∧
      (t.core c).grid.pkts = [] ∧ (∀ i j, i < 64 → j < 64 → (t.core c).grid.cell i j = (((s.core c).applyFlight f).grid).cell i j) ∧
      (t.core c).x = (s.core c).x ∧ (t.core c).grid.giq = g.giq
    done (.mWriteCycle c) .m ∧ done (.vWriteCycle c) .v ∧ done (.vldWrite c) .vld ∧
    (f.kind = .v → f.rk = none → f.vld = none → ∃ t, exec (.vWriteCycle c) s = .next t ∧ (t.core c).grid.flags = g.flags ||| f.flags ∧
      (∀ i j, i < 64 → j < 64 → (t.core c).grid.cell i j = (f.rows.foldl (fun g q => g.setRow q.1 q.2) g).cell i j)) ∧
    (∀ (r : BitVec 6) (a : Nat), f.kind = .vld → f.rk = none → f.vld = some a → f.rows = [(r.toNat, Row.zero)] → f.regs = [] →
      ∃ t, exec (.vldWrite c) s = .next t ∧ ∀ i j, i < 64 → j < 64 → (t.core c).grid.cell i j =
        if i = r.toNat then BitVec.ofNat 32 ((s.core c).gb.le (a + 4 * j) 4) else g.cell i j)) ∧
  (∀ (s : State) (c : CoreIx) (p : GridPkt) (ps : List GridPkt) (m : GSlot) (q : BitVec 3) (n : Nat),
    (s.core c).grid.giq = p :: ps → p.m = some m → (q, n) ∈ Instr.mPops p.fmt m.instr →
    ((s.core c).grid.queue q).fillN - ((s.core c).grid.queue q).p < n →
    ((s.core c).ctl.wait = some .giqRoom ∧ (s.core c).grid.pkts = []) ∨ (∃ r, (s.core c).ctl.wait = some (.queueEntry r)) →
    ∃ t, exec (.operandStarvation c) s = .next t ∧ s.groupEnded t c) ∧
  (∀ (s : State) (c : CoreIx) (r : BitVec 6), (s.core c).ctl.st = .run → (s.core c).timed = false → (s.core c).drainedM r = false →
    (s.core c).ctl.markNext = false → (s.core c).keptPart = false →
    ∃ t, exec (.gridError c (.row r)) s = .next t ∧ t.core c = (s.core c).gridStop.rollback ∧ t.groups = s.groups) ∧
  (∀ (s : State) (c : CoreIx) (q : BitVec 3), (s.core c).poppedBy q = false → (s.core c).discarded q = false →
    exec (.gridError c (.popped q)) s = .next s) ∧
  (∀ (s : State) (c : CoreIx) (q : BitVec 3), (s.core c).ctl.st = .run → (s.core c).timed = false → (s.core c).poppedBy q = false →
    (s.core c).discarded q = true → (s.core c).ctl.markNext = false → (s.core c).keptPart = false →
    ∃ t, exec (.gridError c (.popped q)) s = .next t ∧ t.core c = (s.core c).gridStop.rollback ∧ t.groups = s.groups) ∧
  ∀ (s : State) (c : CoreIx) (e : GridErr), (s.core c).ctl.st = .run → (s.core c).timed = true →
    (∀ q, e = .popped q → (s.core c).poppedBy q = true) → (∀ g h, (s.core c).grp = some g → s.group g = some h → h.st ≠ .lulling ∧ h.lullReq = false) →
    ∃ t, exec (.gridError c e) s = .next t ∧ s.groupEnded t c

/-- R15, R28, R201, R219, R220, R225, R290 to R292, R317 to R320, R325: each wait ends when its condition holds; the start of a timed region, its limit, and its chunks. -/
def Obligations.WaitsAndTimedRegions : Prop :=
  (
  ∀ (s : State) (c : CoreIx),
    let k := s.core c
    let w := k.ctl.wait
    (∀ n v, w = some (.fwait n v) → exec (.fwaitPass c) s =
      .next (if v.toNat ≤ ((s.ctx (s.ctxOf c)).counter n).toNat then s.waitEnds c else s)) ∧
    (w = some .fence → exec (.fenceDone c) s =
      .next (if k.settled = true ∧ k.canCommit k.rs.gate.length = true then s.waitEnds c else s)) ∧
    (∀ m, w = some (.qfence m) → exec (.qfenceDone c) s =
      .next (if (List.range 6).all (fun q => !m.getLsbD q || (k.engQ q).isEmpty) then s.waitEnds c else s)) ∧
    (w = some .wfence → exec (.wfenceDone c) s =
      .next (if (List.range 6).all (fun q => (k.engQ q).isEmpty) then s.waitEnds c else s)) ∧
    (∀ (q : BitVec 2) (e : EngEntry) (rest : List EngEntry) (n : BitVec 8) (v : Word), k.engQ q.toNat = e :: rest → e.op = .cwait n v →
      exec (.cwaitPass c q) s = .next
        (if v.toNat ≤ ((s.ctx (s.ctxOf c)).counter n).toNat then s.modCore c (fun k => k.setEngQ q.toNat rest) else s)) ∧
    (∀ (g : Group) (b : BitVec 4), s.group g.id = some g → g.cores = [c] →
      exec (.barrierRelease g.id b) s = .next
        (if w = some (.barw b) ∧ (∃ x ∈ g.bar.w, x.1 = 0 ∧ x.2.1 = b ∧ x.2.2 ≠ g.bar.phase b) then s.waitEnds c else s)) ∧
    ((w ≠ some .csync ∨ k.ctl.csyncAt ≠ none) → exec (.csyncComplete c) s = .next s)) ∧
  (
  (∀ (s : State) (c : CoreIx), (s.core c).ctl.csyncAt = none → c ∈ s.participants c →
    (∀ g, s.group (((s.core c).grp).getD 0) = some g → g.lullReq = false) →
    (∀ d ∈ s.participants c, (s.core d).ctl.wait = some .csync ∧ (s.core d).buffersQuiet = true ∧ s.linesHeld d = true) →
    ∃ t, exec (.csyncComplete c) s = .next t ∧
      (∀ d, (t.core d).ctl.csyncAt = if d ∈ s.participants c then some (s.cyc d + 1) else (s.core d).ctl.csyncAt) ∧
      (∀ d, (t.core d).sameData (s.core d)) ∧
      (∀ m, (s.cluster (clusterOf c)).pendMhz = some m →
        (∀ d, clusterOf d = clusterOf c → d ∉ s.participants c → (s.core d).timed = false) → (t.cluster (clusterOf c)).mhz = m) ∧
      ((s.cluster (clusterOf c)).pendMhz = none ∨ (∃ d, clusterOf d = clusterOf c ∧ d ∉ s.participants c ∧ (s.core d).timed = true) →
        t.clusters = s.clusters)) ∧
  (∀ (s : State) (c : CoreIx) (n : Nat) (g : Group), (s.core c).grp = some n → s.group n = some g → g.lullReq = true →
    exec (.csyncComplete c) s = .next s) ∧
  (∀ (s : State) (c d : CoreIx), d ∈ s.participants c →
    (s.core d).ctl.wait ≠ some .csync ∨ (s.core d).buffersQuiet = false ∨ s.linesHeld d = false → exec (.csyncComplete c) s = .next s) ∧
  (∀ (s : State) (c : CoreIx), (s.core c).timed = true →
    (s.regionCycle c < 1048576 → exec (.regionLimit c) s = .next s) ∧
    (1048576 ≤ s.regionCycle c → (s.core c).settled = true → (s.core c).gateFree → (s.core c).ctl.inTrap = false → (s.core c).ctl.tvec ≠ 0 →
      (s.core c).region.sends = [] → (s.core c).region.recvs = [] →
      ∃ t, exec (.regionLimit c) s = .next t ∧ (t.core c).ctl.cause = 0x0BC ∧ (t.core c).ctl.tval = BitVec.ofNat 64 (s.regionCycle c) ∧
        (t.core c).ctl.epc = (s.core c).ctl.pc ∧ (t.core c).ctl.pc = (s.core c).ctl.tvec ∧ (t.core c).ctl.inTrap = true ∧
        (t.core c).timed = false ∧ (t.core c).x = (s.core c).x)) ∧
  ∀ (s : State) (c : CoreIx) (w : Win), let now := s.regionCycle c
    (s.core c).region.sends = [w] → (s.core c).region.recvs = [] → w.latch = none → w.t < now → now < w.t + w.n →
    (∀ d, clusterOf d = clusterOf c → d ≠ c → (s.core d).region.sends = []) →
    exec (.chunkTransfer c) s = .next (s.modCore c (fun k => { k with region := { k.region with
      sends := [{ w with latch := some (now, k.xb.bytes (w.addr + 64 * (now - w.t)) 64) }] } })) ∧
    ∀ (u : State) (t : Nat) (bs : List Byte) (v : Win), let d := coreIn (clusterOf c) w.peer
      u = s.modCore c (fun k => { k with region := { k.region with sends := [{ w with latch := some (t, bs) }] } }) →
      s.memWf → t < now → d ≠ c → (s.core d).grp = (s.core c).grp → (s.core d).region.start = (s.core c).region.start →
      (s.core d).region.recvs = [v] → v.t = w.t → v.n = w.n → v.peer = inCluster c → bs.length = 64 → w.t ≤ t →
      ∃ x, exec (.chunkTransfer c) u = .next x ∧
        (∀ i, i < 64 → (x.core d).xb.read (v.addr + 64 * (t - w.t) + i) = bs.getD i 0) ∧
        ∀ i, i < v.addr + 64 * (t - w.t) ∨ v.addr + 64 * (t - w.t) + 64 ≤ i → (x.core d).xb.read i = (s.core d).xb.read i)

/-! ### Events of the engines -/

/-- R277 to R283: the start of an operation, a chunk of a copy between buffers, and the stop at a fault. -/
def Obligations.CopiesAndEngineFaults : Prop :=
  (∀ (s : State) (c : CoreIx) (q : BitVec 3) (e : EngEntry) (rest : List EngEntry), (s.core c).engQ q.toNat = e :: rest → e.started = false →
    ((s.core c).opWaits e = true → exec (.engineOpStart c q) s = .next s) ∧ ((s.core c).opWaits e = false →
    let starts (buf : List Byte) : Prop := exec (.engineOpStart c q) s =
      .next (s.modCore c (fun k => k.setEngQ q.toNat ({ e with started := true, buf := buf } :: rest)))
    (∀ d p r n x y, e.op = .copy d p r n x y → starts []) ∧ (∀ b, e.op = .stream b → starts []) ∧ (∀ b u, e.op = .qpush b u → starts []) ∧
    (∀ l n b, e.op = .scatter l n b → starts ((s.core c).xb.bytes l.toNat (8 * n))) ∧
    (∀ a b n i m, e.op = .rred a b n i false m → starts ((s.core c).xb.bytes a.toNat (4 * n))) ∧
    (∀ n v, e.op = .cwait n v → exec (.engineOpStart c q) s = .next s))) ∧
  (∀ (s : State) (c d : CoreIx) (q : BitVec 3) (e : EngEntry) (rest : List EngEntry) (x y : EndPt) (n i : Nat) (bs : List Byte)
      (l : List (Option (List Byte))),
    s.memWf → (s.core c).engQ q.toNat = e :: rest → e.started = true → e.faulted = none → e.prog = i → 64 * i < n →
    (e.ahead = some bs :: l ∨ (e.ahead = [] ∧ some bs :: l =
      (chunksFrom n (64 * i)).map (fun k => some (((s.core c).buf y.space).bytes (y.addr.toNat + k.1) k.2)))) →
    bs.length = min 64 (n - 64 * i) → e.op = .copy x y 1 n 0 0 →
    x.space ≠ .dm → y.space ≠ .dm → y.peer = none → x.peer.getD c = d →
    (∀ p, x.peer = some p → ∃ g, (s.core p).grp.bind s.group = some g ∧ g.ctx = s.ctxOf c ∧ g.st = .resident) →
    x.addr.toNat + n < 2 ^ 52 → y.addr.toNat + n < 2 ^ 52 →
    ∃ t, exec (.engineOpPerformed c q) s = .next t ∧
      (t.core c).engQ q.toNat = (if n ≤ 64 * (i + 1) then rest else { e with prog := i + 1, ahead := l } :: rest) ∧
      (∀ j, j < bs.length → ((t.core d).buf x.space).read (x.addr.toNat + 64 * i + j) = bs.getD j 0) ∧
      (∀ j, j < x.addr.toNat + 64 * i ∨ x.addr.toNat + 64 * i + bs.length ≤ j →
        ((t.core d).buf x.space).read j = ((s.core d).buf x.space).read j) ∧
      (∀ sp, sp ≠ x.space → (t.core d).buf sp = (s.core d).buf sp) ∧ (∀ b, (t.core b).x = (s.core b).x ∧ (t.core b).grid = (s.core b).grid) ∧
      (∀ b, b ≠ c → b ≠ d → t.core b = s.core b) ∧ t.mem = s.mem) ∧
  ∀ (s u : State) (c : CoreIx) (q : BitVec 3) (e h : EngEntry) (rest : List EngEntry) (f : PageFault),
    (s.core c).engQ q.toNat = e :: rest → (u.core c).engQ q.toNat = e :: rest → e.started = true → e.faulted = none →
    s.runHead c q.toNat e = (.fault f, h, u) →
    ∃ t, exec (.engineFault c q) s = .next t ∧ t.faultCount = u.faultCount + 1 ∧ (t.core c).engQ q.toNat =
      { h with faulted := some (u.faultCount + 1) } :: rest ∧ h.op = e.op ∧ e.prog ≤ h.prog

/-- R65 to R67, R286 to R289: a scatter element, a reduction, a queue push and a signal perform. -/
def Obligations.RemoteOperationsPerform : Prop :=
  (∀ (s u : State) (c : CoreIx) (e : EngEntry) (rest : List EngEntry) (l base : Word) (pa : Nat), (s.core c).engQ 5 = e :: rest →
    e.op = .scatter l 1 base → e.started = true → e.faulted = none → e.prog = 0 → e.buf.length = 8 → s.joinedUp → s.noWalks →
    let off := leNat (e.buf.take 4)
    let op := off % 4
    let v : Cell := BitVec.ofNat 32 (leNat (e.buf.drop 4))
    let old : Cell := BitVec.ofNat 32 (s.mem.le pa 4)
    let done (t : State) : State := t.modCore c (fun k => k.setEngQ 5 ({ e with prog := 1 } :: rest))
    (op = 3 → exec (.scatterTrainApply c) s = .next (done s)) ∧
    (op ≠ 3 →
      s.translateRange (s.ctxOf c) (dieOf c) none (base + BitVec.ofNat 64 (off - op)) (if op = 0 then .write else .atomic) 4 = (.ok [(pa, 4)], u) →
      exec (.scatterTrainApply c) s = .next (done (u.putMem pa (leBytes 4
        (if op = 0 then v else if op = 2 then old + v
         else (sumRound tyFP32 ⟨0, false⟩ 0 [tyFP32.val old, tyFP32.val v]).1).toNat)))) ∧
    (1 ≤ e.op.units → exec (.engineOpPerformed c 5) (done s) = .next (s.modCore c (fun k => k.setEngQ 5 rest)))) ∧
  (∀ (s u : State) (c : CoreIx) (e : EngEntry) (rest : List EngEntry) (a dest : Word) (n : Nat) (int : Bool) (m : Option Word) (pa : Nat),
    (s.core c).engQ 5 = e :: rest → e.op = .rred a dest n int false m → e.started = true → e.faulted = none → e.prog = 0 →
    s.joinedUp → s.noWalks → s.memWf →
    s.translateRange (s.ctxOf c) (dieOf c) none dest .atomic (4 * n) = (.ok [(pa, 4 * n)], u) →
    ∃ t, exec (.rredApply c) s = .next t ∧ (t.core c).engQ 5 = { e with prog := 1 } :: rest ∧
      (∀ i, i < n → BitVec.ofNat 32 (t.mem.le (pa + 4 * i) 4) =
        let old : Cell := BitVec.ofNat 32 (s.mem.le (pa + 4 * i) 4)
        let v : Cell := BitVec.ofNat 32 (leNat ((e.buf.drop (4 * i)).take 4))
        if (m.getD (BitVec.allOnes 64)).getLsbD (i % 64) = false then old
        else if int then old + v
        else (sumRound tyFP32 ⟨0, false⟩ 0 [tyFP32.val old, tyFP32.val v]).1) ∧
      ∀ b, b < pa ∨ pa + 4 * n ≤ b → t.mem.read b = s.mem.read b) ∧
  (∀ (s : State) (c : CoreIx) (e : EngEntry) (rest : List EngEntry) (b : List Byte) (q : Word), (s.core c).engQ 5 = e :: rest →
    e.op = .qpush b q → b.length = 64 → s.memWf → s.noWalks →
    (∀ d ∈ (s.core c).eng.toList.flatten, e.order ≤ d.order) →
    let n := s.ctxOf c
    let u := s.mapRing n q.toNat
    let r := u.queue n q.toNat
    let entry := b.take 56 ++ leBytes 2 (s.tagOf n).toNat ++ leBytes 6 (r.a % 2 ^ 48)
    (q.toNat < (s.ctx n).desc.qmax.toNat → s.appendRefused n q.toNat 1 = none →
      ∃ t, exec (.qpushAppend c) s = .next t ∧ (t.core c).engQ 5 = rest ∧ (t.queue n q.toNat).a = r.a + 1 ∧ (t.queue n q.toNat).d = r.d ∧
        (∀ pa, u.slotAt n q.toNat r.a = some pa → u.sealed (pa / 65536) = false → t.mem.bytes pa 64 = entry) ∧
        (u.slotAt n q.toNat r.a = none → n < 65 → (t.queue n q.toNat).kept.lookup r.a = some entry)) ∧
    (q.toNat < (s.ctx n).desc.qmax.toNat → s.appendRefused n q.toNat 1 = some 5 → exec (.qpushAppend c) s = .next s) ∧
    ((s.ctx n).desc.qmax.toNat ≤ q.toNat → ∃ t, exec (.qpushAppend c) s = .next t ∧ s.groupEnded t c)) ∧
  ∀ (s : State) (c : CoreIx) (g : Sig) (rest : List Sig), (s.core c).sigs = g :: rest →
    ((∀ e ∈ (s.core c).eng.toList.flatten, g.order ≤ e.order) → ∃ t, exec (.fsigPerform c) s = .next t ∧ (t.core c).sigs = rest ∧
      (∀ n, s.ctxOf c < 65 → (t.ctx (s.ctxOf c)).counter n =
        if n = g.n then (s.ctx (s.ctxOf c)).counter n + g.v else (s.ctx (s.ctxOf c)).counter n) ∧ t.mem = s.mem ∧
      (t.core c).x = (s.core c).x ∧ (t.core c).eng = (s.core c).eng) ∧
    ((∃ e ∈ (s.core c).eng.toList.flatten, e.order < g.order) → exec (.fsigPerform c) s = .next s)

/-! ### Events of groups -/

/-- R30, R76, R77, R95 to R99: placement, what a core holds at the start of a group, the end of a group, slices and passing over. -/
def Obligations.GroupsArePlaced : Prop :=
  (∀ (s : State) (m : BitVec 512) (e : GEnv) (d : BitVec 2) (n : Nat) (cs : List CoreIx), s.fit m e d n = some cs →
    cs.length = n ∧ (∀ c ∈ cs, dieOf c = d ∧ m.getLsbD c.toNat = true ∧ s.coreFree e c = true) ∧
      (n ≤ 7 → ∃ cl, ∀ c ∈ cs, clusterOf c = cl)) ∧
  (∀ (s : State) (d : BitVec 2) (g : Group) (gs : List Group) (cs : List CoreIx), s.pendingOn d = g :: gs → s.placeOf d g = some cs →
    g.started = false → g.tile = none → s.group g.id = some g → cs.Nodup →
    ∃ t, exec (.groupPlacement d) s = .next t ∧
      (∃ h, t.group g.id = some h ∧ h.st = .resident ∧ h.started = true ∧ h.cores = cs ∧ h.die = d ∧ h.env = g.env) ∧
      (∀ c ∈ cs, let k := t.core c
        k.grp = some g.id ∧ k.ctl.st = .run ∧ k.ctl.pc = g.env.entry ∧ k.ctl.inTrap = false ∧ k.ctl.tvec = 0 ∧
        k.rx 1 = g.param ∧ k.rx 2 = BitVec.ofNat 64 g.index ∧ k.rx 3 = BitVec.ofNat 64 g.count ∧
        k.rx 4 = BitVec.ofNat 64 (cs.idxOf c) ∧ k.rx 5 = BitVec.ofNat 64 g.n ∧ k.rx 6 = BitVec.ofNat 64 g.plen ∧
        (∀ r : BitVec 5, r = 0 ∨ 7 ≤ r.toNat → k.rx r = 0) ∧ (∀ j, k.rk j = 0) ∧ k.fmt = g.env.fmt0.setWidth 64 ∧ k.shp = g.env.shp0 ∧
        (∀ i j, k.grid.cell i j = 0) ∧ k.grid.gens = gensSeed 0 ∧ k.grid.giq = [] ∧ k.grid.flags = 0 ∧ k.rs.gate = [] ∧ k.rs.log = [] ∧
        (∀ i : Fin 6, k.eng[i] = []) ∧ ((s.core c).lastCtx ≠ g.ctx → k.xb = [] ∧ k.wb = [] ∧ k.gb = [])) ∧
      ∀ c, c ∉ cs → t.core c = s.core c) ∧
  (∀ (s : State) (g : Group), s.group g.id = some g → g.tile = none → g.st = .resident →
    ((∀ c ∈ g.cores, (s.core c).ctl.st = .exited ∧ (∀ q : Fin 6, (s.core c).eng[q] = []) ∧ (s.core c).sigs = [] ∧
        (s.core c).grid.pkts = [] ∧ ((s.core c).grid.giq = [] ∨ (s.core c).grid.starved = true)) →
      ∃ t h, exec (.groupEnd g.id) s = .next t ∧ t.group g.id = some h ∧ h.st = .ended ∧ h.cores = [] ∧
        ∀ c ∈ g.cores, (t.core c).grp = none ∧ (t.core c).ctl.st = .idle) ∧
    ((∃ c ∈ g.cores, (s.core c).ctl.st ≠ .exited ∨ (s.core c).grid.pkts ≠ []) → exec (.groupEnd g.id) s = .next s)) ∧
  (∀ (s : State) (part : BitVec 6) (p : Partition) (n : Nat), s.parts[part.toNat]'part.isLt = some p →
    s.nextCtx part.toNat (p.active.getD 0) = some n →
    ∃ t, exec (.sliceBoundary part) s = .next t ∧ t.parts[part.toNat]'part.isLt = some { p with active := some n } ∧
      t.groups.length = s.groups.length ∧
      ∀ (i : Nat) (g h : Group), s.groups[i]? = some g → t.groups[i]? = some h →
        (p.active = some g.ctx → g.st = .resident → h.lullReq = true ∧ h.st = .resident) ∧
        (g.ctx = n → g.st = .saved → h.st = .pending) ∧
        (p.active ≠ some g.ctx → g.ctx ≠ n → h = g)) ∧
  ∀ (s : State) (g : Group), s.group g.id = some g →
    (g.st = .pending → exec (.passOverTimeout g.id) s = .next (s.modGroup g.id (fun h => { h with passed := true }))) ∧
    (g.st ≠ .pending → exec (.passOverTimeout g.id) s = .next s)

/-- R100, R101, R105, R113, R114, R116, R117, R328: sr.savebase takes an aligned write of the system context (of another the model keeps the old value, log 48); the lull stops a core at its mark,
within a packet behind an irrevocable operation that has performed (log 136), and not where its BARW has been released; the save writes its frame, the
restore reads it back, with kept fills from buffers. -/
def Obligations.LullSaveRestore : Prop :=
  (∀ (s : State) (v : Word), s.saveWrite = some v →
    (v.toNat % 65536 = 0 → s.takeSavebase = { s with saveWrite := none, savebase := v }) ∧
    (v.toNat % 65536 ≠ 0 → s.takeSavebase = { s with saveWrite := none })) ∧
  (∀ (s : State) (g : Group) (c : CoreIx), s.group g.id = some g →
    (g.st = .restoring → ∃ t h, exec (.groupLull g.id) s = .next t ∧ t.group g.id = some h ∧ h.st = .lulling ∧ t.cores = s.cores ∧ t.mem = s.mem) ∧
    (g.st = .resident → g.cores = [c] → (s.core c).stopsNow = true → (∀ q : Fin 6, (s.core c).eng[q] = []) → (s.core c).grp.isSome →
      (s.core c).timed = false → s.noneAimed c = true →
      (s.released c = true → ∃ t h, exec (.groupLull g.id) s = .next t ∧ t.group g.id = some h ∧ h.st = .resident ∧ h.lullReq = true ∧ t.core c = s.core c) ∧
      (s.released c = false → (s.core c).keptPart = true → ∃ t h, exec (.groupLull g.id) s = .next t ∧ t.group g.id = some h ∧ h.st = .lulling ∧ h.cores = [c] ∧
        let k := t.core c
        k.ctl.st = .stopped ∧ k.ctl.wait = none ∧ k.ctl.pc = (s.core c).ctl.pc ∧ k.rs.fwd = (s.core c).rs.fwd ∧ k.x = (s.core c).x ∧ k.k = (s.core c).k ∧ k.rs.log = []) ∧
      (s.released c = false → (s.core c).keptPart = false → (s.core c).ctl.markNext = true → (s.core c).settled = true → (s.core c).gateFree →
        ∃ t h, exec (.groupLull g.id) s = .next t ∧ t.group g.id = some h ∧ h.st = .lulling ∧ h.cores = [c] ∧
          let k := t.core c
          k.ctl.st = .stopped ∧ k.ctl.pc = (s.core c).ctl.pc ∧ k.rs.fwd = (s.core c).rs.fwd ∧ k.rs.gate = [] ∧ k.rs.log = []) ∧
      (s.released c = false → (s.core c).keptPart = false → (s.core c).ctl.markNext = false →
        ∃ t h, exec (.groupLull g.id) s = .next t ∧ t.group g.id = some h ∧ h.st = .lulling ∧ h.cores = [c] ∧
        let k := t.core c
        let m := (s.core c).rs.shadow
        k.ctl.st = .stopped ∧ k.ctl.wait = none ∧ k.ctl.pc = m.pc ∧ k.ctl.inTrap = m.inTrap ∧ k.x = m.x ∧ k.k = m.k ∧ k.fmt = m.fmt ∧
          k.shp = m.shp ∧ k.rs.gate = [] ∧ k.rs.log = (s.core c).rs.log ∧ k.rs.fwd = m.fwd ∧ k.grid.inflight = [] ∧ k.grid.pkts = [] ∧
          ∀ p ∈ k.grid.giq, p.fwd < m.fwd ∨ (k.grid.couch.active = true ∧ p.fwd = k.grid.stopIndex) ∨
            ∃ q ∈ (s.core c).grid.pkts, q.fwd = p.fwd ∧ ∃ x ∈ q.xfers, x.st = true))) ∧
  (∀ (s : State) (g : Group) (c : CoreIx) (slot : Nat), s.group g.id = some g → g.st = .lulling → g.cores = [c] → g.slots = [slot] →
    g.prog = [{ rank := 0, next := 0, mask := 0, fault := none }] →
    let base := s.framePa g.ctx slot
    s.frameUsable g base .write → s.memWf → s.noWalks →
    ∃ t h, exec (.saveDone g.id) s = .next t ∧ t.group g.id = some h ∧
      h.st = (if s.hasTurn g.ctx = true ∧ g.lost = [] then .pending else .saved) ∧ h.cores = [] ∧ (t.core c).grp = none ∧
      ((s.core c).ctl.st = .exited → t.mem.le (base + 0x48) 8 = 1 ∧ ∀ a, a < base + 0x48 ∨ base + 0x50 ≤ a → t.mem.read a = s.mem.read a) ∧
      ((s.core c).ctl.st = .stopped → t.mem.le base 8 = (s.core c).ctl.pc.toNat ∧
        (∀ i : Fin 32, t.mem.le (base + 0x100 + 8 * i.val) 8 = ((s.core c).x[i]).toNat) ∧
        t.mem.le (base + 0x38) 8 = (s.core c).fmt.toNat ∧ t.mem.le (base + 0x40) 8 = (s.core c).shp.toNat ∧
        ∀ r, r < 64 → (s.core c).grid.fdirty.getLsbD r = true → ∀ j, j < 64 →
          BitVec.ofNat 32 (t.mem.le (base + 0x1000 + 256 * r + 4 * j) 4) = (s.core c).grid.cell r j)) ∧
  ∀ (s : State) (g : Group) (c : CoreIx) (sv : SavedCore), s.group g.id = some g → g.st = .restoring → g.cores = [c] → g.saved = [sv] →
    g.prog = [{ rank := 0, next := 0, mask := 0, fault := none }] → (s.ctx g.ctx).imported = [] →
    let base := s.framePa g.ctx sv.slot
    let w (o : Nat) : Word := BitVec.ofNat 64 (s.mem.le (base + o) 8)
    s.frameUsable g base .read → s.noWalks → s.mem.read (base + 0x48) ≠ 1 → s.mem.read (base + 0xD1) = 0 →
    (∀ i j, i < 8 → j < min 8 ((w (0x58 + 16 * i)).toNat - (w (0x50 + 16 * i)).toNat) → (s.mem.read (base + 0x800 + 128 * i + 16 * j + 14)).toNat % 4 ≠ 3) →
    ∃ t h, exec (.restoreDone g.id) s = .next t ∧ t.group g.id = some h ∧ h.st = .resident ∧ t.mem = s.mem ∧
      let k := t.core c
      k.ctl.st = .run ∧ k.ctl.pc = w 0 ∧ k.rs.fwd = (w 8).toNat ∧ k.fmt = w 0x38 ∧ k.shp = w 0x40 ∧
        (∀ i : Fin 32, k.x[i] = w (0x100 + 8 * i.val)) ∧ (∀ i : Fin 8, k.k[i] = w (0x200 + 8 * i.val)) ∧
        k.ctl.tvec = w 0x580 ∧ k.ctl.epc = w 0x588 ∧ k.eng = (sv.aimed (clusterOf c)).eng ∧ k.seqr = sv.seqr ∧
        (∀ r, r < 64 → ∀ j, j < 64 → k.grid.cell r j =
          if (w 0x18).getLsbD r then BitVec.ofNat 32 (s.mem.le (base + 0x1000 + 256 * r + 4 * j) 4) else 0) ∧
        ∀ a, a < g.env.xbext → k.xb.read a = s.mem.read (base + 0x10000 + a)

/-! ### Device memory -/

/-- R33, R43, R84, R85, R353, R358, R363, R369 to R373: the shadow table, accesses at their home, walks over counter blocks, hashes and mismatches. -/
def Obligations.TranslationAndMemoryEvents : Prop :=
  (
  ∀ (s : State) (c : CoreIx) (va : Word) (k : AccKind) (n : Nat), n = s.ctxOf c → s.noWalks → va.toNat < 2 ^ 52 → (s.ctx n).hostWin va = none →
    (s.core c).utlb = [] → (s.die (dieOf c)).ltlb = [] →
    let a1 := (s.ctx n).desc.sroot.toNat + 8 * (va.extractLsb' 38 14).toNat
    let e1 : Word := BitVec.ofNat 64 (s.mem.le a1 8)
    let a2 := entryAddr e1 + 8 * (va.extractLsb' 26 12).toNat
    let e2 : Word := BitVec.ofNat 64 (s.mem.le a2 8)
    let a3 := entryAddr e2 + 8 * (va.extractLsb' 16 10).toNat
    let e3 : Word := BitVec.ofNat 64 (s.mem.le a3 8)
    let pa := entryAddr e3 + va.toNat % 65536
    s.frameCheck 0 a1 = none → nextLevel e1 → s.frameCheck 0 a2 = none → nextLevel e2 → s.frameCheck 0 a3 = none →
    (leaf3 e3 → leafAllows e3 k → inRegion pa = true → s.frameCheck n pa = none → s.sealed (pa / 65536) = false → s.sealedVa n va = false →
      (s.translate n (dieOf c) (some c) va k 8).1 = .ok pa ∧
      ∃ t e, exec (.tableWalk c va k) s = .next t ∧ (t.core c).utlb = [e] ∧ (t.die (dieOf c)).ltlb = [e] ∧ e.tag = s.tagOf n ∧
        e.va ≤ va.toNat ∧ va.toNat < e.va + e.size ∧ t.mem = s.mem ∧ (t.core c).x = (s.core c).x) ∧
    (e3.getLsbD 0 = false → exec (.tableWalk c va k) s = .next s ∧
      ∃ f, s.walk n va k = .error f ∧ f.detail = 0x01 ∧ f.level = 3 ∧ f.va = va) ∧
    (leaf3 e3 → k = .read → e3.getLsbD 2 = false → exec (.tableWalk c va k) s = .next s ∧
      ∃ f, s.walk n va k = .error f ∧ f.detail = 0x02 ∧ f.level = 3) ∧
    (leaf3 e3 → k = .write → e3.getLsbD 3 = true → e3.getLsbD 6 = true → exec (.tableWalk c va k) s = .next s ∧
      ∃ f, s.walk n va k = .error f ∧ f.detail = 0x07)) ∧
  (
  (∀ (s : State) (tag : Tag) (pa : BitVec 48) (k : AccKind) (len : Nat) (bs : List Byte), s.memWf → s.noWalks → bs.length = len →
    let f := s.frame (pa.toNat / 65536)
    (s.tagOf (tagCtx tag) ≠ tag → exec (.memoryAccess tag pa k len bs) s = .next s) ∧
    (s.frameCheck (tagCtx tag) pa.toNat ≠ none → exec (.memoryAccess tag pa k len bs) s = .next s) ∧
    (s.tagOf (tagCtx tag) = tag → s.frameCheck (tagCtx tag) pa.toNat = none →
      (k = .read ∨ k = .fetch → exec (.memoryAccess tag pa k len bs) s = .next s) ∧
      (k = .write → s.sealed (pa.toNat / 65536) = false → ∃ t, exec (.memoryAccess tag pa k len bs) s = .next t ∧
        (∀ i, i < len → t.mem.read (pa.toNat + i) = bs.getD i 0) ∧
        (∀ a, a < pa.toNat ∨ pa.toNat + len ≤ a → t.mem.read a = s.mem.read a) ∧
        (f.st = .tracked → 0 < len → (t.frame (pa.toNat / 65536)).dirty = true) ∧ t.cores = s.cores ∧ t.ctxs = s.ctxs) ∧
      (k = .write → s.sealed (pa.toNat / 65536) = true → exec (.memoryAccess tag pa k len bs) s = .next s))) ∧
  (∀ (s : State) (d : BitVec 2) (w : Walk), (s.die d).waitWalks = [w] → (s.die d).walks = [] → (s.die d).walkCmds = [] → w.busy = [] →
    ∃ t, exec (.walkStart d) s = .next t ∧ (t.die d).waitWalks = [] ∧
      (t.die d).walks = [{ w with busy := w.pending.take 16, pending := w.pending.drop 16 }] ∧ (t.unit w.unit).slot = some 0) ∧
  (∀ (s : State) (d : BitVec 2) (w : Walk) (b : Nat) (rest : List Nat), (s.die d).walks = [w] → w.busy = b :: rest → b < 512 →
    ∃ t, exec (.counterBlockRewrite d w.unit) s = .next t ∧
      let n := w.unit * 512 + b
      (t.block n).major = (if w.scrub.contains b then (s.block n).major + 1 else 0) ∧ (t.block n).minors = [] ∧
      (∀ a, n * 4096 ≤ a → a < n * 4096 + 4096 → t.mem.read a = 0) ∧
      ∀ a, a < n * 4096 ∨ n * 4096 + 4096 ≤ a → t.mem.read a = s.mem.read a) ∧
  (∀ (s : State) (n : CtxNo) (va : Word) (i : Nat) (p : SealedPage) (x : Xlat), i < 64 → n.toNat < 65 → s.noWalks → va.toNat % 65536 = 0 →
    (∀ j, j < i → ((s.ctx n.toNat).kernel j).pages = []) → ((s.ctx n.toNat).kernel i).pages = [p] → p.va = va → p.verified = false →
    s.walk n.toNat va .fetch = .ok x →
    (Config.sha256 (s.mem.bytes x.pa 65536) = p.digest → ∃ t, exec (.pageHash n va) s = .next t ∧
      ((t.ctx n.toNat).kernel i).pages = [{ p with verified := true, frame := x.pa / 65536 }] ∧
      ((t.ctx n.toNat).kernel i).st = ((s.ctx n.toNat).kernel i).st ∧
      ∀ c v b, (s.core c).ctl.wait = some (.hash v b) → s.ctxOf c = n.toNat → (t.core c).ctl.wait = none) ∧
    (Config.sha256 (s.mem.bytes x.pa 65536) ≠ p.digest → ∃ t, exec (.pageHash n va) s = .next t ∧
      ((t.ctx n.toNat).kernel i).st = .failed)) ∧
  (∀ (s : State) (pa : BitVec 48) (detail : BitVec 4), detail = 0 ∨ 3 < detail.toNat ∨ s.unfilled pa.toNat detail = true →
    exec (.integrityMismatch pa detail) s = .next s) ∧
  (∀ (s : State) (pa : BitVec 48) (detail : BitVec 4), let f := s.frame (pa.toNat / 65536)
    inRegion pa.toNat = true → f.st = .bound → 0 < f.owner → f.owner < 65 → 0 < detail.toNat → detail.toNat ≤ 3 →
    s.unfilled pa.toNat detail = false →
    (∀ c b v, (s.faultTiles pa.toNat f.owner detail).peerReaders pa.toNat f.owner = [(c, b, v)] →
      exec (.integrityMismatch pa detail) s = .next (((s.faultTiles pa.toNat f.owner detail).endMine c (BitVec.ofNat 9 (0x140 + detail.toNat)) b v).freeze f.owner 0)) ∧
    (s.tiles = [] → (∀ c, (s.core c).seqr = none) → (∀ c, (s.core c).grp ≠ none → s.ctxOf c = f.owner) →
    (s.ctx f.owner).st = .ready ∨ (s.ctx f.owner).st = .configured ∨ (s.ctx f.owner).st = .lulled →
    ∃ t, exec (.integrityMismatch pa detail) s = .next t ∧ (t.ctx f.owner).st = .frozen ∧
      ∀ n, n < 65 → n ≠ f.owner → (t.ctx n).st = (s.ctx n).st)) ∧
  ∀ (s : State) (k : Fin 12), let d := stackDie k
    ((s.die d).reserve.toList.all (fun b => !b) = false → ∃ t, exec (.channelRetirement k) s = .next t ∧
      (t.die d).retired = (s.die d).retired + 1 ∧ (t.die d).hbmUnits = (s.die d).hbmUnits ∧
      ((t.die d).reserve.toList.filter id).length + 1 = ((s.die d).reserve.toList.filter id).length ∧
      t.boot.capGen = s.boot.capGen + 1) ∧
    ((s.die d).reserve.toList.all (fun b => !b) = true → (s.die d).lost = false → s.frames = [] → ∃ t, exec (.channelRetirement k) s = .next t ∧
      (t.die d).hbmUnits = (s.die d).hbmUnits - 4 ∧ ∀ n ∈ s.topFrames d, (t.frame n).st = .retired))

/-! ### Bring-up, power, errors -/

/-- R15, R17, R18, R409, R410, R412 to R420: power, clocks, limits, errors and spare cores. -/
def Obligations.PowerAndErrors : Prop :=
  (∀ s : State, (∃ t, exec .packageReset s = .next t ∧ s.lostPower t) ∧ (∃ t, exec .powerLoss s = .next t ∧ s.lostPower t) ∧
    (∃ t, exec (.thermalLimit .die115) s = .next t ∧ s.lostPower t ∧ t.boot.halted = true)) ∧
  (∀ (s : State) (t : BootTests), s.boot.booted = true → exec (.powerOn t) s = .next s) ∧
  (∀ (s : State) (b : BootTests), s.boot.booted = false → s.boot.firmware = none →
    ∃ t, exec (.powerOn b) s = .next t ∧ t.boot.halted = true ∧ t.boot.statusOk = false ∧ t.boot.booted = false) ∧
  (∀ (s : State) (slot : Bool) (run : Vector (Option FwImage) 6), s.boot.booted = false → s.boot.firmware = some (slot, run) →
    (∀ b : BootTests, b.seedFails = true →
      ∃ t, exec (.powerOn b) s = .next t ∧ t.boot.halted = true ∧ t.boot.statusOk = false ∧ t.boot.booted = false) ∧
    ∃ t, exec (.powerOn ⟨[], [], [], [], [], [], false⟩) s = .next t ∧ t.boot.booted = true ∧ t.boot.halted = false ∧ t.boot.running = run ∧
      t.boot.bootB = slot ∧ (∀ d, (t.die d).felt = !s.boot.feltOff.getLsbD d.toNat) ∧ (t.ctx 0).st = .ready ∧ (∀ n, 0 < n → (t.ctx n).st = .free) ∧ (∀ i, i < 20 → (t.link i).st = .up) ∧
      t.mem = [] ∧ t.groups = []) ∧
  (∀ (s : State) (cl : ClusterIx) (mhz : Nat), s.clockOk cl mhz →
    s.clocked cl mhz (exec (.frequencyChange cl mhz) s) ∧ s.clocked cl mhz (exec (.powerWindow 0 (cl.setWidth 8) mhz) s)) ∧
  (∀ (s : State) (kind index : BitVec 8) (mhz : Nat), kind ≠ 0 → exec (.powerWindow kind index mhz) s = .next s) ∧
  (∀ (s : State) (cl : ClusterIx), (∀ c, clusterOf c = cl → (s.core c).timed = false) →
    ∃ t, exec (.thermalLimit (.unit105 0 (cl.setWidth 8))) s = .next t ∧ (t.cluster cl).mhz = 650 ∧ (0, cl.toNat) ∈ t.boot.lowest) ∧
  (∀ (s : State) (u : ErrUnit) (d : BitVec 4), 1 ≤ d.toNat → d.toNat ≤ 5 →
    let count (s : State) : Nat := ((s.errCounts.find? (fun e => decide (e.1 = s.errUnit u ∧ e.2.1 = d.toNat))).map (fun e => e.2.2)).getD 0
    ∃ t, exec (.correctedError u d) s = .next t ∧ count t = (count s + 1) % 2 ^ 32 ∧ t.cores = s.cores) ∧
  (∀ (s : State) (c : CoreIx), (∃ t, exec (.uncorrectableError (.buffer c)) s = .next t ∧ s.groupEnded t c) ∧
    (∃ t, exec (.uncorrectableError (.hbm c)) s = .next t ∧ s.groupEnded t c) ∧
    (∃ t, exec (.uncorrectableError (.icache c)) s = .next t ∧ (t.core c) = { s.core c with icache := [] } ∧ t.groups = s.groups) ∧
    (s.inLull c = false → ∃ t, exec (.uncorrectableError (.core c)) s = .next t ∧ (t.core c).ctl.st = .failed) ∧
    ∀ g h, (s.core c).grp = some g → s.group g = some h → s.inLull c = true →
      ∃ t u, exec (.uncorrectableError (.core c)) s = .next t ∧ t.cores = s.cores ∧ t.group g = some u ∧ c ∈ u.lost ∧ u.st = h.st) ∧
  (∀ (s : State) (c : CoreIx) (g : Group), (s.core c).grp = some g.id → s.groups = [g] → c ∈ g.lost → c ∈ g.cores → g.st = .resident →
    exec (.coreSubstitution c) s = .next { s with groups := [{ g with lullReq := true }] }) ∧
  ∀ (s : State) (c : CoreIx), (s.core c).ctl.st = .failed → (s.core c).grp = none →
    let spare := ((s.die (dieOf c)).spares[spareOf c]?).getD false
    (spare = true → ∃ t, exec (.coreSubstitution c) s = .next t ∧ (t.core c).substituted = true ∧ (t.core c).ctl.st = .idle ∧
      ((t.die (dieOf c)).spares[spareOf c]?).getD false = false ∧ ∀ d, d ≠ c → t.core d = s.core d) ∧
    (spare = false → ∃ t, exec (.coreSubstitution c) s = .next t ∧ (t.cluster (clusterOf c)).retired = true)

/-! ### Links -/

/-- R380 to R385, R387, R393: flits and the states of links. -/
def Obligations.LinksAndFlits : Prop :=
  ∀ (s : State) (l : LinkId) (f : Flit) (room : Bool), (∀ p, l ≠ .eth p) →
    let r := s.linkOf l
    (r.st.carries = true →
      (f.crc ≠ flitCrc f → exec (.flitReceive l ⟨room, f⟩) s = .next (s.modLinkOf l (fun r =>
        { r with crcErrors := r.crcErrors + 1, naks := r.naks ++ [r.rxSeq + 1] }))) ∧
      (f.crc = flitCrc f → f.linkSeq ≠ r.rxSeq + 1 ∨ room = false → exec (.flitReceive l ⟨room, f⟩) s = .next (s.modLinkOf l (fun r =>
        { r with naks := r.naks ++ [r.rxSeq + 1] }))) ∧
      (f.crc = flitCrc f → f.linkSeq = r.rxSeq + 1 → room = true → ∃ t, exec (.flitReceive l ⟨room, f⟩) s = .next t ∧ (t.linkOf l).rxSeq = f.linkSeq ∧
        (f.dstPkg = s.pkg → f.cls.toNat ≤ 3 → s.flitHeld = [] →
          (f.routeSeq.toNat = s.accepted f + 1 → s.flitTagOk f = true → t.delivered = s.delivered ++ [f] ∧ t.accepted f = s.accepted f + 1) ∧
          (f.routeSeq.toNat ≤ s.accepted f → t.delivered = s.delivered ∧ t.flitHeld = []) ∧
          (s.accepted f + 1 < f.routeSeq.toNat → t.delivered = s.delivered ∧ t.flitHeld = [f]))) ∧
      (∀ (seq : BitVec 16) (a b : List Flit), r.retry = a ++ f :: b → f.linkSeq = seq → (∀ g ∈ a, g.linkSeq ≠ seq) → r.again = none →
        ∃ t, exec (.negativeAcknowledgement l seq) s = .next t ∧ (t.linkOf l).sent = r.sent ++ f :: b ∧ (t.linkOf l).st = r.st ∧
          (t.linkOf l).retries = r.retries + (f :: b).length) ∧
      (r.retry = [] → ∃ t g, exec (.idleFlit l) s = .next t ∧ (t.linkOf l).sent = r.sent ++ [g] ∧ g.payload = [] ∧ g.linkAck = r.rxSeq ∧
        (t.linkOf l).txSeq = r.txSeq) ∧
      (∃ t, exec (.linkFailure l) s = .next t ∧ (t.linkOf l).st = if s.alternative l then .detour else .down)) ∧
    ((∀ g ∈ r.before2, s.arrived g = true) → ∃ t, exec (.class2Resume l) s = .next t ∧ (t.linkOf l).held2 = false) ∧
    ((∃ g ∈ r.before2, s.arrived g = false) → exec (.class2Resume l) s = .next s) ∧
    (∀ (n : Fin 12), l = .pkg n → Config.packageRoute 12 f.dstPkg.toNat = some n.val → f.cls = 2 → r.held2 = true →
      s.passOn f = s.modLinkOf l (fun r => { r with waiting := r.waiting ++ [f] })) ∧
    (512 ≤ r.retry.length → r.sendFlit f = { r with waiting := r.waiting ++ [f] }) ∧
    (∀ (n : Fin 12) (lane : BitVec 3), l = .pkg n → r.st.carries = true → r.badLanes = [] → ∃ t, exec (.laneFailure l lane) s = .next t ∧
      (6 ≤ r.lanes → (t.linkOf l).st = .training ∧ (t.linkOf l).lanes = r.lanes - 2) ∧
      (r.lanes < 6 → (t.linkOf l).st = if s.alternative l then .detour else .down)) ∧
    (∀ good : Nat, r.st = .training → r.badLanes = [] →
      (fullLanes l ≤ good → ∃ t, exec (.trainingDone l good) s = .next t ∧ (t.linkOf l).st = .up ∧ (t.linkOf l).lanes = fullLanes l) ∧
      (good < 4 → r.attempts < 2 → ∃ t, exec (.trainingDone l good) s = .next t ∧ (t.linkOf l).st = .training ∧
        (t.linkOf l).attempts = r.attempts + 1) ∧
      (good < 4 → 2 ≤ r.attempts → ∃ t, exec (.trainingDone l good) s = .next t ∧
        (t.linkOf l).st = if s.alternative l then .detour else .down)) ∧
    (∀ p : EthPort, (s.linkOf (.eth p)).st = .up → ∃ t, exec (.ethernetPortFailure p) s = .next t ∧ (t.linkOf (.eth p)).st = .down ∧
      ∀ g ∈ t.flows, g.port ≠ p) ∧
    (∀ (d : BitVec 2) (g : Group) (c : CoreIx), s.groups = [g] → g.st = .resident → s.waitsFor g d = some c →
      ∃ t h, exec (.unreachableTimeout (.die d)) s = .next t ∧ t.group g.id = some h ∧ h.st = .ended) ∧
    ∀ p : BitVec 6, p ≠ s.pkg → s.tiles = [] →
      exec (.unreachableTimeout (.pkg p)) s = .next { s with unreachPkg := s.unreachPkg ||| (1#64 <<< p.toNat) }

/-! ### Tile records -/

/-- R297, R300 to R316: what a director does with a record, the macro sequencer, staging, completion and fault records. -/
def Obligations.TileRecordsAtTheirDirectors : Prop :=
  (∀ (s : State) (t : TileNode), s.tile t.id = some t → s.foreign t = false → t.st = .waiting → (∀ c, t.level ≠ .core c) →
    let here := s.tiles.filter (fun u => decide (u.level = t.level) && !s.foreign u)
    let full : Prop := t.level.limit ≤ (here.filter (fun u => u.live)).length
    let first : Prop := ∀ u ∈ here, u.st = .waiting → u.id < t.id → s.heldBack u = true
    (full ∨ s.heldBack t = true ∨ ¬ first → exec (.tileRecordAccept t.id) s = .next s) ∧
    (¬ full → s.heldBack t = false → first →
      (t.level = .span → (s.members t.ctx).length = 1 →
        exec (.tileRecordAccept t.id) s = .next (s.modTile t.id (fun u => { u with level := .package }))) ∧
      (¬ (t.level = .span ∧ (s.members t.ctx).length = 1) →
        (s.decodesAt t = true → exec (.tileRecordAccept t.id) s =
          .next (s.modTile t.id (fun u => { u with st := .accepted, blocks := s.ownBlocks t }))) ∧
        (s.decodesAt t = false → t.fault = none → ∀ p : TileNode, (t.isRoot = true → p = t) → (∀ n, t.src = .parent n → s.tile n = some p) →
          ∃ v, exec (.tileRecordAccept t.id) s = .next v ∧ v.tile t.id = some { t with
            st := .accepted
            fault := some (faultRecord 0x120 p.level p.level t.child (2 + 4 * (decide (t.retries ≠ 0)).toNat) p.bytes 0 0, none) })))) ∧
  (∀ (s : State) (c : CoreIx) (q : Seqr), (s.core c).seqr = some q →
    let g := (s.core c).grid
    let n := s.ctxOf c
    let lulled : Prop := ∃ h, (s.core c).grp.bind s.group = some h ∧ h.lullReq = true
    (q.ready = false → g.giq = [] → g.pkts = [] → exec (.macroSequencerRun c) s = .next (s.modCore c (fun k => { k with
      seqr := some { q with ready := true }
      grid := { k.grid with queues := k.grid.queues.map (fun u => { u with p := u.p + u.entries.length, entries := [] }) } }))) ∧
    (q.ready = false → g.giq ≠ [] ∨ g.pkts ≠ [] → exec (.macroSequencerRun c) s = .next s) ∧
    (q.ready = true → q.fault.isSome = true → exec (.macroSequencerRun c) s = .next s) ∧
    (q.ready = true → q.fault = none → q.parent = none → recSubtiles q.bytes ≤ q.sub.toNat →
      ∃ t, exec (.macroSequencerRun c) s = .next t ∧ (t.core c).seqr = none ∧ (∀ i j, i < 64 → j < 64 → (t.core c).grid.cell i j = 0) ∧
        (t.core c).grid.fdirty = BitVec.allOnes 64 ∧ (t.core c).grid.gdirty = BitVec.allOnes 64 ∧
        (t.core c).grid.flags = g.flags ||| q.flags ∧ (∀ r, ((t.core c).grid.queue r).entries = []) ∧ (t.core c).x = (s.core c).x ∧
        t.mem = s.mem ∧ (n < 65 → ∀ k, (t.ctx n).counter k = if k = byteAt q.bytes 52 then
          (s.ctx n).counter k + BitVec.ofNat 64 (fieldAt q.bytes 54 2) else (s.ctx n).counter k)) ∧
    (q.ready = true → q.fault = none → q.parent = none → q.phase = 0 → q.sub.toNat < recSubtiles q.bytes → recOp q.bytes = 1 →
      recACC q.bytes = false → ¬ lulled → (s.core c).timed = false →
      let p := nthSubtile q.bytes q.sub.toNat
      ∃ t, exec (.macroSequencerRun c) s = .next t ∧ (t.core c).seqr = some { q with phase := 1, kblk := 0 } ∧ t.mem = s.mem ∧
        ∀ i j, i < 64 → j < 64 → (t.core c).grid.cell i j = if i < p.2.2.1 ∧ j < p.2.2.2 then 0 else g.cell i j) ∧
    (∀ id : Nat, q.ready = true → q.fault = none → q.parent = some id → s.seqJob q = none →
      exec (.macroSequencerRun c) s = .next ((s.modCore c (fun k => { k with seqr := none })).modTile id (fun u => { u with st := .complete }))) ∧
    (∀ (j : SeqJob), q.ready = true → q.fault = none → s.seqJob q = some j →
      let at_ : Prop := q.atPoint = true ∨ s.seqWaits c q j = true
      ((s.core c).timed = true → s.windowsClosed c = false → exec (.macroSequencerRun c) s = .next s) ∧
      ((s.core c).timed = true → s.windowsClosed c = true → ∃ t, exec (.macroSequencerRun c) s = .next t ∧ (t.core c).timed = false ∧
        (t.core c).seqr = some { q with fwd := q.fwd + 1 }) ∧
      ((s.core c).timed = false →
        (s.seqCancelled q = true → at_ → exec (.macroSequencerRun c) s = .next (s.modCore c (fun k => { k with seqr := none }))) ∧
        (s.seqCancelled q = false → s.seqWaits c q j = true → exec (.macroSequencerRun c) s = .next s) ∧
        (¬ (s.seqCancelled q = true ∧ at_) → s.seqWaits c q j = false →
          (q.syncAt j = true → exec (.macroSequencerRun c) s = .next (s.modCore c (fun k => { k with seqr := some { q with sync := true } }))) ∧
          (∀ id : Nat, q.syncAt j = false → j.send = true → q.phase = 3 → q.parent = some id → exec (.macroSequencerRun c) s =
            .next ((s.modCore c (fun k => { k with seqr := none })).modTile id (fun u => { u with st := .complete }))) ∧
          (∀ v : State, q.syncAt j = false → ¬ (j.send = true ∧ q.phase = 3) →
            let w : TileWho := { ctx := n, core := c, env := s.env c }
            (∀ fl, s.seqStep w j q = (.ok fl, v) →
              (q.parent = none ∨ q.phase ≠ 3 → exec (.macroSequencerRun c) s = .next (v.modCore c (fun k =>
                { k with seqr := some { (q.next j) with flags := q.flags ||| fl } }))) ∧
              (∀ id : Nat, q.parent = some id → q.phase = 3 → exec (.macroSequencerRun c) s =
                .next ((v.modCore c (fun k => { k with seqr := none })).modTile id (fun u => { u with st := .complete })))) ∧
            (∀ a, q.parent = none → s.seqStep w j q = (.error (.bounds a), v) →
              ∃ t, exec (.macroSequencerRun c) s = .next t ∧ v.groupEnded t c)))))) ∧
  (∀ (s : State) (t : TileNode), s.tile t.id = some t → t.st = .accepted →
    (∀ (n q seq : Nat) (e : InFlight), t.fault = none → t.blocks = [] → t.level = .package → t.group = none → s.pieces t ≤ t.next →
      s.childrenOf t.id = [] → t.src = .entry n q seq → n < 65 → q < 64 → (s.queue n q).st = .active →
      (s.queue n q).entry seq 0 = some e →
      ∃ v, exec (.tileRecordComplete t.id) s = .next v ∧ v.tile t.id = none ∧ (v.queue n q).c = (s.queue n q).c + 1 ∧
        (v.queue n q).inflight = (s.queue n q).inflight.filter (fun e => decide (e.seq ≠ seq)) ∧
        ∀ k, (v.ctx n).counter k = if k = byteAt e.bytes 52 then (s.ctx n).counter k + BitVec.ofNat 64 (fieldAt e.bytes 54 2)
          else (s.ctx n).counter k) ∧
    (∀ (p : Nat) (cl : ClusterIx), t.fault = none → t.blocks = [] → t.level = .cluster cl → t.group = none → t.src = .parent p →
      (∀ u ∈ s.childrenOf t.id, u.st = .complete) →
      exec (.tileRecordComplete t.id) s = .next (s.modTile t.id (fun u => { u with st := .complete, group := none }))) ∧
    (t.blocks ≠ [] → s.foreign t = false → exec (.tileRecordComplete t.id) s = .next s) ∧
    (s.foreign t = true → t.fault = none → recOp t.bytes ≠ 8 → exec (.tileRecordComplete t.id) s =
      .next (s.modTile t.id (fun u => { u with st := .complete })))) ∧
  (∀ (s : State) (t : TileNode), s.tile t.id = some t →
    (t.st = .failed → t.isRoot = true → let u := s.failFamily t.id
      exec (.tileRecordComplete t.id) s = .next (if u.familyRuns t.id = true then u else u.dropTiles t.id)) ∧
    (∀ cl : ClusterIx, t.st = .faulted → t.level = .cluster cl → (∀ u ∈ s.redone t, u.id ≠ t.id ∧ s.tile u.id = some u) →
      let lost := t.lost.getD (0x161, 0)
      let again : Prop := (coreLost lost.1 = true ∨ (s.cluster cl).retired = true) ∧
        (if s.redone t = [] then t.retries < 2 else ∀ u ∈ s.redone t, u.retries < 2)
      (again → ∃ v, exec (.tileFaultRecord t.id) s = .next v ∧
        v.tile t.id = some { t with st := .accepted, lost := none, retries := t.retries + 1 } ∧
        ∀ u ∈ s.redone t, v.tile u.id = some { u with st := .waiting, staged := 0, copy := (0, 0), retries := u.retries + 1 }) ∧
      (¬ again → exec (.tileFaultRecord t.id) s = .next (s.modTile t.id (fun u => { u with
        st := .accepted, lost := none
        fault := some (faultRecord lost.1 (.core (coreIn cl (BitVec.ofNat 3 lost.2))) u.level lost.2
          (2 + 4 * (decide (u.retries ≠ 0)).toNat) (u.coreBytes cl lost.2) 0 0, none) })))) ∧
    (∀ (rec : List Byte) (f : Option PageFault), t.st ≠ .faulted → t.st ≠ .failed → t.fault = some (rec, f) → t.answer = none →
      (rec.drop 4).take 2 = t.level.path →
      (∀ (p : Nat) (r : TileNode), t.src = .parent p → s.tile p = some r → (∀ a, r.src ≠ .parent a) →
        ∃ v, exec (.tileFaultRecord t.id) s = .next v ∧ v.tile t.id = some { t with fault := some (setBytes rec 4 r.level.path, f) }) ∧
      (∀ (n q seq : Nat) (e : InFlight), t.src = .entry n q seq → f = none → s.childrenOf t.id = [] → n < 65 → q < 64 →
        (s.queue n q).st = .active → (s.queue n q).entry seq 0 = some e → e.faulted = false →
        ∃ v, exec (.tileFaultRecord t.id) s = .next v ∧ v.tile t.id = some { t with st := .failed, fault := none, answer := none } ∧
          (v.queue n q).st = .error ∧ (v.queue n q).errCode = 7 ∧ (v.queue n q).errSeq = seq ∧ (v.queue n q).c = (s.queue n q).c ∧
          ∀ k, (v.ctx n).counter k = (s.ctx n).counter k) ∧
      (∀ g : PageFault, (∀ p, t.src ≠ .parent p) → f = some g → s.childrenOf t.id = [] →
        ∃ v, exec (.tileFaultRecord t.id) s = .next v ∧ v.tile t.id = some { t with answer := some (s.faultCount + 1) } ∧
          v.faultCount = s.faultCount + 1))) ∧
  ∀ (s : State) (cl : ClusterIx),
    (s.clusterRecord cl = none → exec (.stagingCopyDone cl) s = .next s) ∧
    ∀ (t u : TileNode) (k : Nat) (ks : List Nat), s.clusterRecord cl = some t → s.childrenOf t.id = [u] → u.child < 8 → t.blocks = k :: ks →
      (s.stagingHeld cl = true ∨ s.wantsChunk u = false → exec (.stagingCopyDone cl) s = .next s) ∧
      (∀ img : StageImg, s.stagingHeld cl = false → s.wantsChunk u = true → (s.childImages t u)[u.copy.1]? = some img → recOp t.bytes ≠ 1 →
        let c := coreIn cl (BitVec.ofNat 3 u.child)
        let w : TileWho := { ctx := t.ctx, core := c, env := s.tileEnv t.ctx }
        let p := (s.outOf t).coreTile t.bytes k u.child
        let run := childRun t.bytes u.child p.2.2.1
        let q : StageJob :=
          { b := t.bytes, core := c, even := coreIn cl (BitVec.ofNat 3 (u.child / 2 * 2)), chunk := u.staged
            i := p.1, j := p.2.1, m := p.2.2.1, n := p.2.2.2, lo := run.1, hi := run.2, a := ⟨fpOne, 0, 0⟩, c := ⟨fpOne, 0, 0⟩ }
        let x := u.copy.2 / img.unit
        (∀ (y : Nat) (v : State), s.copyUnits w q img x (q.units img - x) = ((none, y), v) →
          (u.copy.1 + 1 ≠ (s.childImages t u).length → exec (.stagingCopyDone cl) s =
            .next (v.modTile u.id (fun u => { u with copy := (u.copy.1 + 1, 0) }))) ∧
          (u.copy.1 + 1 = (s.childImages t u).length →
            let r := v.modTile u.id (fun u => { u with staged := u.staged + 1, copy := (0, 0), st := .released })
            exec (.stagingCopyDone cl) s = .next (if u.staged = 0 then
              r.modCore c (fun q => { q with seqr := some { Seqr.start u.bytes (some u.id) with ready := true } }) else r))) ∧
        (∀ (g : PageFault) (y : Nat) (v : State), s.copyUnits w q img x (q.units img - x) = ((some (.page g), y), v) →
          exec (.stagingCopyDone cl) s = .next ((v.modTile u.id (fun u => { u with copy := (u.copy.1, y * img.unit) })).tileFaultAt u.id t.bytes u.child
            (.cluster cl) true (.page g) (BitVec.ofNat 64 (y * img.unit)))))

/-! ### Messages of hosts -/

/-- R65, R66, R388 to R392, R395 to R397, R456: what is dropped, held or answered, and what each message does when it is applied. -/
def Obligations.MessagesAreAppliedInOrder : Prop :=
  (∀ (i : Hdr → Instr) (m : InMsg) (s : State) (h : Hdr), carriesMsg i m →
    let up : Prop := (s.link (18 + (portIx h.port).val)).st = .up
    let fails : Prop := exec (i h) s = .next (s.modPort h.port (fun q => { q with errors := q.errors + 1 }))
    (¬ up → exec (i h) s = .next s) ∧
    (up → s.flow h.port h.flow = none → fails) ∧
    ∀ f, up → s.flow h.port h.flow = some f →
      let known : Prop := f.knows h
      (¬ known → fails) ∧
      (known → h.tag ≠ s.tagOf f.ctx → s.earlier f.ctx h.tag = false → fails) ∧
      (known → h.tag = s.tagOf f.ctx → s.goodForm f h m = false → fails) ∧
      (known → h.tag = s.tagOf f.ctx → s.goodForm f h m = true →
        let u := s.takeAck h.port h.flow h.ack h.sack
        (h.seq.toNat < f.rx ∨ (∃ x ∈ f.held, x.1 = h.seq.toNat) → exec (i h) s = .next (s.send h.port h.flow .ack)) ∧
        (f.rx + 64 ≤ h.seq.toNat → (∀ x ∈ f.held, x.1 ≠ h.seq.toNat) → exec (i h) s = .next s) ∧
        (f.rx < h.seq.toNat → h.seq.toNat < f.rx + 64 → (∀ x ∈ f.held, x.1 ≠ h.seq.toNat) → f.inq = [] →
          (262144 < s.shareUsed h.port f.ctx + m.payload → exec (i h) s = .next s) ∧
          (s.shareUsed h.port f.ctx + m.payload ≤ 262144 → exec (i h) s = .next ((u.modFlow h.port h.flow (fun g =>
            if h.seq.toNat = g.rx then Flow.pull g.held.length { g with rx := g.rx + 1, inq := g.inq ++ [(h, m)], pendAck := g.pendAck + 1 }
            else { g with held := g.held ++ [(h.seq.toNat, h, m)], pendAck := g.pendAck + 1 })).afterMessage h))))) ∧
  (∀ (q : BitVec 16) (es : List (List Byte)), MsgForm (fun h => .append h q es) (.append q es) (fun u h _ v =>
    (∀ e, u.appendRefused (tagCtx h.tag) q.toNat es.length = some e → v = u.send h.port h.flow (.appendDone (BitVec.ofNat 8 e) 0)) ∧
    (u.appendRefused (tagCtx h.tag) q.toNat es.length = none → v = (u.appendEntries (tagCtx h.tag) q.toNat es).send h.port h.flow
      (.appendDone 0 (BitVec.ofNat 48 (u.queue (tagCtx h.tag) q.toNat).a))))) ∧
  (∀ (s : State) (n q : Nat) (e : List Byte), s.memWf → s.noWalks → e.length = 64 → s.appendRefused n q 1 = none →
    let u := s.mapRing n q
    let r := u.queue n q
    let t := s.appendEntries n q [e]
    let entry := e.take 56 ++ leBytes 2 (s.tagOf n).toNat ++ leBytes 6 (r.a % 2 ^ 48)
    (t.queue n q).a = r.a + 1 ∧ (t.queue n q).d = r.d ∧ t.cores = s.cores ∧
      (∀ pa, u.slotAt n q r.a = some pa → u.sealed (pa / 65536) = false → t.mem.bytes pa 64 = entry ∧
        ∀ a, a < pa ∨ pa + 64 ≤ a → t.mem.read a = s.mem.read a) ∧
      (u.slotAt n q r.a = none → (t.queue n q).kept.lookup r.a = some entry ∧ t.mem = s.mem)) ∧
  (∀ (va : Word) (len id : BitVec 32), MsgForm (fun h => .read h va len id) (.read va len id) (fun u h n v =>
    u.onePiece n va len.toNat ∧
      ((∃ pa w, u.translate n (portDie h.port) none va .read len.toNat = (.ok pa, w) ∧ w.noWalks ∧
          len.toNat ≤ (w.port h.port).dataLimit ∧
          v = w.send h.port h.flow (.readData id 0 0 (w.mem.bytes pa len.toNat))) ∨
        ∃ f w, u.translate n (portDie h.port) none va .read len.toNat = (.error f, w) ∧
          v = w.send h.port h.flow (.readData id 1 0 [])))) ∧
  (∀ (va : Word) (id : BitVec 32) (d : List Byte), MsgForm (fun h => .write h va id d) (.write va id d) (fun u h n v =>
    ((u.ctx n).exported = true ∧ v = u.send h.port h.flow (.writeDone id 3 0)) ∨
      ((u.ctx n).exported = false ∧ u.onePiece n va d.length ∧
        ((∃ pa w, u.translate n (portDie h.port) none va .write d.length = (.ok pa, w) ∧
            v = (w.putMem pa d).send h.port h.flow (.writeDone id 0 0)) ∨
          ∃ f w, u.translate n (portDie h.port) none va .write d.length = (.error f, w) ∧
            v = w.send h.port h.flow (.writeDone id 1 0))))) ∧
  (∀ (va : Word) (k : BitVec 16) (w : Bool), MsgForm (fun h => .xlate h va k w) (.xlate va k w) (fun u h n v =>
    v = ((if w = true ∧ (u.ctx n).watches.length < 64 then
        u.modCtx n (fun c => { c with watches := c.watches ++ [(va, k.toNat, h.port, h.flow)] }) else u).send h.port h.flow
      (.xlateResp va ((List.range k.toNat).map (fun j => u.xlateByte n h.port (va + BitVec.ofNat 64 (65536 * j)))))))) ∧
  (∀ (id : BitVec 32) (st : BitVec 8) (o : BitVec 24) (d : List Byte),
    MsgForm (fun h => .readData h id st o d) (.readData id st o d) (fun u h _ v =>
      v = { u with hostReqs := u.hostReqs.map (fun r =>
        if r.id = id ∧ r.port = h.port ∧ r.flow = h.flow ∧ r.write = false ∧ r.got = none then
          (if st = 0 then { r with got := some d } else { r with failed := true }) else r) })) ∧
  (∀ (id : BitVec 32) (st : BitVec 8), MsgForm (fun h => .writeDone h id st) (.writeDone id st) (fun u _ _ v => v = u)) ∧
  (∀ (s : State) (h : CmdHdr) (f : Flow) (code : BitVec 8), s.arrives h.hdr (.cmd h (.unknown code)) f → h.hdr.tag = s.tagOf f.ctx →
    let u := s.taken h.hdr f (.cmd h (.unknown code))
    u.busy h.ctx = false → (u.ctx h.ctx).cmdQ = [] →
    exec (.cmd h code) s = .next ((u.reply h code.toNat 6).afterMessage h.hdr)) ∧
  (∀ (s : State) (h : Hdr) (f : Flow), h.tag ≠ s.tagOf f.ctx → s.earlier f.ctx h.tag = true →
    let gives (i : Instr) (m : InMsg) (g : State → State) : Prop := s.inTurn h m f → exec i s = .next ((g (s.taken h f m)).afterMessage h)
    (∀ q es, gives (.append h q es) (.append q es) (fun u => u.send h.port h.flow (.appendDone 1 0))) ∧
    (∀ va l id, gives (.read h va l id) (.read va l id) (fun u => u.send h.port h.flow (.readData id 3 0 []))) ∧
    (∀ va id d, gives (.write h va id d) (.write va id d) (fun u => u.send h.port h.flow (.writeDone id 3 0))) ∧
    (∀ va n w, gives (.xlate h va n w) (.xlate va n w) (fun u => u)) ∧
    gives (.malformedMessage h) (.malformed h.cipher.length) (fun u => if h.type = 1 then u.send h.port h.flow (.appendDone 1 0) else u)) ∧
  ∀ (s : State) (h : Hdr) (f : Flow), (s.link (18 + (portIx h.port).val)).st = .up → s.flow h.port h.flow = some f → f.knows h →
    hdrHolds h f 0 0 [] = true → h.tag = s.tagOf f.ctx → h.ack.toNat < f.tx →
    ∃ t, exec (.ack h) s = .next t ∧
      t.flow h.port h.flow = some { f with
        unacked := f.unacked.filter (fun o => decide (h.ack.toNat < o.seq))
        sacked := ((List.range 64).filter (fun b => h.sack.getLsbD b)).map (fun b => (h.ack.toNat + 2 + b) % 2 ^ 32)
        retries := if ∀ o ∈ f.unacked, h.ack.toNat < o.seq then f.retries else 0 } ∧
      t.mem = s.mem ∧ t.cores = s.cores ∧ t.out = s.out ∧
      ∀ (j : Nat) (r : HostReq), s.hostReqs[j]? = some r → ∃ q, t.hostReqs[j]? = some q ∧
        q = if r.port = h.port ∧ r.flow = h.flow ∧ r.write = true ∧
          f.unacked.any (fun o => decide (o.seq ≤ h.ack.toNat) && (match o.msg with
            | .writeReq _ i _ => decide (i = r.id)
            | _ => false)) = true then { r with done := true } else r

/-- R48 to R51, R59, R391 to R394, R400: acknowledgements in time, retransmissions and the loss of a flow, events tried again, a
malformed datagram, and the windows of the budgets. -/
def Obligations.FlowTimersAndBudgets : Prop :=
  (∀ (s : State) (p : EthPort) (n : BitVec 10),
    (s.flow p n = none → exec (.ackTimer p n) s = .next s ∧ exec (.thtRetransmit p n) s = .next s) ∧
    ∀ f, s.flow p n = some f →
      (f.pendAck = 0 → exec (.ackTimer p n) s = .next s) ∧
      (0 < f.pendAck → ∃ t, exec (.ackTimer p n) s = .next t ∧ t.flow p n = some { f with acks := f.acks + 1, pendAck := 0 } ∧
        t.out = s.out ++ [{ port := p, flow := n, seq := f.acks + 1, tag := s.tagOf f.ctx, ack := f.ackField
                            sack := sackBits f.rx (f.held.map Prod.fst), msg := .ack }] ∧ t.waitOut = s.waitOut) ∧
      ((∀ o ∈ f.unacked, o.seq ∈ f.sacked) → exec (.thtRetransmit p n) s = .next s) ∧
      ((∃ o ∈ f.unacked, o.seq ∉ f.sacked) →
        (f.retries < 12 → ∃ t, exec (.thtRetransmit p n) s = .next t ∧
          t.flow p n = some { f with retries := f.retries + 1, pendAck := 0 } ∧
          t.out = s.out ++ (f.unacked.filter (fun o => !f.sacked.contains o.seq)).map (fun o =>
            { o with tag := s.tagOf f.ctx, ack := f.ackField, sack := sackBits f.rx (f.held.map Prod.fst) })) ∧
        (12 ≤ f.retries → ∃ t, exec (.thtRetransmit p n) s = .next t ∧ (∀ g ∈ t.flows, g.port = p → g.no ≠ n) ∧
          (∀ r ∈ t.hostReqs, r.port = p → r.flow = n → r.done = false → r.failed = true) ∧ ∀ o ∈ t.waitOut, o.port = p → o.flow ≠ n))) ∧
  (∀ (s : State) (n : CtxNo), n.toNat < 65 →
    (s.eventFlow n.toNat = none → exec (.eventRetry n) s = .next s) ∧
    (∀ (f : Flow) (e : Event), s.eventFlow n.toNat = some f → (s.ctx n.toNat).events = [e] → exec (.eventRetry n) s =
      .next ((s.modCtx n.toNat (fun c => { c with events := [] })).send f.port f.no (.event e.bytes)))) ∧
  (∀ (s : State) (h : Hdr), (s.link (18 + (portIx h.port).val)).st = .up →
    (∀ f, s.flow h.port h.flow = some f → f.knows h → h.tag = s.tagOf f.ctx ∨ s.earlier f.ctx h.tag = false) →
    exec (.malformedMessage h) s = .next (s.modPort h.port (fun q => { q with errors := q.errors + 1 }))) ∧
  ∀ (s : State) (p : EthPort), (∀ f ∈ s.flows, f.inq = []) →
    (s.waitOut = [] → ∃ t, exec (.budgetWindow p) s = .next t ∧ (t.port p).used = [] ∧ t.errSent = [] ∧ t.out = s.out ∧ t.waitOut = [] ∧
      ((s.port p).capNext = [] → (t.port p).cap = (s.port p).cap ∧ (t.port p).capNext = []) ∧
      (∀ c : Nat, (s.port p).capNext = [(1, c)] → (t.port p).cap = c ∧ (t.port p).capNext = []) ∧
      (∀ c : Nat, (s.port p).capNext = [(2, c)] → (t.port p).cap = (s.port p).cap ∧ (t.port p).capNext = [(1, c)]) ∧
      (∀ (n i : Nat), n ∈ s.boundCtxs → let v := ((s.ctx n).desc.budgetOn p).getD i 0
        (t.inForce p n).getD i 0 = if i % 2 = 1 ∨ s.minimaSum p ≤ (t.port p).cap then v
          else v * (t.port p).cap / (64 * s.minimaSum p) * 64) ∧ ∀ q, q ≠ p → t.port q = s.port q) ∧
    ∀ (m : Msg) (f : Flow) (k : Nat), s.waitOut = [{ port := p, flow := f.no, msg := m, rest := [] }] → f.tx < 0xFFFFFFFF → s.flow p f.no = some f → m.cls = some k →
      f.ctx ≠ 0 → f.ctx < 65 → k < 3 →
      (0 < ((s.ctx f.ctx).desc.budgetOn p).getD (2 * k + 1) 0 → ∃ t, exec (.budgetWindow p) s = .next t ∧ t.waitOut = [] ∧
        t.out = s.out ++ [{ port := p, flow := f.no, seq := f.tx, tag := s.tagOf f.ctx, ack := f.ackField
                            sack := sackBits f.rx (f.held.map Prod.fst), msg := m }] ∧ t.usedBytes p f.ctx k = m.payload) ∧
      (((s.ctx f.ctx).desc.budgetOn p).getD (2 * k + 1) 0 = 0 → ∃ t, exec (.budgetWindow p) s = .next t ∧ t.out = s.out ∧ t.waitOut = s.waitOut)

/-! ### Commands -/

/-- R33 to R39, R41, R47, R52 to R58, R98, R453 to R457: the context commands, the migration commands of a context, the end of a reset,
and the partition table. -/
def Obligations.ContextCommands : Prop :=
  CmdForm .ctxCreate .ctxCreate 0x01 bySys (inState (fun c => c.st = .free)) tenantNamed always (fun u h =>
    let c := u.ctx h.ctx
    (({ u with keyCount := u.keyCount + 1 } : State).setCtx h.ctx { Ctx.free with
      gen := (if c.gen = 511 then 1 else c.gen + 1), gens := c.gens + 1, st := .configured, key := u.keyCount + 1, cmdQ := c.cmdQ }).reply
        h 0x01 0) ∧
  (∀ image : List Byte, let d := descOf image
    CmdForm (fun h => .ctxWrite h image) (.ctxWrite image) 0x02 bySys
      (inState (fun c => (c.st = .configured ∨ c.st = .ready ∨ c.st = .lulled ∨ c.st = .frozen ∨ c.st = .migrating) ∧
        (c.st ≠ .configured → d.part = c.desc.part ∧ d.sroot = c.desc.sroot ∧ d.qmax = c.desc.qmax)))
      (fun u h => let c := u.ctx h.ctx
        tenantNamed u h ∧ imageFieldsOk image = true ∧ c.desc.svfloor.toNat ≤ d.svfloor.toNat ∧ u.budgetsOk h.ctx d = true ∧
          (d.flags.getLsbD 0 = false → c.desc.flags.getLsbD 0 = true → u.windowsOf h.ctx = []) ∧
          (d.flags.getLsbD 1 = false → c.desc.flags.getLsbD 1 = true → c.st ≠ .migrating ∧ (c.st = .lulled → c.tracking = false)))
      always (fun u h =>
        let n := h.ctx
        let v := u.modCtx n (fun c => { c with
          desc := d
          queues := c.queues.map (fun r => if d.pmax.toNat < r.prio.toNat then { r with prio := d.pmax.extractLsb' 0 3 } else r) })
        let keep (p : EthPort) (q : Port) : Port :=
          if (q.minima.lookup n).isNone then { q with minima := (n, u.inForce p n) :: q.minima } else q
        let w := (v.modPort .a (keep .a)).modPort .b (keep .b)
        (if (u.ctx n).bound then w.rebudgets else w).reply
          h 0x02 0)) ∧
  CmdForm .ctxRead .ctxRead 0x03 byOwn (inState (fun c => c.st ≠ .free)) tenantNamed always (fun u h =>
    u.reply h 0x03 0 0 ((u.ctx h.ctx).desc.image (u.tagOf h.ctx))) ∧
  CmdForm .ctxBind .ctxBind 0x04 bySys (inState (fun c => c.st = .configured))
    (fun u h => tenantNamed u h ∧ (∃ p, u.parts[(u.ctx h.ctx).desc.part.toNat]? = some (some p)) ∧ (u.ctx h.ctx).desc.sroot ≠ 0) always
    (fun u h => ((u.modCtx h.ctx (fun c => { c with st := .ready, bound := true })).activate h.ctx).rebudgets.reply h 0x04 0) ∧
  CmdForm .ctxLull .ctxLull 0x05 bySys (inState Ctx.works) tenantNamed always (fun u h =>
    let n := h.ctx
    let v := u.modCtx n (fun c => { c with
      st := .lulled, lulledMig := decide (c.st = .migrating), cmd := some (.lull h), queues := c.queues.map QRec.hold })
    let w : State := { v with groups := v.groups.map (fun g =>
      if g.ctx = n ∧ (g.st = .resident ∨ g.st = .restoring) then { g with lullReq := true } else g) }
    if w.placedGroups n = [] then (w.modCtx n (fun c => { c with cmd := none })).reply h 0x05 0 else w) ∧
  CmdForm .ctxThaw .ctxThaw 0x06 bySys
    (inState (fun c => (c.st = .lulled ∧ c.exported = false) ∨ (c.st = .importing ∧ c.importComplete = true))) tenantNamed always
    (fun u h =>
      let n := h.ctx
      let c := u.ctx n
      if c.st = .lulled then
        ((u.thaw n (if c.lulledMig then .migrating else .ready)).modCtx n (fun c => { c with lulledMig := false })).reply h 0x06 0
      else if u.rangesMapped n = false then u.reply h 0x06 2 0x09
      else (((((List.range 64).foldl (fun s i => s.sealKernel n i) u).activate n).thaw n .ready).openRings n |>.event n 0x06 []).reply
        h 0x06 0) ∧
  CmdForm .ctxReset .ctxReset 0x07 byOwn (inState (fun c => c.st ≠ .free)) tenantNamed always (fun u h =>
    match (u.ctx h.ctx).cmd with
    | some (.reset hs k) => u.modCtx h.ctx (fun c => { c with cmd := some (.reset (hs ++ [h]) k) })
    | _ => u.resetStop h.ctx (.reset [h] 1)) ∧
  CmdForm .ctxDestroy .ctxDestroy 0x08 bySys (inState (fun c => c.st ≠ .free ∧ c.st ≠ .resetting)) tenantNamed always
    (fun u h => u.resetStop h.ctx (.destroy h false)) ∧
  CmdForm .ctxMigrate .ctxMigrate 0x09 bySys (inState (fun c => c.st = .ready))
    (fun u h => tenantNamed u h ∧ (u.ctx h.ctx).desc.flags.getLsbD 1 = true ∧ u.windowsOf h.ctx = []) always (fun u h =>
      let v := u.modCtx h.ctx (fun c => { c with st := .migrating, tracking := true })
      ({ v with frames := v.frames.map (fun f =>
        if f.owner = h.ctx ∧ f.st = .bound then { f with st := .tracked, dirty := false } else f) } : State).reply h 0x09 0) ∧
  CmdForm .ctxMigrateAbort .ctxMigrateAbort 0x0A bySys
    (inState (fun c => c.st = .migrating ∨ (c.st = .lulled ∧ c.lulledMig = true ∧ c.exported = false))) tenantNamed always (fun u h =>
      let st := (u.ctx h.ctx).st
      (({ u with frames := u.frames.map (fun f => if f.st = .tracked ∧ f.owner = h.ctx then { f with st := .bound } else f) } :
        State).modCtx h.ctx (fun c => { c with
          st := if st = .migrating then .ready else .lulled, tracking := false, lulledMig := false })).reply h 0x0A 0) ∧
  (∀ (first : BitVec 64) (count : BitVec 32), CmdForm (fun h => .ctxDirty h first count) (.ctxDirty first count) 0x0B bySys
    (inState (fun c => c.st = .migrating ∨ (c.st = .lulled ∧ c.tracking = true)))
    (fun u h => tenantNamed u h ∧ 1 ≤ count.toNat ∧ count.toNat ≤ 65536 ∧ first.toNat + count.toNat ≤ 4 * 2596864) always (fun u h =>
      let fs := (List.range count.toNat).map (fun i => frameOfIndex (first.toNat + i))
      ({ u with frames := u.frames.map (fun f =>
        if f.st = .tracked ∧ f.owner = h.ctx ∧ f.no ∈ fs then { f with dirty := false } else f) } : State).reply h 0x0B 0 0
        (bitBytes (fs.map (fun n => let f := u.frame n; decide (f.st = .tracked ∧ f.owner = h.ctx) && f.dirty))))) ∧
  (∀ k : BitVec 8, CmdForm (fun h => .ctxExport h k) (.ctxExport k) 0x0C bySys
    (inState (fun c => c.st = .lulled ∧ c.lulledMig = true ∧ c.exported = false ∧ c.cmd = none))
    (fun u h => tenantNamed u h ∧ ∃ m, u.mkey k = some m ∧
      u.ctx0Range m.buf.toNat (48 + (Config.imageBody ((u.settleSlots h.ctx).imageFor h.ctx)).length) = true)
    (fun u h => ∀ m, u.mkey k = some m → 48 + (Config.imageBody ((u.settleSlots h.ctx).imageFor h.ctx)).length ≤ m.len.toNat ∧ m.seq + 1 < 2 ^ 32)
    (fun u h =>
      match u.mkey k with
      | none => u
      | some m =>
        let body := Config.imageBody ((u.settleSlots h.ctx).imageFor h.ctx)
        (((((u.settleSlots h.ctx).putMem m.buf.toNat (sealBlob m.key (blobHeader (2 ^ 64 - 1) (m.seq + 1) false true (u.tagOf h.ctx) body.length)
          body)).modMkey k (fun m => { m with seq := m.seq + 1 })).modCtx h.ctx (fun c => { c with exported := true })).reply h 0x0C 0))) ∧
  (∀ k : BitVec 8, CmdForm (fun h => .ctxImport h k) (.ctxImport k) 0x0D bySys (inState (fun c => c.st = .free))
    (fun u h => tenantNamed u h ∧ ∃ m x, u.mkey k = some m ∧ u.readXImage m = some x) always (fun u h =>
      match u.mkey k with
      | none => u
      | some m =>
        match u.readXImage m with
        | none => u
        | some x =>
          let v := u.settleBlob m.buf.toNat
          if v.imageFits m x.2 = false then v.reply h 0x0D 2 0x08
          else (v.loadImage h.ctx m x.1 x.2).rebudgets.reply h 0x0D 0)) ∧
  CmdForm .ctxRelease .ctxRelease 0x0E bySys (inState (fun c => c.st = .lulled ∧ c.exported = true)) tenantNamed always
    (fun u h => u.resetStop h.ctx (.destroy h true)) ∧
  (∀ (k : BitVec 8) (key : BitVec 256) (buf len : Word) (part : BitVec 8) (sroot : Word),
    CmdForm (fun h => .mkeySet h k key buf len part sroot) (.mkeySet k key buf len part sroot) 0x0F bySys always
      (fun u _ => k.toNat ≤ 7 ∧ buf.toNat % 65536 = 0 ∧ 1048576 ≤ len.toNat ∧ len.toNat < 2 ^ 38 ∧ part.toNat ≤ 63 ∧ srootOk sroot = true ∧
        buf.toNat < 2 ^ 48 ∧ u.ctx0Range buf.toNat len.toNat = true) always
      (fun u h => ({ u with mkeys := u.mkeys.set! k.toNat (some
        { key := key, buf := buf, len := len, part := part, sroot := sroot, seq := 0 }) } : State).reply h 0x0F 0)) ∧
  (∀ (s : State) (n : CtxNo) (hs : List CmdHdr) (k : Nat), 1 ≤ n.toNat → n.toNat < 65 → (s.ctx n.toNat).cmd = some (.reset hs k) →
    ∃ t, exec (.resetDrainDone n) s = .next t ∧
      let c := s.ctx n.toNat
      let d := t.ctx n.toNat
      d.gen = (if c.gen = 511 then 1 else c.gen + 1) ∧ d.gens = c.gens + 1 ∧ d.st = (if c.bound then .ready else .configured) ∧
        d.cmd = none ∧ d.fc = Vector.replicate 256 0 ∧ d.kernels = Vector.replicate 64 KRec.absent ∧ d.desc = c.desc ∧
        d.key = s.keyCount + 1 ∧ ∀ q, q < 64 → (s.queue n.toNat q).st ≠ .closed → (t.queue n.toNat q).d = 0 ∧
          (t.queue n.toNat q).c = 0 ∧ (t.queue n.toNat q).inflight = []) ∧
  (∀ (s : State) (n : CtxNo) (h : CmdHdr) (r : Bool), 1 ≤ n.toNat → n.toNat < 65 → (s.ctx n.toNat).cmd = some (.destroy h r) →
    ∃ t, exec (.resetDrainDone n) s = .next t ∧ (t.ctx n.toNat).st = .free ∧ (t.ctx n.toNat).bound = false ∧
      (t.ctx n.toNat).desc = Desc.zero ∧ (∀ f ∈ t.flows, f.ctx ≠ n.toNat) ∧
      (t.ctx n.toNat).gen = (if (s.ctx n.toNat).gen = 511 then 1 else (s.ctx n.toNat).gen + 1)) ∧
  (∀ (s : State) (n : CtxNo), (s.ctx n.toNat).cmd = none → exec (.resetDrainDone n) s = .next s) ∧
  ∀ (s : State) (part : BitVec 6) (mask : BitVec 512) (ws : List Nat) (xb : List (CoreIx × CoreIx)),
    let bad : Prop := (∃ (i : Nat) (p : Partition), i < 64 ∧ i ≠ part.toNat ∧ s.parts[i]? = some (some p) ∧ p.conf &&& mask ≠ 0) ∨
      (∃ e ∈ xb, mask.getLsbD e.1.toNat = false ∨ mask.getLsbD e.2.toNat = false) ∨ ∃ w ∈ ws, w = 0 ∨ 15 < w
    (bad → exec (.partitionTableWrite part mask ws xb) s = .next { s with partStatus := 2 }) ∧
    (¬ bad → ∃ t p, exec (.partitionTableWrite part mask ws xb) s = .next t ∧ t.parts[part.toNat]? = some (some p) ∧ p.mask = mask ∧
      p.conf = mask ∧ p.weights = ws ∧ p.xbar = xb ∧ (∀ i, i ≠ part.toNat → t.parts[i]? = s.parts[i]?) ∧ t.partStatus = 0 ∧
      t.cores = s.cores ∧ t.ctxs = s.ctxs ∧ t.mem = s.mem)

/-- R44 to R47, R61 to R71, R81 to R87: the queue, kernel and window commands, and the end of a load. -/
def Obligations.QueueKernelAndWindowCommands : Prop :=
  let works (u : State) (h : CmdHdr) : Prop := (u.ctx h.ctx).works
  (∀ (queue : BitVec 16) (kind : BitVec 8) (ring : Word) (k prio home : BitVec 8), let q := queue.toNat
    let shape (u : State) (h : CmdHdr) : Prop := q < (u.ctx h.ctx).desc.qmax.toNat ∧ kind.toNat ≤ 1 ∧ 6 ≤ k.toNat ∧ k.toNat ≤ 16 ∧
      ring.toNat % 2 ^ (k.toNat + 6) = 0 ∧ prio.toNat ≤ (u.ctx h.ctx).desc.pmax.toNat ∧ home.toNat ≤ 3 ∧
      ¬ (kind = 1 ∧ ∃ r ∈ (u.ctx h.ctx).queues.toList, r.event = true ∧ r.st ≠ .closed)
    CmdForm (fun h => .queueOpen h queue kind ring k prio home) (.queueOpen queue kind ring k prio home) 0x20 byOwn
      (fun u h => works u h ∧ (u.queue h.ctx q).st = .closed)
      (fun u h => shape u h ∧ ∀ p ∈ u.mapPages h.ctx ring (2 ^ (k.toNat + 6)) .atomic, ∃ a, p = some a ∧ u.frameCheck h.ctx a = none) always (fun u h =>
        (u.modQueue h.ctx q (fun _ => { QRec.closed with
          st := .empty, event := decide (kind = 1), prio := prio.extractLsb' 0 3, ring := ring, s := k.toNat, home := home.extractLsb' 0 2
          ringPa := u.mapPages h.ctx ring (2 ^ (k.toNat + 6)) .atomic })).reply h 0x20 0)) ∧
  (∀ (queue : BitVec 16), let q := queue.toNat
    CmdForm (fun h => .queueClose h queue) (.queueClose queue) 0x21 byOwn (fun u h => works u h ∧ (u.queue h.ctx q).st ≠ .closed) always
      always (fun u h =>
        let v := u.modQueue h.ctx q (fun r => { r with st := .draining, a := r.d, head := none, headOk := false })
        let w := ((u.queue h.ctx q).inflight.filter (fun e => e.faulted)).foldl (fun s e => s.entryDone h.ctx q e false) v
        let r := w.queue h.ctx q
        (if r.st = .draining ∧ (r.event = true ∨ r.c = r.d) then w.closeQueue h.ctx q else w).reply h 0x21 0)) ∧
  (∀ (s : State) (n q : Nat), n < 65 → q < 64 → let t := s.closeQueue n q
    t.queue n q = QRec.closed ∧ ∀ i, i < 64 → i ≠ q → (t.queue n i).join = (s.queue n i).join.filter (fun p => decide (p.1 ≠ q)) ∧
      (t.queue n i).st = (s.queue n i).st ∧ (t.queue n i).c = (s.queue n i).c ∧ (t.queue n i).inflight = (s.queue n i).inflight) ∧
  (∀ (queue : BitVec 16) (prio : BitVec 8), let q := queue.toNat
    CmdForm (fun h => .queueSetprio h queue prio) (.queueSetprio queue prio) 0x22 byOwn
      (fun u h => works u h ∧ (q < (u.ctx h.ctx).desc.qmax.toNat → (u.queue h.ctx q).st ≠ .closed))
      (fun u h => q < (u.ctx h.ctx).desc.qmax.toNat ∧ prio.toNat ≤ (u.ctx h.ctx).desc.pmax.toNat) always
      (fun u h => (u.modQueue h.ctx q (fun r => { r with prio := prio.extractLsb' 0 3 })).reply h 0x22 0)) ∧
  (∀ (queue : BitVec 16) (mode : BitVec 8), let q := queue.toNat
    CmdForm (fun h => .queueResume h queue mode) (.queueResume queue mode) 0x23 byOwn
      (fun u h => works u h ∧ (u.queue h.ctx q).st = .error) (fun _ _ => mode.toNat ≤ 1) always
      (fun u h => (u.settleError h.ctx q (decide (mode = 1))).reply h 0x23 0)) ∧
  (∀ (s : State) (n q : Nat) (e : InFlight), n < 65 → q < 64 → (s.queue n q).st = .error → (s.queue n q).errHead = false →
    (s.queue n q).errCode = 7 → (s.queue n q).ringPa ≠ [] → (∀ p ∈ (s.queue n q).ringPa, p.isSome = true) → (s.queue n q).inflight = [e] → e.seq = (s.queue n q).errSeq →
    e.faulted = true →
    let t := s.settleError n q true
    (t.queue n q).c = (s.queue n q).c + 1 ∧ (t.queue n q).inflight = [] ∧ (t.queue n q).errCode = 0 ∧
      (t.queue n q).d = (s.queue n q).d ∧ ∀ k, (t.ctx n).counter k = (s.ctx n).counter k) ∧
  (∀ (s : State) (n q : Nat) (skip : Bool), n < 65 → q < 64 → (s.queue n q).st = .error → (∃ p ∈ ((s.mapRing n q).queue n q).ringPa, p = none) →
    let t := s.settleError n q skip
    (t.queue n q).st = .error ∧ (t.queue n q).errCode = 8 ∧ (t.queue n q).d = (s.queue n q).d ∧ (t.queue n q).c = (s.queue n q).c) ∧
  (∀ (queue : BitVec 16), CmdForm (fun h => .queueRead h queue) (.queueRead queue) 0x24 byOwn (fun u h => (u.ctx h.ctx).st ≠ .free)
    (fun _ _ => queue.toNat < 64) always (fun u h => u.reply h 0x24 0 0 (u.queue h.ctx queue.toNat).record)) ∧
  (∀ (queue : BitVec 16) (count : Word), let q := queue.toNat
    CmdForm (fun h => .queueConsume h queue count) (.queueConsume queue count) 0x25 byOwn
      (fun u h => works u h ∧ (u.queue h.ctx q).st ≠ .closed)
      (fun u h => let r := u.queue h.ctx q; r.event = true ∧ r.consumed ≤ count.toNat ∧ count.toNat ≤ r.a) always
      (fun u h => (u.modQueue h.ctx q (fun r => { r with consumed := count.toNat })).reply h 0x25 0)) ∧
  (∀ (first count : BitVec 16), CmdForm (fun h => .fcRead h first count) (.fcRead first count) 0x26 byOwn works
    (fun _ _ => 1 ≤ count.toNat ∧ first.toNat + count.toNat ≤ 256) always
    (fun u h => u.reply h 0x26 0 0 ((List.range count.toNat).flatMap (fun i =>
      leBytes 8 ((u.ctx h.ctx).counter (BitVec.ofNat 8 (first.toNat + i))).toNat)))) ∧
  (∀ (image : Word) (len : BitVec 32) (code range : Word),
    CmdForm (fun h => .kernelLoad h image len code range) (.kernelLoad image len code range) 0x30 byOwn works always always (fun u h =>
      let n := h.ctx
      match (List.range 64).find? (fun i => decide (((u.ctx n).kernel i).st = .absent)) with
      | some i => u.modKernel n i (fun _ => { KRec.absent with
          st := .loading, codeVa := code, range := range.toNat, cmd := some h, load := some (image, len, u.codekeys) })
      | none =>
        match u.readImage n image len.toNat with
        | (none, v) => v.reply h 0x30 2 0x0B
        | (some b, v) => v.reply h 0x30 2 ((v.loadCheck n u.codekeys b image len.toNat code range true).getD 0x0A))) ∧
  (∀ (s u : State) (n : CtxNo) (i : BitVec 6) (h : CmdHdr) (image : Word) (len : BitVec 32) (keys : Vector (Option CodeKey) 16),
    let k := (s.ctx n.toNat).kernel i.toNat
    k.st = .loading → k.cmd = some h → k.load = some (image, len, keys) →
    (s.readImage n.toNat image len.toNat = (none, u) → exec (.kernelLoadChecksDone n i) s =
      .next ((u.modKernel n.toNat i.toNat (fun _ => KRec.absent)).reply h 0x30 2 0x0B)) ∧
    ∀ b, s.readImage n.toNat image len.toNat = (some b, u) →
      let chk := u.loadCheck n.toNat keys b image len.toNat k.codeVa (BitVec.ofNat 64 k.range) false
      (∀ d, chk = some d → exec (.kernelLoadChecksDone n i) s =
        .next ((u.modKernel n.toNat i.toNat (fun _ => KRec.absent)).reply h 0x30 2 d)) ∧
      (chk = none → ∃ t, exec (.kernelLoadChecksDone n i) s = .next t ∧ (n.toNat < 65 →
        let r := (t.ctx n.toNat).kernel i.toNat
        r.st = .loaded ∧ r.handle = ((u.ctx n.toNat).loadCount + 1) ++ i ∧ r.header = b.take 96 ∧ r.codeVa = k.codeVa ∧ r.active = 0 ∧
          r.cmd = none ∧ (t.ctx n.toNat).loadCount = (u.ctx n.toNat).loadCount + 1))) ∧
  (∀ (s : State) (n : CtxNo) (i : BitVec 6), ((s.ctx n.toNat).kernel i.toNat).st ≠ .loading →
    exec (.kernelLoadChecksDone n i) s = .next s) ∧
  (∀ (handle : BitVec 32),
    CmdForm (fun h => .kernelUnload h handle) (.kernelUnload handle) 0x31 byOwn
      (fun u h => works u h ∧ ∀ p, (u.ctx h.ctx).byHandle handle = some p → p.2.st ≠ .unloading)
      (fun u h => ((u.ctx h.ctx).byHandle handle).isSome = true) always (fun u h =>
        match (u.ctx h.ctx).byHandle handle with
        | none => u
        | some p =>
          let v := u.passLaunches h.ctx handle
          (v.modKernel h.ctx p.1 (fun k =>
            if k.st = .active ∨ (k.st = .loaded ∧ v.headLaunch h.ctx handle = true) then { k with st := .unloading } else KRec.absent)).reply
              h 0x31 0) ∧
    CmdForm (fun h => .kernelQuery h handle) (.kernelQuery handle) 0x32 byOwn works
      (fun u h => ((u.ctx h.ctx).byHandle handle).isSome = true) always (fun u h =>
        match (u.ctx h.ctx).byHandle handle with
        | none => u
        | some p => u.reply h 0x32 0 0 (leBytes 1 p.2.st.code ++ leBytes 1 p.2.mode.code ++ leBytes 2 0 ++ leBytes 4 p.2.placed ++
            leBytes 4 p.2.hoisted ++ leBytes 4 p.2.padded ++ leBytes 8 (fieldAt p.2.header 8 8) ++ leBytes 4 p.2.active))) ∧
  (∀ (slot : BitVec 8) (key : BitVec 384) (mask : BitVec 64),
    CmdForm (fun h => .codekeySet h slot key mask) (.codekeySet slot key mask) 0x33 bySys always (fun _ _ => slot.toNat < 16) always
      (fun u h => ({ u with codekeys := u.codekeys.set! slot.toNat (some { key := key, mask := mask }) } : State).reply h 0x33 0)) ∧
  (∀ (base len : Word) (peer : Tag), let p := tagCtx peer
    let frames (u : State) (h : CmdHdr) : Option (List Nat) := u.ownFrames h.ctx base len.toNat
    CmdForm (fun h => .winGrant h base len peer) (.winGrant base len peer) 0x10 bySelf
      (fun u h => (u.ctx h.ctx).st = .ready ∧ (1 ≤ p → p ≤ 64 → (u.ctx p).st = .ready))
      (fun u h => (u.ctx h.ctx).desc.flags.getLsbD 0 = true ∧ (u.ctx h.ctx).desc.fmask.getLsbD 5 = false ∧ 1 ≤ p ∧ p ≤ 64 ∧ p ≠ h.ctx ∧
        u.tagCurrent peer = true ∧ base.toNat % 65536 = 0 ∧ len.toNat % 65536 = 0 ∧ 65536 ≤ len.toNat ∧ len.toNat ≤ 2 ^ 34 ∧
        base.toNat + len.toNat ≤ 2 ^ 52 ∧ (frames u h).isSome = true)
      (fun u h => (u.liveWindows.filter (fun w => decide (w.owner = h.ctx))).length < 8 ∧ u.liveWindows.length < 64)
      (fun u h =>
        let id : BitVec 32 := BitVec.ofNat 32 (u.winCount + 1)
        let v : State := { u with
          winCount := u.winCount + 1, keyCount := u.keyCount + 1
          windows := u.windows ++ [{ handle := id, owner := h.ctx, base := base, len := len, peer := peer, peerBase := none
                                     key := u.keyCount + 1, revoking := false }] }
        (((frames u h).getD []).foldl (fun s f => (s.recryptFrame f).modFrame f (fun r => { r with st := .window, win := some id })) v).reply
          h 0x10 0 0 (leBytes 4 id.toNat))) ∧
  (∀ (handle : BitVec 32) (base : Word),
    let win (u : State) : Option Window := u.liveWindows.find? (fun w => decide (w.handle = handle))
    CmdForm (fun h => .winAccept h handle base) (.winAccept handle base) 0x11 bySelf
      (fun u h => (u.ctx h.ctx).st = .ready ∧ ∀ w, win u = some w → w.peerBase = none)
      (fun u h => base.toNat % 65536 = 0 ∧ ∃ w, win u = some w ∧ w.peer = u.tagOf h.ctx ∧ base.toNat + w.len.toNat ≤ 2 ^ 52) always
      (fun u h =>
        let len := ((win u).map (fun w => w.len.toNat)).getD 0
        let meets (v : Window) : Bool := v.revoking && decide (tagCtx v.peer = h.ctx) &&
          (match v.peerBase with
           | some b => rangesMeet b.toNat v.len.toNat base.toNat len
           | none => true)
        ({ u with windows := (u.windows.filter (fun v => !meets v)).map (fun (v : Window) =>
          if v.handle = handle then { v with peerBase := some base } else v) } : State).reply h 0x11 0)) ∧
  ∀ (handle : BitVec 32),
    let win (u : State) : Option Window := u.liveWindows.find? (fun w => decide (w.handle = handle))
    CmdForm (fun h => .winRevoke h handle) (.winRevoke handle) 0x12
      (fun u h => bySelf u h ∧ ∀ w, win u = some w → w.owner = h.ctx ∨ w.peer = u.tagOf h.ctx)
      (fun u h => (u.ctx h.ctx).st = .ready ∨ (u.ctx h.ctx).st = .lulled ∨ (u.ctx h.ctx).st = .frozen)
      (fun u _ => (win u).isSome = true) always (fun u h =>
        match win u with
        | none => u
        | some w => (u.revokeWindow w (if w.owner = h.ctx then tagCtx w.peer else w.owner)).reply h 0x12 0)

/-- R359 to R364, R374 to R377, R388, R393, R396 to R399, R413 to R417, R419, R454 to R457: the page, flow, link, firmware and power
commands. -/
def Obligations.PageFlowAndFirmwareCommands : Prop :=
  (∀ (pa : Word) (count : BitVec 32) (tag : Tag), let fs := frameRange pa count.toNat
    let us := unitsOf fs
    CmdForm (fun h => .pageBind h pa count tag) (.pageBind pa count tag) 0x40 bySys
      (fun u _ => count.toNat ≤ 32768 → ∀ f ∈ fs, (u.frame f).st = .free ∨ ((u.frame f).st = .scrubbing ∧ (u.frame f).toBound = false))
      (fun u _ => frameRangeOk pa count.toNat = true ∧ tagCtx tag ≤ 64 ∧ u.tagCurrent tag = true ∧
        (tagCtx tag ≠ 0 → (u.ctx (tagCtx tag)).st ≠ .free) ∧ ∀ x ∈ us, u.unitOwnedBy x (tagCtx tag) = true ∨ u.unitReleased x = true)
      always (fun u h =>
        let claims := us.filter u.unitReleased
        let scrubs (f : Nat) : Bool := claims.contains (f / 32) || decide ((u.frame f).st = .scrubbing)
        let v := fs.foldl (fun s f => s.modFrame f (fun r =>
          { r with st := if scrubs f then .scrubbing else .bound, toBound := scrubs f, owner := tagCtx tag, dirty := false, win := none })) u
        let w := claims.foldl (fun s x => s.rekeyUnit x (.ctx tag)) v
        if claims = [] then w.reply h 0x40 0 else (w.walkCmd h 0x40 claims).startAllWalks)) ∧
  (∀ (pa : Word) (count : BitVec 32), let fs := namedFrames pa count
    let all (u : State) (st : FrameSt) : Prop := ∀ f ∈ fs, inRegion (f * frameBytes) = true ∧ (u.frame f).st = st
    CmdForm (fun h => .pageUnbind h pa count) (.pageUnbind pa count) 0x41 bySys (fun u _ => all u .bound) always always
      (fun u h => if fs = [] then u.reply h 0x41 0 else ((u.unbindFrames fs).walkCmd h 0x41 (unitsOf fs)).startAllWalks) ∧
    CmdForm (fun h => .pageRetire h pa count) (.pageRetire pa count) 0x42 bySys (fun u _ => all u .free) always always
      (fun u h => (fs.foldl (fun s f => s.modFrame f (fun r => { r with st := .retired })) u).reply h 0x42 0)) ∧
  (∀ pa : Word, CmdForm (fun h => .pageQuery h pa) (.pageQuery pa) 0x43 bySys always always always
    (fun u h => let f := u.frame (pa.toNat / frameBytes)
      u.reply h 0x43 0 0 (leBytes 1 f.st.code ++ leBytes 1 f.toBound.toNat ++
        leBytes 2 (if f.st = .free ∨ f.st = .retired then 0 else (u.tagOf f.owner).toNat) ++ leBytes 1 f.dirty.toNat ++ leBytes 3 0 ++
        leBytes 4 (u.blocksPending f.no)))) ∧
  (∀ (tag : Tag) (va len : Word), CmdForm (fun h => .tlbInval h tag va len) (.tlbInval tag va len) 0x44 bySys always
    (fun _ _ => va.toNat % 65536 = 0 ∧ va.toNat + len.toNat * 65536 ≤ 2 ^ 52) always (fun u h =>
      let ns := if tag = 0 then (List.range 64).map (· + 1) else if u.tagCurrent tag = true then [tagCtx tag] else []
      (if len = 0 then u.invalidate (if tag = 0 then none else some tag) ns 0 (2 ^ 52)
        else u.invalidate (if tag = 0 then none else some tag) ns va.toNat (len.toNat * 65536)).reply h 0x44 0)) ∧
  (∀ (pa : Word) (k : BitVec 8), CmdForm (fun h => .faultRing h pa k) (.faultRing pa k) 0x45 bySys always
    (fun u _ => 6 ≤ k.toNat ∧ k.toNat ≤ 16 ∧ pa.toNat % 2 ^ (k.toNat + 6) = 0 ∧ pa.toNat < 2 ^ 48 ∧
      u.ctx0Range pa.toNat (2 ^ (k.toNat + 6)) = true) always (fun u h =>
        let v : State := { u with ring := some (pa.toNat, k.toNat) }
        (v.faultWait.foldl (fun s _ => s.drainFaults) v).reply h 0x45 0)) ∧
  (∀ (seq : Word) (act : AnswerAct),
    let rec? (u : State) : Option FaultRec := u.faults.find? (fun r => decide (r.seq = seq.toNat))
    CmdForm (fun h => .faultAnswer h seq act) (.faultAnswer seq act) 0x46 bySys always
      (fun u _ => ∃ r, rec? u = some r ∧ (act = .complete → r.agent = 1 ∧ r.detail = 0x07 ∧ r.stg.isSome = true)) always (fun u h =>
        match rec? u with
        | none => u
        | some r =>
          let v : State := { u with faults := u.faults.filter (fun q => decide (q.seq ≠ r.seq)) }
          (match act with
            | .resume => v.resumeAgent r.seq
            | .terminate => v.terminateAgent r
            | .complete => v.completeStore r).drainFaults.reply h 0x46 0)) ∧
  (∀ (s : State) (r : FaultRec), r.tile = none → r.agent ≠ 2 → r.agent ≠ 3 → r.agent ≠ 4 → r.agent ≠ 6 → r.group = (s.core r.core).grp →
    (s.ctx r.ctx).st ≠ .frozen → s.groupEnded (s.terminateAgent r) r.core) ∧
  (∀ (s : State) (n : Nat) (c : CoreIx), (s.core c).ctl.wait = some (.fault n) → let k := (s.resumeAgent n).core c
    k.ctl.wait = none ∧ k.ctl.pc = (s.core c).ctl.pc ∧ k.x = (s.core c).x ∧ k.ctl.st =
      if (s.core c).ctl.st = .rollback then (if (s.core c).rs.log = [] then .run else .replay) else (s.core c).ctl.st) ∧
  (∀ (handle : BitVec 8) (tag : Tag) (pa : Word) (count : BitVec 32) (out : Word), let n := tagCtx tag
    let fs := frameRange pa (min count.toNat 64)
    CmdForm (fun h => .pageExport h handle tag pa count out) (.pageExport handle tag pa count out) 0x47 bySys
      (fun u _ => (u.ctx n).st = .migrating ∨ ((u.ctx n).st = .lulled ∧ (u.ctx n).tracking = true))
      (fun u _ => u.mkey handle ≠ none ∧ u.tagCurrent tag = true ∧ 1 ≤ count.toNat ∧ count.toNat ≤ 64 ∧ pa.toNat % frameBytes = 0 ∧
        (∀ f ∈ fs, (u.frame f).owner = n ∧ ((u.frame f).st = .bound ∨ (u.frame f).st = .tracked)) ∧ out.toNat < 2 ^ 48 ∧
        u.ctx0Range out.toNat (count.toNat * 65584) = true)
      (fun u _ => ∀ k, u.mkey handle = some k → k.seq + count.toNat < 2 ^ 32) (fun u h =>
        match u.mkey handle with
        | none => u
        | some k => ((u.exportPages k tag (u.ctx n).exported out.toNat fs (k.seq + 1)).modMkey handle (fun k =>
            { k with seq := k.seq + count.toNat })).reply h 0x47 0)) ∧
  (∀ (handle : BitVec 8) (pa blob : Word),
    let hdr (u : State) : List Byte := u.peek blob.toNat 32
    let body (u : State) : Option (List Byte) :=
      match u.mkey handle with
      | none => none
      | some k => gcmOpen k.key (blobIv (hdr u)) (hdr u) (u.peek (blob.toNat + 32) 65536) (u.peek (blob.toNat + 65568) 16)
    CmdForm (fun h => .pageImport h handle pa blob) (.pageImport handle pa blob) 0x48 bySys (inState (fun c => c.st = .importing))
      (fun u h => let f := u.frame (pa.toNat / frameBytes)
        tenantNamed u h ∧ pa.toNat % frameBytes = 0 ∧ f.owner = h.ctx ∧ (f.st = .bound ∨ (f.st = .scrubbing ∧ f.toBound = true)) ∧
          blob.toNat < 2 ^ 48 ∧ u.ctx0Range blob.toNat 65584 = true ∧ fieldAt (hdr u) 20 4 = 65536 ∧ fieldAt (hdr u) 12 1 < 2 ∧
          (body u).isSome = true ∧ (u.ctx h.ctx).importSeq < fieldAt (hdr u) 8 4) always (fun u h =>
        (((u.settleBlob blob.toNat).putMem pa.toNat ((body u).getD [])).modCtx h.ctx (fun c => { c with
          importSeq := fieldAt (hdr u) 8 4
          finalDone := if fieldAt (hdr u) 12 1 = 1 then fieldAt (hdr u) 0 8 :: c.finalDone else c.finalDone })).reply h 0x48 0)) ∧
  (∀ (port : EthPort) (flow : BitVec 16) (tag : Tag) (ip : BitVec 128) (udp : BitVec 16) (key : BitVec 256),
    let no : BitVec 10 := flow.extractLsb' 0 10
    CmdForm (fun h => .flowOpen h port flow tag ip udp key) (.flowOpen port flow tag ip udp key) 0x50 bySys always
      (fun u _ => 1 ≤ flow.toNat ∧ flow.toNat ≤ 1023 ∧ u.flow port no = none ∧ u.tagCurrent tag = true ∧
        (tagCtx tag = 0 ∨ (tagCtx tag ≤ 64 ∧ (u.ctx (tagCtx tag)).st ≠ .free)))
      (fun u _ => (u.flows.filter (fun f => decide (f.port = port))).length < 1024)
      (fun u h => ({ u with flows := u.flows ++ [{
        port := port, no := no, ctx := tagCtx tag, ip := ip, udp := udp, key := key, tx := 0, rx := 0, held := [], inq := [], unacked := []
        sacked := [], retries := 0, pendAck := 0, acks := 0, renewed := false }] } : State).reply h 0x50 0)) ∧
  (∀ (port : EthPort) (flow : BitVec 16), let no : BitVec 10 := flow.extractLsb' 0 10
    CmdForm (fun h => .flowClose h port flow) (.flowClose port flow) 0x51 bySys always
      (fun u _ => 1 ≤ flow.toNat ∧ flow.toNat ≤ 1023 ∧ u.flow port no ≠ none) always
      (fun u h => (u.loseFlow port no true).reply h 0x51 0)) ∧
  (∀ (win : BitVec 8) (base len : Word) (port : EthPort) (flow : BitVec 16) (hb : Word), let no : BitVec 10 := flow.extractLsb' 0 10
    CmdForm (fun h => .hwinSet h win base len port flow hb) (.hwinSet win base len port flow hb) 0x52 bySys always
      (fun u h => tenantNamed u h ∧ win.toNat < 16 ∧ (len ≠ 0 → base.toNat % 65536 = 0 ∧ len.toNat % 65536 = 0 ∧ len.toNat ≤ 2 ^ 40 ∧
        base.toNat + len.toNat ≤ 2 ^ 52 ∧ hb.toNat % 64 = 0 ∧ flow.toNat ≤ 1023 ∧ (∃ f, u.flow port no = some f ∧ f.ctx = h.ctx) ∧
        u.hwinFree h.ctx win.toNat base.toNat len.toNat = true)) always
      (fun u h => (u.modCtx h.ctx (fun c => { c with hwins := c.hwins.set! win.toNat (if len = 0 then none else
        some { base := base, len := len, port := port, flow := no, hbase := hb }) })).reply h 0x52 0)) ∧
  (∀ (mask : BitVec 64) (tags : List Tag), let ps := (List.range 64).filter (fun i => mask.getLsbD i)
    CmdForm (fun h => .spanSet h mask tags) (.spanSet mask tags) 0x53 bySys (inState (fun c => c.st = .configured))
      (fun u h => tenantNamed u h ∧ mask.getLsbD u.pkg.toNat = true ∧ tags.length = ps.length ∧ (∀ t ∈ tags, tagCtx t = h.ctx) ∧
        (ps.zip tags).lookup u.pkg.toNat = some (u.tagOf h.ctx)) always
      (fun u h => (u.modCtx h.ctx (fun c => { c with spanMask := mask, spanTags := ps.zip tags })).reply h 0x53 0)) ∧
  (∀ (member : BitVec 8) (tag : Tag), CmdForm (fun h => .spanGen h member tag) (.spanGen member tag) 0x56 bySys
    (inState (fun c => c.st ≠ .free))
    (fun u h => tenantNamed u h ∧ member.toNat < 64 ∧ (u.ctx h.ctx).spanMask.getLsbD member.toNat = true ∧ tagCtx tag = h.ctx) always
    (fun u h => (u.modCtx h.ctx (fun c => { c with
      spanTags := (member.toNat, tag) :: c.spanTags.filter (fun p => decide (p.1 ≠ member.toNat)) })).reply h 0x56 0)) ∧
  (∀ l : LinkId, CmdForm (fun h => .linkQuery h l) (.linkQuery l) 0x54 bySys always always always (fun u h =>
      let r := u.linkOf l
      u.reply h 0x54 0 0 (leBytes 1 r.st.code ++ leBytes 1 r.lanes ++ leBytes 2 0 ++ leBytes 4 r.crcErrors ++ leBytes 4 r.retries)) ∧
    CmdForm (fun h => .linkRetire h l) (.linkRetire l) 0x55 bySys (fun u _ => (u.linkOf l).st ≠ .retired) always always (fun u h =>
      let w := if (u.linkOf l).st.carries ∧ u.alternative l then u.resendOnRoute l else u
      let v : State := w.recount (w.linkTo l .retired)
      (match l with
        | .eth p => v.losePort p
        | _ => v).reply h 0x55 0)) ∧
  (∀ (image : Word) (len : BitVec 32) (s : State) (h : CmdHdr) (f : Flow), s.commandDue h (.fwLoad image len) f →
    let u := s.taken h.hdr f (.cmd h (.fwLoad image len))
    let gives (v : State) : Prop := exec (.fwLoad h image len) s = .next (v.afterMessage h.hdr)
    let sys : Prop := tagCtx h.hdr.tag = 0
    let ok : Prop := len ≠ 0 ∧ image.toNat < 2 ^ 48 ∧ u.ctx0Range image.toNat len.toNat = true
    let v := (u.getMem image.toNat len.toNat).2
    let r := v.boot.fwCheck (u.getMem image.toNat len.toNat).1
    (¬ sys → gives (u.reply h 0x60 3)) ∧ (sys → ¬ ok → gives (u.reply h 0x60 2 1)) ∧
    (∀ d, sys → ok → r = .error d → gives (v.reply h 0x60 2 d)) ∧
    (∀ g, sys → ok → r = .ok g → v.boot.bootB = true →
      gives (({ v with boot := { v.boot with
        slotA := v.boot.slotA.set! g.component (some g), newest := v.boot.newest.set! g.component (some false) } } : State).reply h 0x60 0)) ∧
    (∀ g, sys → ok → r = .ok g → v.boot.bootB = false →
      gives (({ v with boot := { v.boot with
        slotB := v.boot.slotB.set! g.component (some g), newest := v.boot.newest.set! g.component (some true) } } : State).reply h 0x60 0))) ∧
  (∀ (comp value : BitVec 8),
    CmdForm (fun h => .fwCommit h comp value) (.fwCommit comp value) 0x61 bySys always (fun u _ =>
      (comp.toNat ≤ 5 ∧ (value.toNat ≤ blown (u.boot.fuse comp.toNat) ∨
        ∃ g, u.boot.running[comp.toNat]? = some (some g) ∧ value.toNat ≤ g.version)) ∨
        (comp.toNat = 6 ∧ value.toNat ≤ 3 ∧ ∀ g, u.boot.running[0]? = some (some g) → g.key ≠ value.toNat)) always (fun u h =>
      if (if comp.toNat = 6 then (u.boot.fuse 6).getLsbD value.toNat = true else value.toNat ≤ blown (u.boot.fuse comp.toNat)) then
        u.reply h 0x61 0
      else { u with boot := { u.boot with commit := some (h, comp.toNat, value.toNat) } })) ∧
  (∀ (s : State) (h : CmdHdr) (c v : Nat), s.boot.commit = some (h, c, v) → c ≤ 5 → v ≤ 64 → blown (s.boot.fuse c) < v →
    blown (s.blowFuse.boot.fuse c) = blown (s.boot.fuse c) + 1 ∧ (∀ i, i ≠ c → s.blowFuse.boot.fuse i = s.boot.fuse i) ∧
      (s.blowFuse.boot.commit = none ↔ blown (s.boot.fuse c) + 1 = v)) ∧
  CmdForm .capRead .capRead 0x62 bySys always always always (fun u h =>
    let free (v : List Bool) : Nat := (v.filter id).length
    u.reply h 0x62 0 0 (leBytes 8 u.boot.capGen.toNat ++ (
      allDies.map (fun d => BitVec.ofNat 8 ((u.die d).felt.toNat + 2 * u.liveClusters d)) ++
      allDies.map (fun d => BitVec.ofNat 8 (free (u.die d).spares.toList)) ++ allDies.flatMap (fun d => leBytes 2 (u.die d).hbmUnits) ++
      allDies.map (fun d => BitVec.ofNat 8 (free (u.die d).reserve.toList)) ++
      [BitVec.ofNat 8 (bitsOf ((List.range 6).map (fun i => (u.link i).st.carries)))] ++
      leBytes 2 (bitsOf ((List.range 12).map (fun i => decide ((u.link (6 + i)).st ≠ .retired)))) ++
      [BitVec.ofNat 8 (bitsOf ((List.range 2).map (fun i => decide ((u.link (18 + i)).st = .up))))]) ++ List.replicate 32 0)) ∧
  ∀ (kind index : BitVec 8) (mw : BitVec 32),
    let new (u : State) : List (Nat × Nat × Nat) := u.boot.limits.map (fun e =>
      if e.1 = kind.toNat ∧ (index = 0xFF ∨ e.2.1 = index.toNat) then (e.1, e.2.1, mw.toNat) else e)
    let within (n lo hi : Nat) : Prop := (index = 0xFF ∨ index.toNat < n) ∧ lo ≤ mw.toNat ∧ mw.toNat ≤ hi
    CmdForm (fun h => .powerSet h kind index mw) (.powerSet kind index mw) 0x63 bySys always
      (fun u _ => ((kind = 0 ∧ within 64 8000 40000) ∨ (kind = 1 ∧ within 12 20000 40000) ∨ (kind = 2 ∧ within 6 10000 25000) ∨
        (kind = 3 ∧ within 12 5000 12500) ∨ (kind = 4 ∧ within 2 15000 15000)) ∧ ((new u).map (fun e => e.2.2)).sum + 300000 ≤ 3300000) always
      (fun u h => ({ u with boot := { u.boot with limits := new u } } : State).reply h 0x63 0)

/-! ### Decoding and the step -/

/-- R141, R147 to R154, R179, R389: a step is the instruction that the bytes at the pc decode to, with what the packet and the turn add: the
slots in their order, the checks of the whole packet, its end, then the next core's turn; a slot that stops has the packet stop with
it; an event that is due, or an input, is its row. -/
def Obligations.StepRunsTheDecodedInstruction : Prop :=
  (∀ (s t : State) (c : CoreIx) (p : Packet), s.issues t c p →
    let b := t.beginPacket c p.next
    let on (u : State) : Host.Outcome State Fault Refusal := .next ({ u with cur := c } : State).advance
    (∀ (x : PSlot) (i : Instr) (u : State), p.slots = [x] → x.instr = .ok i → exec i (b.enterSlot x) = .next u →
      (u.slot.out = .none → x.late b.me.ctl.inTrap = false → u.packetOut.1 = .none → u.roomOut.1 = .none → step s = on u.finishPacket) ∧
      (u.slot.out = .none → x.late b.me.ctl.inTrap = true → step s = on u.finishPacket) ∧
      (u.slot.out ≠ .none → step s = on ((b.modSlot (fun k => { k with bunAddr := x.bun })).settleOut u.slot.out))) ∧
    (∀ (x y : PSlot) (i j : Instr) (u v : State), p.slots = [x, y] → x.instr = .ok i → y.instr = .ok j →
      x.late b.me.ctl.inTrap = false → y.late b.me.ctl.inTrap = false → exec i (b.enterSlot x) = .next u → u.slot.out = .none →
      exec j (u.enterSlot y) = .next v → v.slot.out = .none → v.packetOut.1 = .none → v.roomOut.1 = .none →
      step s = on v.finishPacket) ∧
    (∀ (x y : PSlot) (i j : Instr) (u v : State) (w : Wait), p.slots = [x, y] → x.instr = .ok i → y.instr = .ok j →
      x.late b.me.ctl.inTrap = false → y.late b.me.ctl.inTrap = false → exec i (b.enterSlot x) = .next u → u.slot.out = .none →
      u.slot.markNext = true → exec j (u.enterSlot y) = .next v → v.slot.out = .hold w → v.slot.early = false →
      u.packetOut.1 = .none → u.roomOut.1 = .none →
      step s = on ((v.modSlot (fun k => { k with markNext := true })).waitPart u.slot.pkt [y] [])) ∧
    ∀ (x : PSlot) (d : Detail), p.slots = [x] → x.instr = .error d →
      let e := if Detail.afterFields d = true ∧ b.fieldsBad x = true then .reservedField else d
      ((b.enterSlot x).illegal e).slot.out ≠ .none →
      step s = on ((b.modSlot (fun k => { k with bunAddr := x.bun })).settleOut ((b.enterSlot x).illegal e).slot.out)) ∧
  (∀ (s t u : State) (c : CoreIx) (hb bs : List Byte), let pc := (s.core c).ctl.pc
    let n := bundleLen (headerOf hb)
    s.fetchBytes c pc 2 = (.ok hb, t) → (headerOf hb).extractLsb' 8 8 = 0 → 2 < n → t.fetchBytes c pc n = (.ok bs, u) →
    (headerOf bs).getLsbD 5 = true → headerOf bs = headerOf hb →
    s.fetchPacket c = (.ok { bundles := [(pc, readBundle bs)], next := pc + BitVec.ofNat 64 n }, u)) ∧
  (∀ (s : State) (d : Due) (rest : List Due) (i : Instr), s.boot.halted = false → s.agenda = d :: rest → d.row i →
    step s = exec i { s with agenda := rest }) ∧
  (∀ (s : State) (rest : List Due), s.boot.halted = false → s.agenda = .coreDue :: rest →
    let u : State := { s with agenda := rest }
    step s = .next { u with agenda := rest ++ u.due s.cur }) ∧
  ∀ s : State, s.boot.halted = true →
    (∀ i rest, s.inputs = i :: rest → ((∃ t, i = .powerOn t) ∨ i = .powerLoss ∨ i = .packageReset → step s = exec i { s with inputs := rest }) ∧
      ((∀ t, i ≠ .powerOn t) → i ≠ .powerLoss → i ≠ .packageReset → step s = .next { s with inputs := rest })) ∧
    (s.inputs = [] → step s = .fault .halted)

/-- The words that the spec writes out: R186, R190, R203, R234, R238, R255, R274, R281 to R292, R297, R298, R325, and headers. -/
def Obligations.WordsDecodeAsTheSpecWritesThem : Prop :=
  let d (k : SlotKind) (w : Cell) (i : Instr) : Prop := decodeSlot k none w = .ok i
  let dl (k : SlotKind) (lit w : Cell) (i : Instr) : Prop := decodeSlot k (some lit) w = .ok i
  d .s 0x00000000 .nop ∧ d .s 0x08530000 (.clz 5 6 0) ∧ d .s 0x2E800005 (.li 8 5) ∧ d .s 0x2E900000 (.li 9 0) ∧
    d .s 0x0294A000 (.add 9 9 8 false) ∧ d .s 0x48800FFD (.loop 8 0xFFD) ∧ d .s 0x20948001 (.addi 9 9 1) ∧ d .s 0x74000000 .csync ∧
    d .s 0x76000005 (.bara 5) ∧ d .s 0x78000005 (.barw 5) ∧
  d .a 0x04518004 (.ldW 5 3 0 4) ∧ d .a 0x42130000 (.qfillt 1 6 0 0) ∧ d .a 0x42130002 (.qfillt 1 6 0 2) ∧
  d .m 0x00280000 (.rk 0 1 1) ∧ d .m 0x0218A000 (.rks 0 0 3 1 2) ∧ d .m 0x04101000 (.rka 0 0 2 0 1) ∧
    dl .m 0x3E000000 0x16140000 (.gscaleLiteral 2) ∧ d .m 0x16110000 (.gscaleQs 2 2) ∧
  d .v 0x00101180 (.vadd 8 8 0xC0 false) ∧ d .v 0x48023180 (.vcmpGt 1 0x18 0xC0 false) ∧ d .v 0xE00A060E (.vxferElement 5 3 7) ∧
    d .v 0x0E080980 (.vmax 4 4 0xC0 false) ∧ d .v 0x04505050 (.vmul 40 40 40 false) ∧ d .v 0xA00C5000 (.vredSum 6 40 false) ∧
  d .c 0x0090A603 (.cpy 1 4 5 6 false 0 3) ∧ d .c 0x10300000 (.strm 12) ∧ d .c 0x1210A600 (.sctr 4 5 6 false) ∧ d .c 0x1410A600 (.rred 4 5 6 false) ∧
    d .c 0x2010A000 (.qpush 4 5) ∧ d .c 0x221C0803 (.fsig 7 8 false 3) ∧ dl .c 1 0x221C0083 (.fsig 7 0 true 3) ∧
    d .c 0x251C0802 (.cwait 2 7 8 false 2) ∧ d .c 0x26000011 (.qfence 0x11) ∧ d .c 0x34000000 .wfence ∧ d .c 0x30240000 (.texec 9) ∧
    d .c 0x32240002 (.tissue 9 2) ∧
  decodeSlot .s none 0x00000001 = .error .reservedField ∧ bundleLen 0x0021 = 6 ∧ bundleLen 0x00A4 = 10

/-- R154 to R181: for every slot instruction, decoding its encoding gives it back, with every operand at every value that the encoding
admits; and a word that decodes is the encoding of a well-formed instruction of its slot kind, so that no bit of it is dropped. -/
def Obligations.EncodingsRoundTrip : Prop :=
  (∀ (i : Instr) (k : SlotKind) (lit : Option Cell), i.slotKind = some k → i.wellFormed = true → i.litOk lit = true →
    decodeSlot k lit i.encode = .ok i) ∧
  (∀ (k : SlotKind) (lit : Option Cell) (w : Cell) (i : Instr), decodeSlot k lit w = .ok i →
    i.encode = w ∧ i.slotKind = some k ∧ i.wellFormed = true ∧ i.litOk lit = true) ∧
  ∀ (x r u : Bool), decodeHeader (Instr.nullBundle x r u).encodeHeader = some (.nullBundle x r u)

/-! ### Reset and the invariant -/

/-- What a package is before its boot sequence: R383 and Tables 2.2, 3.3: links in RESET, contexts FREE, nothing placed, no partition,
no flow; the byte stores hold their canonical form. The registers and memory bytes without a reset value of the spec are log 1 and
log 2, the model's choice. -/
def Obligations.ResetState : Prop :=
  let s := State.reset
  s.memWf ∧ s.mem = [] ∧ s.groups = [] ∧ s.flows = [] ∧ s.windows = [] ∧ s.agenda = [] ∧ s.boot.booted = false ∧ s.boot.halted = false ∧
    (∀ i, i < 20 → (s.link i).st = .reset) ∧ (∀ n, (s.ctx n).st = .free) ∧ (∀ i, i < 64 → s.parts[i]? = some none) ∧
    (∀ i, (s.frame i).st = .free) ∧
    ∀ c : CoreIx, let k := s.core c
      k.ctl.st = .idle ∧ k.grp = none ∧ (∀ r, k.rx r = 0) ∧ k.fmt = 0 ∧ k.shp = 0x4040 ∧ (∀ i j, i < 64 → j < 64 → k.grid.cell i j = 0) ∧
        k.rs.gate = [] ∧ k.rs.log = []

/-- Every step keeps the byte stores (device memory, the buffers of every core, the frames that an import holds) in their canonical form,
so that equal memories are equal data; the events of the outside among the steps. -/
def Obligations.MemoryStaysCanonical : Prop :=
  (∀ s t : State, s.memWf → step s = .next t → t.memWf) ∧
  ∀ (i : Instr) (s t : State), s.memWf → exec i s = .next t → t.memWf

end Statements
end

