-- ==== Sys2Proof/Laws/Ops.lean ====
section
/-! SUPPORT. What each shared operation can do, said once: writes of device memory, the store gate, marks and rollback, stopping a slot,
taking an exception and returning from one, irrevocable operations, messages and events. -/

namespace Sys2Proof.Machine

/-! ### Device memory -/

/-- The state without what an access of device memory may touch: the bytes, the frame table, the tree units, the counter blocks, the
memory-side caches, the dies with their walks. -/
def State.offMemory (s : State) : State :=
  { s with mem := [], frames := [], units := [], blocks := [], caches := Vector.replicate 4 [], dies := Vector.replicate 4 Die.reset }

/-- A fold whose steps keep a projection keeps it. -/
theorem foldl_keeps {α β γ : Type} (p : α → γ) (f : α → β → α) (h : ∀ a b, p (f a b) = p a) (l : List β) (a : α) :
    p (l.foldl f a) = p a := by
  induction l generalizing a with
  | nil => rfl
  | cons b l ih => rw [List.foldl_cons, ih, h]

/-- A fold whose steps keep a property keeps it. -/
theorem foldl_holds {α β : Type} (p : α → Prop) (f : α → β → α) (h : ∀ a b, p a → p (f a b)) (l : List β) (a : α) (ha : p a) :
    p (l.foldl f a) := by
  induction l generalizing a with
  | nil => exact ha
  | cons b l ih => exact ih _ (h _ _ ha)

/-- A projection of a choice, when both sides have it. -/
theorem ite_keeps {α γ : Type} (p : α → γ) {c : Prop} [Decidable c] {a b : α} {x : γ} (ha : p a = x) (hb : p b = x) :
    p (if c then a else b) = x := by
  by_cases h : c
  · rw [if_pos h]; exact ha
  · rw [if_neg h]; exact hb
/-- A property of a choice, when both sides have it. -/
theorem ite_holds {α : Type} (p : α → Prop) {c : Prop} [Decidable c] {a b : α} (ha : p a) (hb : p b) : p (if c then a else b) := by
  by_cases h : c
  · rw [if_pos h]; exact ha
  · rw [if_neg h]; exact hb

theorem State.offMemory_cores (s : State) : s.offMemory.cores = s.cores := rfl
theorem State.offMemory_core (s : State) (c : CoreIx) : s.offMemory.core c = s.core c := rfl
theorem State.offMemory_ctxs (s : State) : s.offMemory.ctxs = s.ctxs := rfl
theorem State.offMemory_groups (s : State) : s.offMemory.groups = s.groups := rfl
theorem State.offMemory_flows (s : State) : s.offMemory.flows = s.flows := rfl
theorem State.offMemory_tiles (s : State) : s.offMemory.tiles = s.tiles := rfl
theorem State.setFrame_offMemory (s : State) (f : Frame) : (s.setFrame f).offMemory = s.offMemory := rfl
theorem State.setUnit_offMemory (s : State) (u : TreeUnit) : (s.setUnit u).offMemory = s.offMemory := rfl
theorem State.setBlock_offMemory (s : State) (b : CtrBlock) : (s.setBlock b).offMemory = s.offMemory := rfl
theorem State.modDie_offMemory (s : State) (d : BitVec 2) (f : Die → Die) : (s.modDie d f).offMemory = s.offMemory := rfl
theorem State.treeAdvance_offMemory (s : State) (b : Nat) : (s.treeAdvance b).offMemory = s.offMemory := s.setUnit_offMemory _
theorem State.setCache_offMemory (s : State) (d : BitVec 2) (l : List Cached) : (s.setCache d l).offMemory = s.offMemory := rfl

/-- What device memory holds apart from its tables: the bytes and the dies. -/
def State.memDies (s : State) : Memory × Vector Die 4 := (s.mem, s.dies)

/-- Marking and writing back parts of the caches keeps whatever does not read the caches and the tree units (R367). -/
theorem State.cacheLines_keeps {γ : Type} (p : State → γ) (hc : ∀ s d l, p (State.setCache s d l) = p s) (hu : ∀ s u, p (State.setUnit s u) = p s)
    (s : State) (pa n : Nat) : p (s.cacheLines pa n) = p s := by
  have put : ∀ (s : State) k m, p (s.putDirty k m) = p s := by
    intro s k m
    unfold State.putDirty
    dsimp only
    split
    · split
      · rfl
      · exact hc _ _ _
    · exact hc _ _ _
  have back : ∀ (s : State) e, p (s.writeBack e) = p s := by
    intro s e
    unfold State.writeBack
    split
    · exact hu _ _
    · split
      · exact (put _ _ _).trans (hu _ _)
      · rfl
  have trim : ∀ (n : Nat) (s : State) d, p (s.trimCache d n) = p s := by
    intro n
    induction n with
    | zero => intro s d; rfl
    | succ n ih =>
      intro s d
      unfold State.trimCache
      dsimp only
      split
      · rfl
      · split
        · exact (ih _ _).trans ((back _ _).trans (hc _ _ _))
        · rfl
  unfold State.cacheLines
  split
  · rfl
  · exact foldl_keeps p _ (fun a b => (trim _ _ _).trans (put _ _ _)) _ _

theorem State.cacheLines_offMemory (s : State) (pa n : Nat) : (s.cacheLines pa n).offMemory = s.offMemory :=
  s.cacheLines_keeps State.offMemory (fun _ _ _ => rfl) (fun _ _ => rfl) pa n
theorem State.cacheLines_memDies (s : State) (pa n : Nat) : (s.cacheLines pa n).memDies = s.memDies :=
  s.cacheLines_keeps State.memDies (fun _ _ _ => rfl) (fun _ _ => rfl) pa n

theorem State.rewriteBlock_offMemory (s : State) (r : Bool) (n : Nat) : (s.rewriteBlock r n).offMemory = s.offMemory := by
  unfold State.rewriteBlock
  dsimp only
  generalize hb : ({ s.block n with major := if r then 0 else (s.block n).major + 1, minors := [] } : CtrBlock) = b
  have h1 := (State.treeAdvance_offMemory (s.setBlock b) n).trans (s.setBlock_offMemory b)
  generalize (s.setBlock b).treeAdvance n = t at h1
  exact h1
theorem State.addWalk_offMemory (s : State) (u : Nat) (r : Bool) (bs : List Nat) : (s.addWalk u r bs).offMemory = s.offMemory := rfl
theorem State.endBlock_offMemory (s : State) (b : Nat) : (s.endBlock b).offMemory = s.offMemory := ite_keeps State.offMemory rfl rfl
theorem State.frameScrubbed_offMemory (s : State) (n : Nat) : (s.frameScrubbed n).offMemory = s.offMemory :=
  ite_keeps State.offMemory (ite_keeps State.offMemory rfl (ite_keeps State.offMemory rfl rfl)) rfl
theorem State.settleBlock_offMemory (s : State) (b : Nat) : (s.settleBlock b).offMemory = s.offMemory := by
  unfold State.settleBlock
  dsimp only
  split
  · rfl
  · exact (State.frameScrubbed_offMemory _ _).trans ((State.endBlock_offMemory _ _).trans (s.rewriteBlock_offMemory _ _))

/-- One line of a write (R365, R373). -/
theorem State.writeLine_offMemory (s : State) (l : Nat) :
    (let s := s.settleBlock (l / 64)
     let s := s.setBlock ((s.block (l / 64)).write (l % 64))
     let f := s.frame (l / 1024)
     if f.st = .tracked then s.setFrame { f with dirty := true } else s).offMemory = s.offMemory :=
  ite_keeps State.offMemory
    ((State.setFrame_offMemory _ _).trans ((State.setBlock_offMemory _ _).trans (s.settleBlock_offMemory _)))
    ((State.setBlock_offMemory _ _).trans (s.settleBlock_offMemory _))

/-- A write of device memory changes device memory and its tables, nothing else. -/
theorem State.putMem_offMemory (s : State) (pa : Nat) (bs : List Byte) : (s.putMem pa bs).offMemory = s.offMemory :=
  (State.cacheLines_offMemory _ _ _).trans (foldl_keeps State.offMemory _ State.writeLine_offMemory (linesOf pa bs.length) s)

theorem State.putMem_cores (s : State) (pa : Nat) (bs : List Byte) : (s.putMem pa bs).cores = s.cores := by
  have h := congrArg State.cores (s.putMem_offMemory pa bs)
  rwa [State.offMemory_cores, State.offMemory_cores] at h
theorem State.putMem_core (s : State) (pa : Nat) (bs : List Byte) (c : CoreIx) : (s.putMem pa bs).core c = s.core c := by
  have h := congrArg (State.core · c) (s.putMem_offMemory pa bs)
  rwa [State.offMemory_core, State.offMemory_core] at h
theorem State.putMem_ctxs (s : State) (pa : Nat) (bs : List Byte) : (s.putMem pa bs).ctxs = s.ctxs := by
  have h := congrArg State.ctxs (s.putMem_offMemory pa bs)
  rwa [State.offMemory_ctxs, State.offMemory_ctxs] at h
theorem State.putMem_groups (s : State) (pa : Nat) (bs : List Byte) : (s.putMem pa bs).groups = s.groups := by
  have h := congrArg State.groups (s.putMem_offMemory pa bs)
  rwa [State.offMemory_groups, State.offMemory_groups] at h
theorem State.putMem_flows (s : State) (pa : Nat) (bs : List Byte) : (s.putMem pa bs).flows = s.flows := by
  have h := congrArg State.flows (s.putMem_offMemory pa bs)
  rwa [State.offMemory_flows, State.offMemory_flows] at h
theorem State.putMem_tiles (s : State) (pa : Nat) (bs : List Byte) : (s.putMem pa bs).tiles = s.tiles := by
  have h := congrArg State.tiles (s.putMem_offMemory pa bs)
  rwa [State.offMemory_tiles, State.offMemory_tiles] at h

/-- With no walk pending, a block that an access reaches stands. -/
theorem State.settleBlock_of_noWalk (s : State) (h : ∀ d, (s.die d).walks = [] ∧ (s.die d).waitWalks = []) (b : Nat) :
    s.settleBlock b = s := by
  unfold State.settleBlock
  simp [h]

/-- With no walk pending, a write stores its bytes and leaves every other byte and every die. -/
theorem State.putMem_of_noWalk (s : State) (h : ∀ d, (s.die d).walks = [] ∧ (s.die d).waitWalks = []) (pa : Nat) (bs : List Byte) :
    (s.putMem pa bs).mem = s.mem.store pa bs ∧ (s.putMem pa bs).dies = s.dies := by
  let p (t : State) : Prop := t.mem = s.mem ∧ t.dies = s.dies
  have line : ∀ (t : State) (l : Nat), p t → p (
      let s := t.settleBlock (l / 64)
      let s := s.setBlock ((s.block (l / 64)).write (l % 64))
      let f := s.frame (l / 1024)
      if f.st = .tracked then s.setFrame { f with dirty := true } else s) := by
    intro t l ht
    have hs : t.settleBlock (l / 64) = t := t.settleBlock_of_noWalk (by
      intro d
      have := h d
      unfold State.die at this ⊢
      rw [ht.2]
      exact this) _
    rw [hs]
    exact ite_holds p ht ht
  have all : p _ := foldl_holds p _ line (linesOf pa bs.length) s ⟨rfl, rfl⟩
  have c := State.cacheLines_memDies ((linesOf pa bs.length).foldl (fun s l =>
    let s := s.settleBlock (l / 64)
    let s := s.setBlock ((s.block (l / 64)).write (l % 64))
    let f := s.frame (l / 1024)
    if f.st = .tracked then s.setFrame { f with dirty := true } else s) s) pa bs.length
  exact ⟨congrArg (Memory.store · pa bs) ((congrArg Prod.fst c).trans all.1), (congrArg Prod.snd c).trans all.2⟩

/-- A read with no walk pending returns the bytes and changes nothing. -/
theorem State.getMem_of_noWalk (s : State) (h : ∀ d, (s.die d).walks = [] ∧ (s.die d).waitWalks = []) (pa n : Nat) :
    s.getMem pa n = (s.mem.bytes pa n, s) := by
  have : s.settleRange pa n = s := by
    unfold State.settleRange
    induction linesOf pa n with
    | nil => rfl
    | cons b l ih => rw [List.foldl_cons, s.settleBlock_of_noWalk h]; exact ih
  unfold State.getMem
  simp only [this]

theorem State.frameScrubbed_mem (s : State) (n : Nat) : (s.frameScrubbed n).mem = s.mem :=
  ite_keeps State.mem (ite_keeps State.mem rfl (ite_keeps State.mem rfl rfl)) rfl
theorem State.endBlock_mem (s : State) (b : Nat) : (s.endBlock b).mem = s.mem := ite_keeps State.mem rfl rfl
theorem State.settleBlock_wf (s : State) (b : Nat) (h : s.mem.wf = true) : (s.settleBlock b).mem.wf = true := by
  unfold State.settleBlock
  dsimp only
  split
  · exact h
  · refine (congrArg Memory.wf ((State.frameScrubbed_mem _ _).trans (State.endBlock_mem _ _))).trans ?_
    exact Memory.wf_clear h (b * 4096) 4096

/-- A write keeps the canonical form of device memory. -/
theorem State.putMem_wf (s : State) (pa : Nat) (bs : List Byte) (h : s.mem.wf = true) : (s.putMem pa bs).mem.wf = true := by
  have line : ∀ (t : State) (l : Nat), t.mem.wf = true → (
      let s := t.settleBlock (l / 64)
      let s := s.setBlock ((s.block (l / 64)).write (l % 64))
      let f := s.frame (l / 1024)
      if f.st = .tracked then s.setFrame { f with dirty := true } else s).mem.wf = true := by
    intro t l ht
    have hs := t.settleBlock_wf (l / 64) ht
    exact ite_holds (fun s : State => s.mem.wf = true) hs hs
  have all := foldl_holds (fun s : State => s.mem.wf = true) _ line (linesOf pa bs.length) s h
  unfold State.putMem State.countLines
  dsimp only
  refine Memory.wf_store ?_ _ _
  rw [State.cacheLines_keeps State.mem (fun _ _ _ => rfl) (fun _ _ => rfl)]
  exact all

/-! ### The store gate -/

/-- A held store of another core, and everything but device memory and its own core's buffers, is left alone. -/
theorem State.performHeld_core_ne (s : State) {c d : CoreIx} (h : d ≠ c) (e : Held) : (s.performHeld c e).core d = s.core d := by
  unfold State.performHeld
  split
  · split
    · exact s.putMem_core _ _ d
    · rfl
  · exact s.core_modCore_ne h _

/-- A commit leaves the other cores alone (R102). -/
theorem State.commitGate_core_ne (s : State) {c d : CoreIx} (h : d ≠ c) (n : Nat) : (s.commitGate c n).core d = s.core d := by
  unfold State.commitGate State.modRs
  exact (State.core_modCore_ne _ h _).trans (foldl_keeps (State.core · d) _ (fun a b => a.performHeld_core_ne h b) _ _)

/-- The registers and counts of the committing core, without its buffers and its gate. -/
def Core.offGate (k : Core) : Core := { k with xb := [], wb := [], gb := [], rs := { k.rs with gate := [] } }

theorem State.performHeld_offGate (s : State) (c : CoreIx) (e : Held) : ((s.performHeld c e).core c).offGate = (s.core c).offGate := by
  unfold State.performHeld
  split
  · split
    · rw [State.putMem_core]
    · rfl
  · rw [State.core_modCore_self]
    unfold Core.setBuf
    split <;> rfl

/-- A commit changes its core's buffers and gate, nothing else of the core (R102, R103). -/
theorem State.commitGate_offGate (s : State) (c : CoreIx) (n : Nat) : ((s.commitGate c n).core c).offGate = (s.core c).offGate := by
  unfold State.commitGate State.modRs
  rw [State.core_modCore_self]
  exact foldl_keeps (fun s : State => (s.core c).offGate) _ (fun a b => a.performHeld_offGate c b) _ _

/-- The stores that have committed leave the gate; the later ones stay, in order (R102). -/
theorem State.commitGate_gate (s : State) (c : CoreIx) (n : Nat) :
    ((s.commitGate c n).core c).rs.gate = (s.core c).rs.gate.drop n := by
  unfold State.commitGate State.modRs
  rw [State.core_modCore_self]
  refine congrArg (List.drop n) (foldl_keeps (fun s : State => (s.core c).rs.gate) _ ?_ _ _)
  intro a e
  unfold State.performHeld
  split
  · split
    · rw [State.putMem_core]
    · rfl
  · rw [State.core_modCore_self]
    unfold Core.setBuf
    split <;> rfl

/-- A commit keeps the canonical form of device memory and of every buffer. -/
theorem State.commitGate_wf (s : State) (c : CoreIx) (n : Nat) (hm : s.mem.wf = true)
    (hb : ∀ d : CoreIx, (s.core d).xb.wf = true ∧ (s.core d).wb.wf = true ∧ (s.core d).gb.wf = true) :
    (s.commitGate c n).mem.wf = true ∧
      ∀ d : CoreIx, ((s.commitGate c n).core d).xb.wf = true ∧ ((s.commitGate c n).core d).wb.wf = true ∧
        ((s.commitGate c n).core d).gb.wf = true := by
  let p (s : State) : Prop := s.mem.wf = true ∧ ∀ d : CoreIx, (s.core d).xb.wf = true ∧ (s.core d).wb.wf = true ∧ (s.core d).gb.wf = true
  have step : ∀ (a : State) (e : Held), p a → p (a.performHeld c e) := by
    intro a e ⟨h1, h2⟩
    unfold State.performHeld
    split
    · split
      · exact ⟨a.putMem_wf _ _ h1, fun d => by rw [State.putMem_core]; exact h2 d⟩
      · exact ⟨h1, h2⟩
    · refine ⟨h1, fun d => ?_⟩
      by_cases hd : d = c
      · subst hd
        rw [State.core_modCore_self]
        obtain ⟨x, w, g⟩ := h2 d
        unfold Core.setBuf Core.buf
        split
        · exact ⟨Memory.wf_store x _ _, w, g⟩
        · exact ⟨x, Memory.wf_store w _ _, g⟩
        · exact ⟨x, w, Memory.wf_store g _ _⟩
        · exact ⟨x, w, g⟩
      · rw [State.core_modCore_ne _ hd]
        exact h2 d
  have all := foldl_holds p (fun s h => s.performHeld c h) step ((s.core c).rs.gate.take n) s ⟨hm, hb⟩
  unfold State.commitGate State.modRs
  refine ⟨all.1, fun d => ?_⟩
  by_cases hd : d = c
  · subst hd
    rw [State.core_modCore_self]
    exact all.2 d
  · rw [State.core_modCore_ne _ hd]
    exact all.2 d

/-! ### Marks, rollback, exceptions -/

/-- What the shadow of a mark holds when no exposed result is outstanding (R102). -/
theorem Core.mark_of_idle (k : Core) (pc : Word) (h : k.rs.pend = []) :
    (k.mark pc).rs.shadow = { x := k.x, k := k.k, fmt := k.fmt, shp := k.shp, pc := pc, fwd := k.rs.fwd
                              fillN := k.grid.queues.map (fun q => q.fillN), inTrap := k.ctl.inTrap } ∧
      (k.mark pc).rs.log = [] ∧ (k.mark pc).x = k.x ∧ (k.mark pc).ctl = k.ctl ∧ (k.mark pc).rs.gate = k.rs.gate := by
  have : k.landOrder = [] := by unfold Core.landOrder; rw [h]; rfl
  unfold Core.mark
  rw [this]
  exact ⟨rfl, rfl, rfl, rfl, rfl⟩

/-- A rollback restores the shadow and empties what is not committed; memory, buffers and grid cells stay (R106). -/
theorem Core.rollback_spec (k : Core) :
    k.rollback.x = k.rs.shadow.x ∧ k.rollback.k = k.rs.shadow.k ∧ k.rollback.fmt = k.rs.shadow.fmt ∧ k.rollback.shp = k.rs.shadow.shp ∧
      k.rollback.ctl.pc = k.rs.shadow.pc ∧ k.rollback.ctl.inTrap = k.rs.shadow.inTrap ∧ k.rollback.ctl.wait = none ∧
      k.rollback.rs.gate = [] ∧ k.rollback.rs.ldgs = [] ∧ k.rollback.rs.pend = [] ∧ k.rollback.rs.log = k.rs.log ∧
      k.rollback.rs.fwd = k.rs.shadow.fwd ∧ k.rollback.grid.cells = k.grid.cells ∧ k.rollback.xb = k.xb ∧ k.rollback.wb = k.wb ∧
      k.rollback.gb = k.gb ∧ k.rollback.ctl.st = (if k.rs.log.isEmpty then .run else .replay) :=
  ⟨rfl, rfl, rfl, rfl, rfl, rfl, rfl, rfl, rfl, rfl, rfl, rfl, rfl, rfl, rfl, rfl, rfl⟩

/-- Trap entry outside a timed region, with a handler and not within trap handling (R403, R404). -/
theorem State.trapEntry_of_handler (s : State) (c : CoreIx) (t : TrapReq) (h1 : (s.core c).ctl.inTrap = false)
    (h2 : (s.core c).ctl.tvec ≠ 0) (h3 : (s.core c).timed = false) :
    s.trapEntry c t = (s.commitAll c).modCore c (fun k => { k.gridStop.dropPart with
      ctl := { k.ctl with epc := t.epc, cause := t.cause.setWidth 64, tval := t.tval, pc := k.ctl.tvec, inTrap := true
                          st := .run, wait := none, pendTrap := none, markNext := true } }) := by
  unfold State.trapEntry
  simp only [h1, h2, h3, Bool.false_eq_true, ↓reduceIte]

/-- A trap within trap handling ends the group (R405). -/
theorem State.trapEntry_double (s : State) (c : CoreIx) (t : TrapReq) (h : (s.core c).ctl.inTrap = true) :
    s.trapEntry c t = s.endMine c 0x0E2 t.addr 0 := by
  unfold State.trapEntry
  simp only [h, ↓reduceIte]

/-- A trap without a handler ends the group with its own cause (R403). -/
theorem State.trapEntry_no_handler (s : State) (c : CoreIx) (t : TrapReq) (h1 : (s.core c).ctl.inTrap = false)
    (h2 : (s.core c).ctl.tvec = 0) : s.trapEntry c t = (s.commitAll c).endMine c t.cause t.addr t.tval := by
  unfold State.trapEntry
  simp only [h1, h2, Bool.false_eq_true, ↓reduceIte]

/-- The return from an exception leaves everything but trap handling, the pc and the state of the core (R198, R406). -/
theorem Core.trapReturn_spec (k : Core) :
    k.trapReturn.ctl.inTrap = false ∧ k.trapReturn.ctl.pc = k.ctl.epc ∧ k.trapReturn.ctl.tvec = k.ctl.tvec ∧
      k.trapReturn.ctl.cause = k.ctl.cause ∧ k.trapReturn.x = k.x ∧ k.trapReturn.rs = k.rs ∧ k.trapReturn.grid = k.grid :=
  ⟨rfl, rfl, rfl, rfl, rfl, rfl, rfl⟩

/-! ### Slots -/

/-- A slot that stops says why in the slot context; a stop that stood stands (R151, R179). -/
@[simp] theorem State.stop_out (s : State) (o : SlotOut) : (s.stop o).slot.out = s.slot.out.join o := rfl
@[simp] theorem State.raise_out (s : State) (c : BitVec 9) (v : Word) :
    (s.raise c v).slot.out = s.slot.out.join (.trap ⟨c, v, s.slot.pktAddr, s.slot.bunAddr⟩) := rfl
@[simp] theorem State.hold_out (s : State) (w : Wait) : (s.hold w).slot.out = s.slot.out.join (.hold w) := rfl
@[simp] theorem SlotOut.join_none (o : SlotOut) : SlotOut.join .none o = o := by unfold SlotOut.join; rfl

/-- An x result changes only the core that issues, and there only the results that are due (R164). -/
theorem State.result_core_ne (s : State) {c : CoreIx} (h : c ≠ s.cur) (d : BitVec 5) (v : Word) (l : Nat) :
    (s.result d v l).core c = s.core c := s.core_modCore_ne h _
theorem State.result_me (s : State) (d : BitVec 5) (v : Word) (l : Nat) : (s.result d v l).me = s.me.expose (.x d) v l := s.me_modMe _

/-- With no device read outstanding nothing has to settle. -/
theorem State.settleOwn_none (s : State) (n : Nat) (h : s.me.devReads = []) : State.settleOwn n s = .ok s := by
  cases n with
  | zero => rfl
  | succ n =>
    have : s.me.oldestRead = none := by unfold Core.oldestRead; rw [h]; rfl
    unfold State.settleOwn
    rw [this]

/-- An irrevocable operation waits for fills and loads of earlier packets, settles those of its own, waits for the transfers and locks that
hold the gate, those of its own packet among them, and performs after the gate has committed (R105). -/
theorem State.irrevocable_cases (s : State) (f : State → State) :
    (s.slot.settled = false ∧ s.irrevocable f = s.hold .settle) ∨
    (s.slot.settled = true ∧ ∃ t, State.settleOwn s.me.devReads.length s = .error t ∧ s.irrevocable f = t) ∨
    (s.slot.settled = true ∧ ∃ t, State.settleOwn s.me.devReads.length s = .ok t ∧
      ((t.gateBehind = true ∧ s.irrevocable f = t.holdOwn) ∨
        (t.gateBehind = false ∧ t.me.canCommit t.me.rs.gate.length = false ∧ s.irrevocable f = t.hold .transfer) ∨
        (t.gateBehind = false ∧ t.me.canCommit t.me.rs.gate.length = true ∧
          s.irrevocable f = f ((t.commitKeep t.cur).modSlot (fun c => { c with markNext := true }))))) := by
  unfold State.irrevocable
  cases h1 : s.slot.settled
  · exact .inl ⟨rfl, rfl⟩
  · cases h2 : State.settleOwn s.me.devReads.length s with
    | error t => exact .inr (.inl ⟨rfl, t, rfl, rfl⟩)
    | ok t =>
      cases h4 : t.gateBehind
      · cases h3 : t.me.canCommit t.me.rs.gate.length
        · exact .inr (.inr ⟨rfl, t, rfl, .inr (.inl ⟨h4, h3, by simp [h3, h4]⟩)⟩)
        · exact .inr (.inr ⟨rfl, t, rfl, .inr (.inr ⟨h4, h3, by simp [h3, h4]⟩)⟩)
      · exact .inr (.inr ⟨rfl, t, rfl, .inl ⟨h4, by simp [h4]⟩⟩)

/-! ### Messages and events -/

/-- The state without what a message leaves in: what was sent and waits, budgets, and the flows. -/
def State.offLink (s : State) : State :=
  { s with out := [], waitOut := [], ports := Vector.replicate 2 Port.reset, flows := [] }

theorem State.offLink_mem (s : State) : s.offLink.mem = s.mem := rfl
theorem State.offLink_cores (s : State) : s.offLink.cores = s.cores := rfl
theorem State.offLink_ctxs (s : State) : s.offLink.ctxs = s.ctxs := rfl
theorem State.modFlow_offLink (s : State) (p : EthPort) (n : BitVec 10) (f : Flow → Flow) : (s.modFlow p n f).offLink = s.offLink := rfl
theorem State.countBytes_offLink (s : State) (p : EthPort) (n : Nat) (k : Option Nat) (b : Nat) :
    (s.countBytes p n k b).offLink = s.offLink := by
  unfold State.countBytes
  split
  · rfl
  · split <;> rfl
theorem State.transmit_offLink (s : State) (p : EthPort) (n : BitVec 10) (m : Msg) : (s.transmit p n m).offLink = s.offLink := by
  unfold State.transmit
  split
  · rfl
  · split
    · rfl
    · dsimp only
      split <;> exact (State.modFlow_offLink ..).trans (State.countBytes_offLink s ..)

/-- A message sent, with the parts that follow it, changes what was sent, the budgets and the flow, nothing else (R389, R390). -/
theorem State.send_offLink (s : State) (p : EthPort) (n : BitVec 10) (m : Msg) (r : List Msg := []) :
    (s.send p n m r).offLink = s.offLink := by
  unfold State.send
  split
  · rfl
  · split
    · exact foldl_keeps State.offLink _ (fun a b => a.transmit_offLink _ _ _) _ _
    · rfl

/-- A completion changes what was sent, the budgets and the flow, nothing else (R390). -/
theorem State.reply_offLink (s : State) (h : CmdHdr) (code st d : Nat) (r : List Byte) : (s.reply h code st d r).offLink = s.offLink := by
  unfold State.reply
  dsimp only
  split
  · rfl
  · exact s.send_offLink _ _ _ _

theorem State.send_mem (s : State) (p : EthPort) (n : BitVec 10) (m : Msg) : (s.send p n m).mem = s.mem := by
  have h := congrArg State.mem (s.send_offLink p n m)
  rwa [State.offLink_mem, State.offLink_mem] at h
theorem State.send_cores (s : State) (p : EthPort) (n : BitVec 10) (m : Msg) : (s.send p n m).cores = s.cores := by
  have h := congrArg State.cores (s.send_offLink p n m)
  rwa [State.offLink_cores, State.offLink_cores] at h
theorem State.send_ctxs (s : State) (p : EthPort) (n : BitVec 10) (m : Msg) : (s.send p n m).ctxs = s.ctxs := by
  have h := congrArg State.ctxs (s.send_offLink p n m)
  rwa [State.offLink_ctxs, State.offLink_ctxs] at h
theorem State.reply_mem (s : State) (h : CmdHdr) (code st d : Nat) (r : List Byte) : (s.reply h code st d r).mem = s.mem := by
  have h := congrArg State.mem (s.reply_offLink h code st d r)
  rwa [State.offLink_mem, State.offLink_mem] at h
theorem State.reply_cores (s : State) (h : CmdHdr) (code st d : Nat) (r : List Byte) : (s.reply h code st d r).cores = s.cores := by
  have h := congrArg State.cores (s.reply_offLink h code st d r)
  rwa [State.offLink_cores, State.offLink_cores] at h
theorem State.reply_ctxs (s : State) (h : CmdHdr) (code st d : Nat) (r : List Byte) : (s.reply h code st d r).ctxs = s.ctxs := by
  have h := congrArg State.ctxs (s.reply_offLink h code st d r)
  rwa [State.offLink_ctxs, State.offLink_ctxs] at h

/-- The state without what an event may touch: the link, memory with its tables, and the contexts. -/
def State.offEvent (s : State) : State := { s.offLink.offMemory with ctxs := Vector.replicate 65 Ctx.free }

theorem State.offEvent_cores (s : State) : s.offEvent.cores = s.cores := rfl
theorem State.offEvent_core (s : State) (c : CoreIx) : s.offEvent.core c = s.core c := rfl
theorem State.offEvent_groups (s : State) : s.offEvent.groups = s.groups := rfl
theorem State.offEvent_tiles (s : State) : s.offEvent.tiles = s.tiles := rfl
theorem State.offEvent_links (s : State) : s.offEvent.links = s.links := rfl
theorem State.offEvent_of_offLink {s t : State} (h : t.offLink = s.offLink) : t.offEvent = s.offEvent := by
  unfold State.offEvent
  rw [h]
theorem State.offEvent_of_offMemory {s t : State} (h : t.offMemory = s.offMemory) : t.offEvent = s.offEvent :=
  show { t.offMemory.offLink with ctxs := Vector.replicate 65 Ctx.free } = _ by rw [h]; rfl
theorem State.modCtx_offEvent (s : State) (n : Nat) (f : Ctx → Ctx) : (s.modCtx n f).offEvent = s.offEvent := by
  unfold State.modCtx State.setCtx
  split <;> rfl

theorem State.mapRing_offEvent (s : State) (n q : Nat) : (s.mapRing n q).offEvent = s.offEvent := by
  unfold State.mapRing
  dsimp only
  split
  · rfl
  · exact s.modCtx_offEvent n _

theorem State.ringWrite_offEvent (s : State) (n q seq : Nat) (bs : List Byte) : (s.ringWrite n q seq bs).offEvent = s.offEvent := by
  unfold State.ringWrite
  dsimp only
  split
  · exact (State.offEvent_of_offMemory (State.putMem_offMemory _ _ _)).trans (s.modCtx_offEvent n _)
  · exact (State.modCtx_offEvent _ n _).trans (s.modCtx_offEvent n _)

theorem State.eventQueue_offEvent (s : State) (n : Nat) (e : Event) : (s.eventQueue n e).offEvent = s.offEvent := by
  unfold State.eventQueue
  split
  · rfl
  · dsimp only
    split
    · exact (State.modCtx_offEvent _ n _).trans (s.mapRing_offEvent n _)
    · exact (State.modCtx_offEvent _ n _).trans ((State.ringWrite_offEvent _ n _ _ _).trans (s.mapRing_offEvent n _))

theorem State.deliverEvent_offEvent (s : State) (n : Nat) (e : Event) : (s.deliverEvent n e).offEvent = s.offEvent := by
  unfold State.deliverEvent
  split
  · exact State.offEvent_of_offLink (s.send_offLink _ _ _)
  · exact s.modCtx_offEvent n _

/-- An event changes the contexts, device memory through the event queue, and what was sent; no core, group, tile or link (R78). -/
theorem State.event_offEvent (s : State) (n code : Nat) (d : List Byte) : (s.event n code d).offEvent = s.offEvent := by
  unfold State.event
  dsimp only
  refine (State.deliverEvent_offEvent _ n _).trans ?_
  split
  · exact s.modCtx_offEvent n _
  · exact (State.eventQueue_offEvent _ n _).trans (s.modCtx_offEvent n _)

theorem State.event_cores (s : State) (n code : Nat) (d : List Byte) : (s.event n code d).cores = s.cores := by
  have h := congrArg State.cores (s.event_offEvent n code d)
  rwa [State.offEvent_cores, State.offEvent_cores] at h
theorem State.event_core (s : State) (n code : Nat) (d : List Byte) (c : CoreIx) : (s.event n code d).core c = s.core c := by
  have h := congrArg (State.core · c) (s.event_offEvent n code d)
  rwa [State.offEvent_core, State.offEvent_core] at h
theorem State.event_groups (s : State) (n code : Nat) (d : List Byte) : (s.event n code d).groups = s.groups := by
  have h := congrArg State.groups (s.event_offEvent n code d)
  rwa [State.offEvent_groups, State.offEvent_groups] at h
theorem State.event_tiles (s : State) (n code : Nat) (d : List Byte) : (s.event n code d).tiles = s.tiles := by
  have h := congrArg State.tiles (s.event_offEvent n code d)
  rwa [State.offEvent_tiles, State.offEvent_tiles] at h
theorem State.event_links (s : State) (n code : Nat) (d : List Byte) : (s.event n code d).links = s.links := by
  have h := congrArg State.links (s.event_offEvent n code d)
  rwa [State.offEvent_links, State.offEvent_links] at h

end Sys2Proof.Machine
end

