-- ==== Sys2Proof/Laws/Messages.lean ====
section
/-! SUPPORT. What a message that arrives in order does (R391, R392), said once: `State.receive_arrives`; and what is left to show of a
command: `CmdForm.of_checks`. -/

namespace Sys2Proof.Machine

/-- The one flow of a name is found. -/
theorem State.flow_of_filter (s : State) (p : EthPort) (n : BitVec 10) (f : Flow)
    (h : s.flows.filter (fun g => decide (g.port = p ∧ g.no = n)) = [f]) : s.flow p n = some f := by
  rw [State.flow, ← List.head?_filter, h]; rfl

/-- A change that keeps a flow's name. -/
def Flow.KeepsName (g : Flow → Flow) : Prop := ∀ f, (g f).port = f.port ∧ (g f).no = f.no

/-- A change of a flow, seen through its name. -/
theorem State.modFlow_filter (s : State) (p : EthPort) (n : BitVec 10) (g : Flow → Flow) (hk : Flow.KeepsName g) (f : Flow)
    (h : s.flows.filter (fun g => decide (g.port = p ∧ g.no = n)) = [f]) :
    (s.modFlow p n g).flows.filter (fun g => decide (g.port = p ∧ g.no = n)) = [g f] := by
  have hp : f.port = p ∧ f.no = n := by
    have : f ∈ s.flows.filter (fun g => decide (g.port = p ∧ g.no = n)) := by rw [h]; simp
    simpa using (List.mem_filter.mp this).2
  simp only [State.modFlow, List.filter_map]
  rw [show ((fun g : Flow => decide (g.port = p ∧ g.no = n)) ∘ fun f => if f.port = p ∧ f.no = n then g f else f) =
    (fun g => decide (g.port = p ∧ g.no = n)) from funext fun x => by
      simp only [Function.comp]
      split
      · rw [(hk x).1, (hk x).2]
      · rfl, h]
  simp [hp]

theorem State.modFlow_congr (s : State) (p : EthPort) (n : BitVec 10) (g k : Flow → Flow) (f : Flow)
    (h : s.flows.filter (fun g => decide (g.port = p ∧ g.no = n)) = [f]) (he : g f = k f) : s.modFlow p n g = s.modFlow p n k := by
  simp only [State.modFlow]
  congr 1
  apply List.map_congr_left
  intro x hx
  split
  · rename_i hp
    have : x ∈ s.flows.filter (fun g => decide (g.port = p ∧ g.no = n)) := List.mem_filter.mpr ⟨hx, by simpa using hp⟩
    rw [h, List.mem_singleton] at this
    rw [this, he]
  · rfl

theorem State.modFlow_modFlow (s : State) (p : EthPort) (n : BitVec 10) (g k : Flow → Flow) (hk : Flow.KeepsName g) :
    (s.modFlow p n g).modFlow p n k = s.modFlow p n (fun f => k (g f)) := by
  simp only [State.modFlow, List.map_map]
  congr 1
  apply List.map_congr_left
  intro x hx
  simp only [Function.comp]
  split
  · rename_i hp; simp [hk x, hp]
  · simp

/-- What an acknowledgement does to its flow. -/
theorem State.takeAck_spec (s : State) (p : EthPort) (n : BitVec 10) (a : BitVec 32) (k : BitVec 64) (f : Flow)
    (h : s.flows.filter (fun g => decide (g.port = p ∧ g.no = n)) = [f]) :
    ∃ g : Flow → Flow, (∀ x, g x = { x with unacked := (g x).unacked, sacked := (g x).sacked, retries := (g x).retries }) ∧
      ∃ r, s.takeAck p n a k = { (s.modFlow p n g) with hostReqs := r } := by
  unfold State.takeAck
  rw [s.flow_of_filter p n f h]
  dsimp only
  split
  · exact ⟨_, fun x => rfl, s.hostReqs, rfl⟩
  · exact ⟨_, fun x => rfl, _, rfl⟩

/-- A message whose homes are all in reach does not wait for a route. -/
theorem State.hostWaits_of_reach (s : State) (n : Nat) (p : EthPort) (m : InMsg) (h : ∀ d, s.dieReach (portDie p) d = true) :
    s.hostWaits n p m = false := by
  simp [State.hostWaits, h]

/-- A message in order is taken, applied for its flow's context and acknowledged; its form is asked for under the current generation. -/
theorem State.receive_inTurn (s : State) (h : Hdr) (m : InMsg) (f : Flow) (ha : s.inTurn h m f)
    (ht : h.tag = s.tagOf f.ctx ∨ s.earlier f.ctx h.tag = true) (hg : h.tag = s.tagOf f.ctx → s.goodForm f h m = true) :
    s.receive h m = ((s.taken h f m).apply f.ctx h m).afterMessage h := by
  obtain ⟨h1, h2, ⟨hd, hv, h3, h4, h5⟩, h7, h8, h9, h10, h11, hreach⟩ := ha
  have h6 : ¬ (h.tag = s.tagOf f.ctx ∧ s.goodForm f h m = false) := by
    rintro ⟨ha, hb⟩; rw [hg ha] at hb; exact absurd hb (by decide)
  have hscr : s.screen h = (some f, s) := by
    have h5' : (f.opens h).isNone = false := by cases ho : f.opens h <;> simp_all
    simp only [State.screen, h1, s.flow_of_filter _ _ _ h2, h3, h4, h5', hd, hv, thtPort]
    simp [ht]
  obtain ⟨g, hg, r, hr⟩ := s.takeAck_spec h.port h.flow h.ack h.sack f h2
  have hgn : Flow.KeepsName g := fun x => by rw [hg x]; exact ⟨rfl, rfl⟩
  have hf := s.modFlow_filter _ _ g hgn f h2
  have hgf := hg f
  generalize g f = q at *
  have hq : q.rx = f.rx ∧ q.held = f.held ∧ q.inq = f.inq ∧ q.ctx = f.ctx := by rw [hgf]; exact ⟨rfl, rfl, rfl, rfl⟩
  simp only [State.receive, hscr, h6, if_false]
  have hcap : ∀ v : State, v = s.takeAck h.port h.flow h.ack h.sack → v.underCap h.port f.ctx m.cls = true ∧
      ∀ d, v.dieReach (portDie h.port) d = true := by
    intro v hv; rw [hv, hr]; exact ⟨h11, hreach⟩
  unfold State.taken
  generalize hu : s.takeAck h.port h.flow h.ack h.sack = u at *
  have hu' : u.flows.filter (fun g => decide (g.port = h.port ∧ g.no = h.flow)) = [q] := by rw [hr]; exact hf
  have hlt : ¬ h.seq.toNat < f.rx := by omega
  have hne : ¬ (f.rx + 64 ≤ h.seq.toNat ∨ 262144 < s.shareUsed h.port f.ctx + m.payload) := by omega
  simp only [h8, List.any_nil, Bool.false_eq_true, or_false, hlt, hne, if_false, State.acceptMsg]
  have hc : u.modFlow h.port h.flow (fun f => if h.seq.toNat = f.rx then
      Flow.pull f.held.length { f with rx := f.rx + 1, inq := f.inq ++ [(h, m)], pendAck := f.pendAck + 1 }
      else { f with held := f.held ++ [(h.seq.toNat, h, m)], pendAck := f.pendAck + 1 }) = u.modFlow h.port h.flow (fun f =>
        { f with rx := f.rx + 1, inq := [(h, m)], pendAck := f.pendAck + 1 }) := by
    apply u.modFlow_congr _ _ _ _ q hu'
    rw [if_pos (by rw [hq.1, h7]), hq.2.1, h8, hq.2.2.1, h9]
    rfl
  rw [hc]
  have hk2 : Flow.KeepsName (fun f : Flow => { f with rx := f.rx + 1, inq := [(h, m)], pendAck := f.pendAck + 1 }) := fun x => ⟨rfl, rfl⟩
  have hw := u.modFlow_filter h.port h.flow _ hk2 q hu'
  generalize hwd : u.modFlow h.port h.flow (fun f => { f with rx := f.rx + 1, inq := [(h, m)], pendAck := f.pendAck + 1 }) = w at *
  have hcw : w.underCap h.port f.ctx m.cls = true := by rw [← hwd]; exact (hcap u rfl).1
  have hrw : w.hostWaits f.ctx h.port m = false := w.hostWaits_of_reach _ _ _ (by rw [← hwd]; exact (hcap u rfl).2)
  rw [w.flow_of_filter _ _ _ hw]
  simp only [Option.map_some, Option.getD_some, List.length_singleton]
  rw [State.serve, w.flow_of_filter _ _ _ hw]
  simp only [hq.2.2.2, hcw, hrw, Bool.not_true, Bool.or_self, Bool.false_eq_true, if_false, State.serve]
  have hfin : (w.countBytes h.port f.ctx m.cls m.payload).modFlow h.port h.flow (fun f => { f with inq := [] }) =
      (u.modFlow h.port h.flow (fun g => { g with rx := g.rx + 1, inq := [], pendAck := g.pendAck + 1 })).countBytes h.port f.ctx m.cls m.payload := by
    have : ∀ (v : State) (k : Flow → Flow), (v.countBytes h.port f.ctx m.cls m.payload).modFlow h.port h.flow k =
        (v.modFlow h.port h.flow k).countBytes h.port f.ctx m.cls m.payload := by
      intro v k
      cases hm : m.cls with
      | none => rfl
      | some j =>
        simp only [State.countBytes]
        split <;> rfl
    rw [this, ← hwd, u.modFlow_modFlow _ _ _ _ hk2]
  rw [hfin]
  rfl
/-- The same for a message of the current generation or an earlier one that is well formed. -/
theorem State.receive_arrives (s : State) (h : Hdr) (m : InMsg) (f : Flow) (ha : s.arrives h m f)
    (ht : h.tag = s.tagOf f.ctx ∨ s.earlier f.ctx h.tag = true) :
    s.receive h m = ((s.taken h f m).apply f.ctx h m).afterMessage h := s.receive_inTurn h m f ha.1 ht (fun _ => ha.2)

/-- A command follows its form when performing it does. -/
theorem CmdForm.of_perform {i : CmdHdr → Instr} {c : Cmd} {code : Nat} {right stateOk operands room : State → CmdHdr → Prop}
    {eff : State → CmdHdr → State} (hx : ∀ h s, exec (i h) s = .next (s.receiveCmd h c))
    (hp : ∀ (u : State) (h : CmdHdr),
      (¬ right u h → u.perform h c = u.reply h code 3) ∧ (right u h → ¬ stateOk u h → u.perform h c = u.reply h code 1) ∧
      (right u h → stateOk u h → ¬ operands u h → u.perform h c = u.reply h code 2) ∧
      (right u h → stateOk u h → operands u h → ¬ room u h → u.perform h c = u.reply h code 5) ∧
      (right u h → stateOk u h → operands u h → room u h → u.perform h c = eff u h)) : CmdForm i c code right stateOk operands room eff := by
  intro s h f hd
  obtain ⟨ha, ht, hturn⟩ := hd
  have hr : exec (i h) s = .next (((s.taken h.hdr f (.cmd h c)).perform h c).afterMessage h.hdr) := by
    rw [hx, State.receiveCmd, s.receive_arrives h.hdr _ f ha (Or.inl ht)]
    have hct : (s.taken h.hdr f (.cmd h c)).tagOf f.ctx = s.tagOf f.ctx := by
      have h1 : ∀ v : State, ∀ b, (v.countBytes h.hdr.port f.ctx b (InMsg.cmd h c).payload).ctxs = v.ctxs := by
        intro v b; unfold State.countBytes; split
        · rfl
        · split <;> rfl
      have h2 : (s.takeAck h.hdr.port h.hdr.flow h.hdr.ack h.hdr.sack).ctxs = s.ctxs := by
        unfold State.takeAck; split
        · rfl
        · dsimp only; split <;> rfl
      simp only [State.tagOf, State.ctx, State.taken, h1]
      simp only [State.modFlow, h2]
    rw [State.apply, hct, if_neg (by simp [ht])]
    simp only [State.command]
    congr 2
    rcases hturn with ho | ⟨hb, hq, hm⟩
    · rw [if_pos ho]
    · by_cases ho : (s.taken h.hdr f (.cmd h c)).overtakes h c = true
      · rw [if_pos ho]
      · rw [if_neg ho, hb, hq, hm]; rfl
  obtain ⟨p1, p2, p3, p4, p5⟩ := hp (s.taken h.hdr f (.cmd h c)) h
  exact ⟨fun a => by rw [hr, p1 a], fun a b => by rw [hr, p2 a b], fun a b d => by rw [hr, p3 a b d],
    fun a b d e => by rw [hr, p4 a b d e], fun a b d e => by rw [hr, p5 a b d e]⟩


/-- A command follows its form when its four checks are the form's and its act is. -/
theorem CmdForm.of_checks {i : CmdHdr → Instr} {c : Cmd} {code : Nat} {right stateOk operands room : State → CmdHdr → Prop}
    {eff : State → CmdHdr → State} (R S O M : State → CmdHdr → Bool) (E : State → CmdHdr → State) (hx : ∀ h s, exec (i h) s = .next (s.receiveCmd h c))
    (hp : ∀ (u : State) (h : CmdHdr), u.perform h c = match firstRefusal (R u h) (S u h) (O u h) (M u h) with
      | some e => u.reply h code e
      | none => E u h)
    (hR : ∀ u h, R u h = true ↔ right u h) (hS : ∀ u h, right u h → (S u h = true ↔ stateOk u h))
    (hO : ∀ u h, right u h → stateOk u h → (O u h = true ↔ operands u h))
    (hM : ∀ u h, right u h → stateOk u h → operands u h → (M u h = true ↔ room u h))
    (hE : ∀ u h, right u h → stateOk u h → operands u h → room u h → E u h = eff u h) : CmdForm i c code right stateOk operands room eff := by
  apply CmdForm.of_perform hx
  intro u h
  rw [hp]
  have hR := hR u h; have hS := hS u h; have hO := hO u h; have hM := hM u h; have hE := hE u h
  refine ⟨fun a => ?_, fun a b => ?_, fun a b d => ?_, fun a b d e => ?_, fun a b d e => ?_⟩
  · have : R u h = false := by rw [← Bool.not_eq_true, hR]; exact a
    simp [firstRefusal, this]
  · have h1 := hR.mpr a
    have : S u h = false := by rw [← Bool.not_eq_true, hS a]; exact b
    simp [firstRefusal, this, h1]
  · have h1 := hR.mpr a
    have h2 := (hS a).mpr b
    have : O u h = false := by rw [← Bool.not_eq_true, hO a b]; exact d
    simp [firstRefusal, this, h1, h2]
  · have h1 := hR.mpr a
    have h2 := (hS a).mpr b
    have h3 := (hO a b).mpr d
    have : M u h = false := by rw [← Bool.not_eq_true, hM a b d]; exact e
    simp [firstRefusal, this, h1, h2, h3]
  · have h1 := hR.mpr a
    have h2 := (hS a).mpr b
    have h3 := (hO a b).mpr d
    have h4 := (hM a b d).mpr e
    simp [firstRefusal, h1, h2, h3, h4, hE a b d e]

end Sys2Proof.Machine
end

