-- ==== Sys2Proof/Tests/Slice0.lean ====
section
/-! SUPPORT. Tests: ill-formed terms that the checks refuse, words written out from the spec's encodings, single steps with results worked
out by hand from the rules, and for every statement a state and operands that meet its hypotheses. -/

namespace Sys2Proof.Tests
open Sys2Proof Sys2Proof.Machine
set_option Elab.async false

/-! ### Well-formedness: an ill-formed term for each check -/

/-- A k register field above 7 (R171). -/
theorem test_wf_kField : (Instr.kand 8 0 0).wellFormed = false ∧ (Instr.kand 7 7 7).wellFormed = true := by decide
/-- Under L the replaced field is zero (R171). -/
theorem test_wf_litField : (Instr.add 1 2 3 true).wellFormed = false ∧ (Instr.add 1 2 0 true).wellFormed = true := by decide
/-- L selects a literal that the bundle must hold (R156). -/
theorem test_wf_litMissing : (Instr.add 1 2 0 true).litOk none = false ∧ (Instr.add 1 2 0 true).litOk (some 5) = true := by decide
/-- Scope codes 5 to 7 (R169). -/
theorem test_wf_scope : (Instr.fenceAcq 5).wellFormed = false ∧ (Instr.fenceAcq 4).wellFormed = true := by decide
/-- A shift amount above 63, in imm15 and in the literal (R183). -/
theorem test_wf_shift : (Instr.shli 1 2 64).wellFormed = false ∧ (Instr.shli 1 2 63).wellFormed = true ∧
    (Instr.shli 1 2 0x4000).litOk (some 64) = false ∧ (Instr.shli 1 2 0x4000).litOk (some 63) = true := by decide
/-- The immediate marker without a literal (Table 7.4). -/
theorem test_wf_marker : (Instr.addi 1 2 0x4000).litOk none = false ∧ (Instr.addi 1 2 0x3FFF).litOk none = true := by decide
/-- A literal offset that is no multiple of the size (R172). -/
theorem test_wf_offset : (Instr.ldD 1 2 0 0x1000).litOk (some 4) = false ∧ (Instr.ldD 1 2 0 0x1000).litOk (some 8) = true ∧
    (Instr.ldD 1 2 0 0x1000).litOk none = false := by decide
/-- Space 3 is no buffer; QFILL takes XB for an A queue and WB for a B queue; VST takes XB and GB (Table 8.4, R211, R216). -/
theorem test_wf_space : (Instr.ldW 1 2 3 0).wellFormed = false ∧ (Instr.ldW 1 2 2 0).wellFormed = true ∧
    (Instr.qfill 4 0 0 0).wellFormed = false ∧ (Instr.qfill 4 0 1 0).wellFormed = true ∧
    (Instr.vst 0 0 1 0).wellFormed = false ∧ (Instr.vst 0 0 2 0).wellFormed = true := by decide
/-- GB is no endpoint of a copy, and device memory none of a broadcast (R281, R283). -/
theorem test_wf_endpoint : (Instr.cpy 0 1 2 3 false 2 0).wellFormed = false ∧ (Instr.cpy 0 1 2 3 false 3 0).wellFormed = true ∧
    (Instr.cpyb 0 1 2 3 false 3 0).wellFormed = false ∧ (Instr.cpyb 0 1 2 3 false 1 1).wellFormed = true := by decide
/-- A destination specifier is no special one, a special source has index 0, and the views agree (R157, R245). -/
theorem test_wf_specifiers : (Instr.vadd 0xC0 0 0 false).wellFormed = false ∧ (Instr.vadd 0 0 0xC1 false).wellFormed = false ∧
    (Instr.vadd 0x40 0 0 false).wellFormed = false ∧ (Instr.vadd 8 8 0xC0 false).wellFormed = true := by decide
/-- The register ranges of SETSHAPE and SETTILE, the number of TRAP (R194, R195, R197). -/
theorem test_wf_ranges : (Instr.setshape 31 0 0).wellFormed = false ∧ (Instr.setshape 30 0 0).wellFormed = true ∧
    (Instr.settile 30 0).wellFormed = false ∧ (Instr.settile 29 29).wellFormed = true ∧
    (Instr.trap 1024).wellFormed = false ∧ (Instr.trap 1023).wellFormed = true := by decide
/-- Order codes, the 8-byte flag of AMO.CAS, an empty mask, a copy of a half onto itself (R221, R222, R236, R239, R291, R298). -/
theorem test_wf_codes : (Instr.amoAdd 1 2 3 4 0 true).wellFormed = false ∧ (Instr.amoCas 1 2 3 2 0 0 true).wellFormed = false ∧
    (Instr.qfence 0).wellFormed = false ∧ (Instr.tissue 1 0).wellFormed = false ∧ (Instr.gcopy 1 1).wellFormed = false ∧
    (Instr.mpop 0 0 0).wellFormed = false ∧ (Instr.mpop 1 0 2).wellFormed = false := by decide

/-! ### Single steps -/

/-- Core 0 in a resident group of context 1 (log 11), with some registers written. -/
def on (l : List (BitVec 5 × Word)) : State :=
  (State.reset.withFetchWord 32 0).modMe (fun k => l.foldl (fun k p => k.wx p.1 p.2) k)
/-- What is asked of the next state. -/
def after {α : Type} (o : Host.Outcome State Fault Refusal) (p : State → α) : Option α :=
  match o with
  | .next t => some (p t)
  | _ => none
/-- The exposed results of an instruction. -/
def gives (i : Instr) (s : State) : Option (List (Dst × Word)) := after (exec i s) (fun t => t.me.rs.pend.map (fun e => (e.dst, e.val)))
/-- The trap that an instruction takes: group ended with this cause, since no handler is set (R404). -/
def traps (i : Instr) (s : State) : Option (Option TrapReq) := after (exec i s) (fun t =>
  match t.slot.out with
  | .trap r => some r
  | _ => none)
/-- The cause of the trap that an instruction takes. -/
def cause (i : Instr) (s : State) : Option (Option (BitVec 9)) := (traps i s).map (fun r => r.map TrapReq.cause)
/-- The same with a literal in the bundle. -/
def withLit (s : State) (c : Cell) : State := s.modSlot (fun t => { t with lit := some c })

/-- R158: a sum wraps modulo 2^64. -/
theorem test_add_wraps : gives (.add 9 8 7 false) (on [(8, -1), (7, 2)]) = some [(.x 9, 1)] := by decide +kernel
/-- R182: the literal is sign-extended. -/
theorem test_sub_literal : gives (.sub 9 8 0 true) (withLit (on [(8, 1)]) 0xFFFFFFFF) = some [(.x 9, 2)] := by decide +kernel
theorem test_andn : gives (.andn 9 8 7 false) (on [(8, 0xFF), (7, 0x0F)]) = some [(.x 9, 0xF0)] := by decide +kernel
/-- R182: a shift uses bits 5:0 of its amount. -/
theorem test_shl_amount : gives (.shl 9 8 7 false) (on [(8, 3), (7, 65)]) = some [(.x 9, 6)] := by decide +kernel
theorem test_shr_top : gives (.shr 9 8 7 false) (on [(8, 0x8000000000000000), (7, 63)]) = some [(.x 9, 1)] := by decide +kernel
theorem test_sar_sign : gives (.sar 9 8 7 false) (on [(8, 0x8000000000000000), (7, 63)]) = some [(.x 9, -1)] := by decide +kernel
/-- R182: ROT rotates left. -/
theorem test_rot_left : gives (.rot 9 8 7 false) (on [(8, 0x8000000000000001), (7, 4)]) = some [(.x 9, 0x18)] := by decide +kernel
theorem test_min_signed : gives (.min 9 8 7 false) (on [(8, -1), (7, 1)]) = some [(.x 9, -1)] := by decide +kernel
theorem test_minu_unsigned : gives (.minu 9 8 7 false) (on [(8, -1), (7, 1)]) = some [(.x 9, 1)] := by decide +kernel
theorem test_max_signed : gives (.max 9 8 7 false) (on [(8, -1), (7, 1)]) = some [(.x 9, 1)] := by decide +kernel
theorem test_maxu_unsigned : gives (.maxu 9 8 7 false) (on [(8, -1), (7, 1)]) = some [(.x 9, -1)] := by decide +kernel
theorem test_slt_sltu : gives (.slt 9 8 7 false) (on [(8, -1), (7, 1)]) = some [(.x 9, 1)] ∧
    gives (.sltu 9 8 7 false) (on [(8, -1), (7, 1)]) = some [(.x 9, 0)] := by decide +kernel
theorem test_seq : gives (.seq 9 8 8 false) (on [(8, -1)]) = some [(.x 9, 1)] := by decide +kernel
/-- R184: the halves of a signed and an unsigned product. -/
theorem test_mulh_mulhu : gives (.mulh 9 8 7 false) (on [(8, -1), (7, 2)]) = some [(.x 9, -1)] ∧
    gives (.mulhu 9 8 7 false) (on [(8, -1), (7, 2)]) = some [(.x 9, 1)] := by decide +kernel
/-- R184: the corners of division. -/
theorem test_div_corners : gives (.div 9 8 0 false) (on [(8, 5)]) = some [(.x 9, -1)] ∧
    gives (.div 9 8 7 false) (on [(8, 0x8000000000000000), (7, -1)]) = some [(.x 9, 0x8000000000000000)] := by decide +kernel
theorem test_div_truncates : gives (.div 9 8 7 false) (on [(8, -7), (7, 2)]) = some [(.x 9, -3)] := by decide +kernel
theorem test_rem_corners : gives (.rem 9 8 0 false) (on [(8, 5)]) = some [(.x 9, 5)] ∧
    gives (.rem 9 8 7 false) (on [(8, 0x8000000000000000), (7, -1)]) = some [(.x 9, 0)] := by decide +kernel
theorem test_rem_sign : gives (.rem 9 8 7 false) (on [(8, -7), (7, 2)]) = some [(.x 9, -1)] := by decide +kernel
theorem test_divu_remu : gives (.divu 9 8 7 false) (on [(8, -1), (7, 16)]) = some [(.x 9, 0x0FFFFFFFFFFFFFFF)] ∧
    gives (.remu 9 8 7 false) (on [(8, -1), (7, 16)]) = some [(.x 9, 15)] := by decide +kernel
/-- R185: SEL with s = x0 takes b. -/
theorem test_sel : gives (.sel 9 8 7 false 6) (on [(8, 1), (7, 2), (6, 0x100)]) = some [(.x 9, 1)] ∧
    gives (.sel 9 8 7 false 0) (on [(8, 1), (7, 2)]) = some [(.x 9, 2)] := by decide +kernel
/-- R186: the worked values of the rule. -/
theorem test_clzB : gives (.clz 5 6 0) (on [(6, 0x000000000180FF10)]) = some [(.x 5, 0x0808080807000003)] := by decide +kernel
theorem test_ffsH : gives (.ffs 5 6 1) (on [(6, 0x000000000180FF10)]) = some [(.x 5, 0x0000000000080005)] := by decide +kernel
theorem test_popcD : gives (.popc 5 6 3) (on [(6, 0x000000000180FF10)]) = some [(.x 5, 11)] := by decide +kernel
theorem test_bextB : gives (.bext 5 6 7 false 0) (on [(6, 0x000000000180FF10), (7, 0xF0)]) = some [(.x 5, 1)] := by decide +kernel
theorem test_binsB : gives (.bins 5 6 7 false 0) (on [(6, 0x5), (7, 0xF0)]) = some [(.x 5, 0x50)] := by decide +kernel
theorem test_ctz_zero : gives (.ctz 5 6 3) (on []) = some [(.x 5, 64)] := by decide +kernel
theorem test_brevB : gives (.brev 5 6 0) (on [(6, 0x0180)]) = some [(.x 5, 0x8001)] := by decide +kernel
/-- R187: KFIRST and KPOPC of an empty mask; KNOT. -/
theorem test_kfirst_empty : gives (.kfirst 5 1) (on []) = some [(.x 5, 64)] ∧ gives (.kpopc 5 1) (on []) = some [(.x 5, 0)] := by decide +kernel
theorem test_knot : gives (.knot 2 1) (on []) = some [(.k 2, -1)] := by decide +kernel
/-- R183: an immediate is sign-extended; LI takes 15 bits. -/
theorem test_addi_negative : gives (.addi 9 8 0x7FFF) (on [(8, 1)]) = some [(.x 9, 0)] := by decide +kernel
theorem test_li : gives (.li 8 5) (on []) = some [(.x 8, 5)] := by decide +kernel
/-- R158: a write of x0 is discarded. -/
theorem test_x0_discards : gives (.addi 0 8 1) (on [(8, 1)]) = some [] := by decide +kernel
/-- R188: a taken branch goes to the bundle's address plus twice the offset and costs a cycle; one not taken goes on. -/
theorem test_branch : after (exec (.bLt 8 7 0xFFD) (on [(8, -1)])) (fun t => (t.slot.npc, t.slot.lost)) = some (-6, true) ∧
    after (exec (.bLtu 8 7 0xFFD) (on [(8, -1)])) (fun t => t.slot.lost) = some false := by decide +kernel
/-- R190: LOOP on 0, 1 and 2. -/
theorem test_loop : gives (.loop 8 0xFFD) (on []) = some [] ∧
    after (exec (.loop 8 0xFFD) (on [(8, 1)])) (fun t => (t.slot.npc, t.slot.lost)) = some (0, true) ∧
    after (exec (.loop 8 0xFFD) (on [(8, 2)])) (fun t => (t.slot.npc, t.slot.lost)) = some (-6, false) := by decide +kernel
/-- R189: RET to an odd address and outside the code range. -/
theorem test_ret : cause (.ret 8) (on [(8, 0x10001)]) = some (some 0x072) ∧ cause (.ret 8) (on [(8, 0x20000)]) = some (some 0x072) ∧
    after (exec (.ret 8) (on [(8, 0x1FFFE)])) (fun t => t.slot.npc) = some 0x1FFFE := by decide +kernel
/-- R195: the worked values of the rule. -/
theorem test_settile : gives (.settile 20 10)
      ((on [(10, 100), (11, 70), (12, 40)]).modMe (fun k => { k with shp := 0x184040 })) =
    some [(.x 20, 40), (.x 21, 64), (.x 22, 40), (.shape, 0x184028)] := by decide +kernel
theorem test_settile_zero : gives (.settile 20 10) ((on [(11, 70), (12, 40)]).modMe (fun k => { k with shp := 0x184040 })) =
    some [(.x 20, 0), (.x 21, 64), (.x 22, 40)] := by decide +kernel
/-- R191: a read-only number and a reserved one. -/
theorem test_csrw_traps : cause (.csrw 8 0x011) (on []) = some (some 0x016) ∧ cause (.csrw 8 0x007) (on []) = some (some 0x017) := by
  decide +kernel
theorem test_csrw_tvec : after (exec (.csrw 8 0x030) (on [(8, 0x10080)])) (fun t => t.me.ctl.tvec) = some 0x10080 := by decide +kernel
/-- R197, R403: TRAP enters the handler with its number and the address after the packet. -/
theorem test_trap : after (exec (.trap 7) ((on []).modMe (fun k => { k with ctl := { k.ctl with tvec := 0x10080 } }))) (fun t =>
    (t.me.ctl.cause, t.me.ctl.tval, t.me.ctl.pc, t.me.ctl.inTrap)) = some (0x0D0, 7, 0x10080, true) := by decide +kernel
/-- R198: ERET outside trap handling is the cause 0x0E1. -/
theorem test_eret : cause .eret (on []) = some (some 0x0E1) := by decide +kernel
/-- R404: a trap without a handler ends the group. -/
theorem test_trap_unhandled : after (exec (.eret) (on [])) (fun t => t.groups.map (fun g => g.st)) = some [.ended] := by decide +kernel

/-- XB of core 0 with bytes from address 0. -/
def xbOf (s : State) (b : List Byte) : State := s.modMe (fun k => { k with xb := k.xb.store 0 b })

/-- R207: LD.B extends its sign, LD.BU does not. -/
theorem test_ldB : gives (.ldB 5 8 0 1) (xbOf (on []) [0x11, 0x80]) = some [(.x 5, 0xFFFFFFFFFFFFFF80)] ∧
    gives (.ldBu 5 8 0 1) (xbOf (on []) [0x11, 0x80]) = some [(.x 5, 0x80)] := by decide +kernel
theorem test_ldH : gives (.ldH 5 8 0 1) (xbOf (on []) [1, 2, 0x34, 0x92]) = some [(.x 5, 0xFFFFFFFFFFFF9234)] ∧
    gives (.ldHu 5 8 0 1) (xbOf (on []) [1, 2, 0x34, 0x92]) = some [(.x 5, 0x9234)] := by decide +kernel
/-- R172, R206: the offset counts in units of the size. -/
theorem test_ldW : gives (.ldW 5 8 0 0x1FFF) (xbOf (on [(8, 4)]) [1, 2, 3, 0x84]) = some [(.x 5, 0xFFFFFFFF84030201)] ∧
    gives (.ldWu 5 8 0 0x1FFF) (xbOf (on [(8, 4)]) [1, 2, 3, 0x84]) = some [(.x 5, 0x84030201)] := by decide +kernel
theorem test_ldD : gives (.ldD 5 8 0 0) (xbOf (on []) [1, 2, 3, 4, 5, 6, 7, 8]) = some [(.x 5, 0x0807060504030201)] := by decide +kernel
/-- R103: a store waits in the gate, with the low bytes of its register. -/
theorem test_stH : after (exec (.stH 5 8 0 1) (on [(5, 0x12345678)])) (fun t => (t.me.rs.gate, t.me.xb)) =
    some ([⟨.xb, 2, 2, 0, [0x78, 0x56]⟩], []) := by decide +kernel
theorem test_stB_stD : after (exec (.stB 5 8 1 1) (on [(5, 0x12345678)])) (fun t => t.me.rs.gate) = some [⟨.wb, 1, 1, 0, [0x78]⟩] ∧
    after (exec (.stD 5 8 2 0) (on [(5, 1)])) (fun t => t.me.rs.gate) = some [⟨.gb, 0, 0, 0, [1, 0, 0, 0, 0, 0, 0, 0]⟩] := by decide +kernel
theorem test_stW_bounds : cause (.stW 5 8 2 0) (on [(8, 65536)]) = some (some 0x050) ∧
    cause (.stW 5 8 2 0) (on [(8, 65530)]) = some (some 0x060) := by decide +kernel
/-- R209: LDG is outstanding until it returns; its value is sign-extended. -/
theorem test_ldgB_returns : after (exec (.ldgB 5 8 0) (on [(8, 0x10002)])) (fun t =>
    (t.me.rs.ldgs.length, after (exec (.ldgReturn 0) { t with mem := t.mem.store 0x10002 [0xFE] }) (fun u => u.me.rx 5))) =
    some (1, some 0xFFFFFFFFFFFFFFFE) := by decide +kernel
theorem test_ldgD_misaligned : cause (.ldgD 5 8 0) (on [(8, 0x10004)]) = some (some 0x060) := by decide +kernel
theorem test_stgW : after (exec (.stgW 5 8 0) (on [(5, 0x01020304), (8, 0x10010)])) (fun t => t.me.rs.gate) =
    some [⟨.dm, 0x10010, 0x10010, 0, [4, 3, 2, 1]⟩] := by decide +kernel
/-- R102: the commit stores what the gate holds. -/
theorem test_commit : (((on []).modRs 0 (fun r => { r with gate := [⟨.xb, 2, 2, 0, [5, 6]⟩, ⟨.xb, 3, 3, 0, [7]⟩] })).commitAll 0).me.xb =
    [(2, 5), (3, 7)] := by decide +kernel
/-- R211, R212: QFILL takes a row from the space of its queue; QFILLT a column of 64 rows. -/
theorem test_qfill : after (exec (.qfill 1 8 0 0) (xbOf (on []) [1, 2, 3, 4, 5])) (fun t =>
    ((t.me.grid.queue 1).entries.map (fun e => (e.data.at 0, e.data.at 1)), (t.me.grid.queue 1).f)) = some ([(0x04030201, 5)], 1) := by
  decide +kernel
theorem test_qfillt : after (exec (.qfillt 1 8 0 0) ((on []).modMe (fun k => { k with xb := (k.xb.store 0 [9]).store 256 [7] }))) (fun t =>
    (t.me.grid.queue 1).entries.map (fun e => (e.data.at 0, e.data.at 1))) = some [(9, 7)] := by decide +kernel
/-- R213: QFILLG settles later. -/
theorem test_qfillg : after (exec (.qfillg 1 8 0) (on [(8, 0x10000)])) (fun t =>
    (t.me.grid.queue 1).entries.map (fun e => (e.va, e.settled))) = some [(0x10000, false)] := by decide +kernel
/-- R214: a count of 0 or above 64 is the reserved-field detail. -/
theorem test_qfillgFf : cause (.qfillgFf 1 8 7) (on [(8, 0x10000)]) = some (some 0x013) ∧
    cause (.qfillgFf 1 8 7) (on [(8, 0x10000), (7, 65)]) = some (some 0x013) ∧
    after (exec (.qfillgFf 1 8 7) (on [(8, 0x10000), (7, 64)])) (fun t => (t.me.grid.queue 1).fillN) = some 1 := by decide +kernel
/-- R215: VLD and VST name row and address. -/
theorem test_vld_vst : after (exec (.vld 40 8 1) (on [(8, 4)])) (fun t => t.slot.pkt.xfers) = some [⟨40, false, true, 260⟩] ∧
    after (exec (.vst 5 8 0 0) (on [])) (fun t => t.slot.pkt.xfers) = some [⟨5, true, false, 0⟩] := by decide +kernel
/-- R218: SEND to the core itself, and outside a timed region without a joined peer. -/
theorem test_send : cause (.send 7 8 0) (on [(7, 0x0100)]) = some (some 0x013) ∧
    cause (.send 7 8 0) (on [(7, 0x0101)]) = some (some 0x0A0) := by decide +kernel
theorem test_recv : cause (.recv 7 8 0) (on [(7, 0x0000)]) = some (some 0x013) ∧ cause (.recv 7 8 0) (on [(7, 0x0101), (8, 32)]) = some (some 0x060) := by
  decide +kernel
/-- Device memory with four bytes at the code page. -/
def dmOf (s : State) (a : Nat) (b : List Byte) : State := { s with mem := s.mem.store a b }
/-- R221: the old value is sign-extended, the new one stored. -/
theorem test_amoAdd : after (exec (.amoAdd 5 8 7 0 0 false) (dmOf (on [(8, 0x10020), (7, 2)]) 0x10020 [0xFF, 0xFF, 0xFF, 0xFF])) (fun t =>
    (t.me.rs.pend.map (fun e => e.val), t.mem.le 0x10020 4)) = some ([-1], 1) := by decide +kernel
theorem test_amoMin_amoMax : after (exec (.amoMin 5 8 7 0 0 false) (dmOf (on [(8, 0x10020), (7, 2)]) 0x10020 [0xFF, 0xFF, 0xFF, 0xFF])) (fun t =>
    t.mem.le 0x10020 4) = some 0xFFFFFFFF ∧
    after (exec (.amoMax 5 8 7 0 0 false) (dmOf (on [(8, 0x10020), (7, 2)]) 0x10020 [0xFF, 0xFF, 0xFF, 0xFF])) (fun t =>
    t.mem.le 0x10020 4) = some 2 := by decide +kernel
theorem test_amoXchg_and_or : after (exec (.amoXchg 5 8 7 0 0 true) (on [(8, 0x10020), (7, -1)])) (fun t => t.mem.le 0x10020 8) =
    some 0xFFFFFFFFFFFFFFFF ∧
    after (exec (.amoAnd 5 8 7 0 0 false) (dmOf (on [(8, 0x10020), (7, 6)]) 0x10020 [3])) (fun t => t.mem.le 0x10020 4) = some 2 ∧
    after (exec (.amoOr 5 8 7 0 0 false) (dmOf (on [(8, 0x10020), (7, 6)]) 0x10020 [3])) (fun t => t.mem.le 0x10020 4) = some 7 := by
  decide +kernel
/-- R222: a failed compare writes nothing. -/
theorem test_amoCas : after (exec (.amoCas 5 8 7 0 0 0 false) (dmOf (on [(8, 0x10020), (7, 6), (5, 3)]) 0x10020 [3])) (fun t => t.mem.le 0x10020 4) = some 6 ∧
    after (exec (.amoCas 5 8 7 0 0 0 false) (dmOf (on [(8, 0x10020), (7, 6), (5, 4)]) 0x10020 [3])) (fun t => t.mem.le 0x10020 4) = some 3 := by
  decide +kernel
/-- R223: AMOSC waits for a position that its core owns. -/
theorem test_amoscAdd : after (exec (.amoscAdd 5 8 7 false) (on [(8, 0x10020), (7, 2)])) (fun t => t.mem.le 0x10020 4) = some 2 ∧
    after (exec (.amoscAdd 5 8 7 false) { on [(8, 0x10020), (7, 2)] with wheel := 1 }) (fun t => (t.me.ctl.wait, t.mem.le 0x10020 4)) =
      some (some .calender, 0) := by decide +kernel
theorem test_amoscCas : after (exec (.amoscCas 5 8 7 false) (on [(8, 0x10020), (7, 2)])) (fun t => t.mem.le 0x10020 4) = some 2 := by
  decide +kernel
/-- R225: FENCE changes no register and no memory. -/
theorem test_fence : after (exec (.fenceRel 3) (on [(8, 1)])) (fun t => (t.me.rx 8, t.me.rs.pend, t.me.ctl.wait)) = some (1, [], none) ∧
    after (exec .fenceSc { on [] with wheel := 1 }) (fun t => t.me.ctl.wait) = some (some .calender) := by decide +kernel

/-! ### The grid side -/

/-- Core 0 on the grid side with a packet of a format and shape. -/
def gridOn (fmt shp : Word) (f : Grid → Grid) : State :=
  ((on []).modGrid 0 f).modSlot (fun c => { c with side := .grid, pkt := { c.pkt with fmt := fmt, shp := shp } })
/-- A grid row that begins with some cells. -/
def row (l : List Cell) : Row := Vector.ofFn (fun j => l.getD j.val 0)
/-- A queue entry that has been delivered. -/
def entry (r : Row) : QEntry :=
  { seq := 0, ord := 0, bun := 0, va := 0, ff := none, settled := true, data := r, src := ⟨.xb, false, []⟩, due := 0, present := true }
/-- The grid with one entry at the head of a queue. -/
def feed (q : BitVec 3) (r : Row) (g : Grid) : Grid := g.setQueue q { g.queue q with entries := [entry r], fillN := 1, f := 1 }
/-- The grid after every write of an instruction. -/
def wrote {α : Type} (i : Instr) (s : State) (p : Grid → α) : Option α := after (exec i s) (fun t =>
  p (t.me.grid.inflight.foldl (fun k f => k.applyFlight f) t.me).grid)

/-- R142: each step of the worked RKS example adds 2^-144 to a cell. -/
theorem test_rks : wrote (.rks 0 0 3 1 2) (gridOn 0x10624033 0x4040 (fun g =>
    { feed 0 (Vector.replicate 64 0x78787878) (feed 4 (Vector.replicate 64 0x78787878) g) with
      e := Vector.replicate 8 (Vector.replicate 64 47) })) (fun g => g.cell 3 5) = some 0x20 := by decide +kernel
/-- R231: cell (i, j) takes the product of element i of the A entry and element j of the B entry; the entries are popped. -/
theorem test_rk : wrote (.rk 0 0 3) (gridOn 0 0x4040 (fun g =>
    feed 0 (row [0x3F800000, 0x40000000]) (feed 4 (row [0x40400000, 0x40800000]) g))) (fun g =>
      (g.cell 1 0, g.cell 0 1, g.cell 2 0, (g.queue 0).p, (g.queue 4).entries.length)) = some (0x40C00000, 0x40800000, 0, 1, 0) := by decide +kernel
/-- R231: RKN subtracts. -/
theorem test_rkn : wrote (.rkn 0 0 3) (gridOn 0 0x4040 (fun g =>
    feed 0 (row [0x3F800000]) (feed 4 (row [0x40400000]) g))) (fun g => g.cell 0 0) = some 0xC0400000 := by decide +kernel
/-- R234: RKA subtracts the zero points: INT8 (5 - 2) * (7 - 3) in the first of four elements, (0 - 2) * (0 - 3) in the others. -/
theorem test_rka : wrote (.rka 0 0 3 1 2) (gridOn 0xB66 0x4040 (fun g =>
    { feed 0 (row [5]) (feed 4 (row [7]) g) with qs := (g.qs.set 1 ⟨0x3F800000, 2⟩).set 2 ⟨0x3F800000, 3⟩ })) (fun g => g.cell 0 0) =
    some 30 := by decide +kernel
/-- R235, R161: GZERO of the deckle leaves the cells outside it. -/
theorem test_gzero : wrote (.gzero 2) (gridOn 0 0x010201 (fun g => (g.setRow 1 (row [1, 2, 3])).setRow 2 (row [4]))) (fun g =>
    (g.cell 1 1, g.cell 1 2, g.cell 2 0)) = some (0, 3, 4) := by decide +kernel
theorem test_gcopy : wrote (.gcopy 1 0) (gridOn 0 0x4040 (fun g => g.setRow 1 (row [7]))) (fun g => (g.cell 33 0, g.cell 1 0)) = some (7, 7) := by
  decide +kernel
theorem test_gxpose : wrote .gxpose (gridOn 0 0x4040 (fun g => g.setRow 1 (row [7, 8, 9]))) (fun g => (g.cell 2 1, g.cell 1 2)) = some (9, 0) := by
  decide +kernel
/-- R238: 3.0 times the literal 0.5. -/
theorem test_gscale : wrote (.gscaleLiteral 2) (withLit (gridOn 0 0x4040 (fun g => g.setRow 1 (row [0x40400000]))) 0x3F000000) (fun g => g.cell 1 0) =
    some 0x3FC00000 := by decide +kernel
theorem test_mpop : wrote (.mpop 0 1 2) (gridOn 0 0x4040 (fun g => feed 0 (row []) (feed 5 (row []) g))) (fun g =>
    ((g.queue 0).entries.length, (g.queue 5).entries.length)) = some (1, 0) := by decide +kernel

/-- A V slot on rows 1 and 2 into row 3, its first cell. -/
def vOn (i : Instr) (fmt : Word) (a b c : Cell) : Option Cell :=
  wrote i (gridOn fmt 0x4040 (fun g => ((g.setRow 1 (row [a])).setRow 2 (row [b])).setRow 3 (row [c]))) (fun g => g.cell 3 0)
/-- R252: 1 + 2, 1 - 2, 2 * 3, 2 * 3 + 1, 2 * 3 - 1, 1 - 2 * 3. -/
theorem test_vadd_vsub : vOn (.vadd 3 1 2 false) 0 0x3F800000 0x40000000 0 = some 0x40400000 ∧
    vOn (.vsub 3 1 2 false) 0 0x3F800000 0x40000000 0 = some 0xBF800000 := by decide +kernel
theorem test_vmul_vfma : vOn (.vmul 3 1 2 false) 0 0x40000000 0x40400000 0 = some 0x40C00000 ∧
    vOn (.vfma 3 1 2 false) 0 0x40000000 0x40400000 0x3F800000 = some 0x40E00000 := by decide +kernel
theorem test_vfms_vfnma : vOn (.vfms 3 1 2 false) 0 0x40000000 0x40400000 0x3F800000 = some 0x40A00000 ∧
    vOn (.vfnma 3 1 2 false) 0 0x40000000 0x40400000 0x3F800000 = some 0xC0A00000 := by decide +kernel
/-- R252: a NaN beside a number yields the number. -/
theorem test_vmin_vmax : vOn (.vmin 3 1 2 false) 0 0x7FC00000 0x40400000 0 = some 0x40400000 ∧
    vOn (.vmax 3 1 2 false) 0 0xBF800000 0xC0000000 0 = some 0xBF800000 := by decide +kernel
theorem test_vabs_vneg_vcpys : vOn (.vabs 3 1 false) 0 0xC0000000 0 0 = some 0x40000000 ∧ vOn (.vneg 3 1 false) 0 0 0 0 = some 0x80000000 ∧
    vOn (.vcpys 3 1 2 false) 0 0x40000000 0x80000000 0 = some 0xC0000000 := by decide +kernel
/-- R253: wrap, and clamp under SAT. -/
theorem test_viadd : vOn (.viadd 3 1 2 false) 0 0x7FFFFFFF 1 0 = some 0x80000000 ∧
    vOn (.viadd 3 1 2 false) 0x08000000 0x7FFFFFFF 1 0 = some 0x7FFFFFFF := by decide +kernel
theorem test_visub_vimul : vOn (.visub 3 1 2 false) 0 0 1 0 = some 0xFFFFFFFF ∧ vOn (.vimul 3 1 2 false) 0 0x10001 0x10000 0 = some 0x10000 := by
  decide +kernel
theorem test_vimulh : vOn (.vimulh 3 1 2 false) 0 0xFFFFFFFF 2 0 = some 0xFFFFFFFF := by decide +kernel
theorem test_vimin_vimax : vOn (.vimin 3 1 2 false) 0 0xFFFFFFFF 1 0 = some 0xFFFFFFFF ∧ vOn (.vimax 3 1 2 false) 0 0xFFFFFFFF 1 0 = some 1 := by
  decide +kernel
theorem test_vand_vor_vxor : vOn (.vand 3 1 2 false) 0 12 10 0 = some 8 ∧ vOn (.vor 3 1 2 false) 0 12 10 0 = some 14 ∧
    vOn (.vxor 3 1 2 false) 0 12 10 0 = some 6 := by decide +kernel
theorem test_vshl_vshr_vsar : vOn (.vshl 3 1 2 false) 0 1 33 0 = some 2 ∧ vOn (.vshr 3 1 2 false) 0 0x80000000 31 0 = some 1 ∧
    vOn (.vsar 3 1 2 false) 0 0x80000000 31 0 = some 0xFFFFFFFF := by decide +kernel
/-- R254: BF16 times FP16, 1.5 * 2.0. -/
theorem test_vmulw : vOn (.vmulw 3 1 2 false) 0x021 0x3FC0 0x4000 0 = some 0x40400000 := by decide +kernel
/-- R255: k1 takes the comparison of every lane; the other k registers keep theirs. -/
theorem test_vcmpGt : wrote (.vcmpGt 1 1 2 false) (gridOn 0 0x4040 (fun g => (g.setRow 1 (row [0x40000000, 0, 0x7FC00000])))) (fun g =>
    (g.rk 1, g.rk 2)) = some (1, 0) := by decide +kernel
theorem test_vcmpUn : wrote (.vcmpUn 1 1 2 false) (gridOn 0 0x4040 (fun g => (g.setRow 1 (row [0x40000000, 0, 0x7FC00000])))) (fun g => g.rk 1) =
    some 4 := by decide +kernel
/-- R256: VSEL by k0. -/
theorem test_vsel : wrote (.vsel 3 1 2) (gridOn 0 0x4040 (fun g =>
    { (g.setRow 1 (row [5, 6])).setRow 2 (row [7, 8]) with k := g.k.set 0 2 })) (fun g => (g.cell 3 0, g.cell 3 1)) = some (7, 6) := by decide +kernel
/-- R257: −0 is class 3, a signalling NaN class 8. -/
theorem test_vclass : vOn (.vclass 3 1 false) 0 0x80000000 0 0 = some 8 ∧ vOn (.vclass 3 1 false) 0 0x7F800001 0 0 = some 0x100 := by decide +kernel
/-- R258: exact cases of the special functions. -/
theorem test_vexp2 : vOn (.vexp2 3 1 false) 0 0x40400000 0 0 = some 0x41000000 := by decide +kernel
theorem test_vlog2 : vOn (.vlog2 3 1 false) 0 0x41000000 0 0 = some 0x40400000 := by decide +kernel
theorem test_vrcp_vsqrt : vOn (.vrcp 3 1 false) 0 0x40000000 0 0 = some 0x3F000000 ∧ vOn (.vsqrt 3 1 false) 0 0x40800000 0 0 = some 0x40000000 := by
  decide +kernel
/-- R261: 1.0 to BF16, to binary8p4 and to INT8. -/
theorem test_vcvt : vOn (.vcvt 3 1 false) 0x100 0x3F800000 0 0 = some 0x3F80 ∧ vOn (.vcvt 3 1 false) 0x100300 0x41800000 0 0 = some 0x60 ∧
    vOn (.vcvt 3 1 false) 0x600 0xC0000000 0 0 = some 0xFE := by decide +kernel
/-- R267: the sum over the lanes of the deckle, in every lane of the destination. -/
theorem test_vredSum : wrote (.vredSum 3 1 false) (gridOn 0xB0B 0x0304 (fun g => g.setRow 1 (row [5, 6, 7, 9]))) (fun g => g.cell 3 2) =
    some 18 := by decide +kernel
theorem test_vscanSum : wrote (.vscanSum 3 1 false) (gridOn 0xB0B 0x4040 (fun g => g.setRow 1 (row [5, 6, 7]))) (fun g =>
    (g.cell 3 0, g.cell 3 1, g.cell 3 2)) = some (5, 11, 18) := by decide +kernel
/-- R269 to R272. -/
theorem test_vrot : wrote (.vrot 3 1 1 false) (gridOn 0 0x4040 (fun g => g.setRow 1 (row [5, 6, 7]))) (fun g => (g.cell 3 0, g.cell 3 1, g.cell 3 63)) =
    some (0, 5, 0) := by decide +kernel
theorem test_vmov_vperm : vOn (.vmov 3 1 false) 0 9 0 0 = some 9 ∧ vOn (.vperm 3 1 2 false) 0 9 0 0 = some 9 := by decide +kernel

/-! ### Witnesses: S slots

For every statement a state and operands that meet its hypotheses, clause by clause, at the ends of their ranges. -/

/-- Core 0 with a change to it. -/
def me (f : Core → Core) : State := (on []).modMe f
/-- Core 0 in a timed region that opened at cycle 0. -/
def inTimed (s : State) : State := s.modMe (fun k => { k with region := { k.region with start := some 0 } })
/-- Core 0 with a handler. -/
def handled (s : State) : State := s.modMe (fun k => { k with ctl := { k.ctl with tvec := 0x10080 } })
/-- Core 0 with `n` places of its replay log filled. -/
def logged (n : Nat) (s : State) : State := s.modMe (fun k => { k with rs := { k.rs with log := List.replicate n (some 7) } })
/-- Core 0 in replay. -/
def replaying (s : State) : State := s.modMe (fun k => { k with ctl := { k.ctl with st := .replay } })

theorem witness_IntegerAluTable : ((true = true) → (0 : BitVec 5) = 0 ∧ (some (5 : Cell)).isSome = true) ∧
    ((false = true) → (31 : BitVec 5) = 0 ∧ (none : Option Cell).isSome = true) ∧ 0x011 ≤ (0x011 : BitVec 9).toNat ∧
    0x011 ≤ (0x1FF : BitVec 9).toNat := by decide
theorem witness_MultiplyDivide : ((true = true) → (0 : BitVec 5) = 0 ∧ (some (5 : Cell)).isSome = true) ∧ 0x007 ≤ (0x007 : BitVec 9).toNat := by
  decide
theorem witness_SelectPicks : ((true = true) → (0 : BitVec 5) = 0 ∧ (some (5 : Cell)).isSome = true) ∧ (0 : BitVec 5) = 0 := by decide
theorem witness_ImmediateForms : ((0x4000 : BitVec 15) = 0x4000 → (some (63 : Cell)).isSome = true) ∧ shiftAmount (some 63) 0x4000 ∧
    shiftAmount none 63 ∧ shiftAmount none 0 ∧ ¬ shiftAmount (some 64) 0x4000 ∧ ¬ shiftAmount none 64 ∧ (1 : BitVec 5) ≠ 0 ∧
    (0x14 ≤ (0x14 : BitVec 7).toNat ∧ (0x16 : BitVec 7).toNat ≤ 0x16) := by
  simp [shiftAmount]
theorem witness_PackedBits : 0 < 64 / (8 * 2 ^ (3 : BitVec 2).toNat) ∧ 7 < 64 / (8 * 2 ^ (0 : BitVec 2).toNat) := by decide
theorem witness_ResultsLandAtTheirCount : (1 : BitVec 5) ≠ 0 := by decide
theorem witness_ControlTransfers :
    (let s := on [(8, 0x10000), (7, 0x1FFFE)]
     (s.rx 8).getLsbD 0 = false ∧ (s.env s.cur).codeVa.toNat ≤ (s.rx 8).toNat ∧ (s.rx 7).getLsbD 0 = false ∧
       (s.rx 7).toNat < (s.env s.cur).codeVa.toNat + (s.env s.cur).codeLen) ∧
    let s := on [(8, 0x10001), (7, 0xFFFE), (6, 0x20000)]
    (s.rx 8).getLsbD 0 = true ∧ (s.rx 7).toNat < (s.env s.cur).codeVa.toNat ∧
      (s.env s.cur).codeVa.toNat + (s.env s.cur).codeLen ≤ (s.rx 6).toNat := by decide +kernel
theorem witness_ControlRegisterReads :
    (let s := logged 31 (on [])
     s.me.ctl.st ≠ .replay ∧ s.me.rs.log.length < 32 ∧ s.me.xbCap = 2097152 ∧ s.me.wbCap = 2097152 ∧ s.me.gbCap = 65536 ∧
       s.me.grid.pkts = [] ∧ s.me.grid.giq = [] ∧ s.me.grid.couch.active = false) ∧
    (let s := me (fun k => { k with xbCap := 1048576, wbCap := 1048576 })
     s.me.xbCap = 1048576 ∧ s.me.wbCap = 1048576 ∧ s.me.gbCap = 65536) ∧
    (csrListed 0x033 = true ∧ (replaying (logged 1 (on []))).me.logged = some 7) ∧
    (let s := me (fun k => { k with grid := { k.grid with giq := [GridPkt.empty] }, rs := { k.rs with fwd := 1 } })
     s.me.ctl.st ≠ .replay ∧ s.me.rs.log.length < 32 ∧ s.me.gridBusy = true) ∧
    (let s := logged 32 (on [])
     csrListed 0x000 = true ∧ s.me.ctl.st ≠ .replay ∧ s.me.rs.log.length = 32) := by decide +kernel
/-- A couch operation runs, and the grid is busy, outside and inside a timed region. -/
theorem witness_control_register_holds :
    (let s := me (fun k => { k with grid := { k.grid with couch := { k.grid.couch with active := true } } })
     s.me.ctl.st ≠ .replay ∧ s.me.rs.log.length < 32 ∧ s.me.grid.couch.active = true ∧ s.me.timed = false ∧ (inTimed s).me.timed = true) ∧
    (let s := inTimed (me (fun k => { k with grid := { k.grid with giq := [GridPkt.empty] }, rs := { k.rs with fwd := 1 } }))
     s.me.ctl.st ≠ .replay ∧ s.me.rs.log.length < 32 ∧ s.me.gridBusy = true ∧ s.me.timed = true) := by decide +kernel
theorem witness_ControlRegisterWrites :
    (let s := on [(8, 0x10080), (7, 127), (6, 0x00FF0101)]
     s.unblocked ∧ (s.rx 8).getLsbD 0 = false ∧ (s.rx 7).toNat < 128 ∧ s.rx 6 &&& 0xFFFFFFFFFF00FE00 = 0 ∧ (s.rx 6).getLsbD 8 = true ∧
       s.rx 0 &&& 0xFFFFFFFFFF00FE00 = 0 ∧ (s.rx 0).getLsbD 8 = false ∧ s.me.grid.giq = [] ∧ s.me.grid.fwdCount ≤ s.me.rs.fwd) ∧
    (let s := me (fun k => { k with grid := { k.grid with fwdCount := 1 } })
     ¬ s.me.grid.fwdCount ≤ s.me.rs.fwd) ∧
    csrListed 0x006 = false ∧ csrListed 0xFFF = false ∧ ((5 : BitVec 12).toNat ≤ 5) ∧
    (let s := on [(8, 128), (7, 0x200), (6, 1)]
     128 ≤ (s.rx 8).toNat ∧ s.rx 7 &&& 0xFFFFFFFFFF00FE00 ≠ 0 ∧ (s.rx 6).getLsbD 0 = true) := by
  unfold State.unblocked Core.gateFree; decide +kernel
theorem witness_FormatAndDeckle :
    let s := on [(8, 0x3FFFFF), (7, 0x400000)]
    (s.rx 8).toNat < 2 ^ 22 ∧ 2 ^ 22 ≤ (s.rx 7).toNat := by decide +kernel
theorem witness_TrapsAndReturn :
    ((handled (on [])).unblocked ∧ (handled (on [])).handlerReady ∧ (handled (on [])).me.settled = true) ∧
    (me (fun k => { k with ctl := { k.ctl with inTrap := true } })).me.ctl.inTrap = true ∧ (on []).me.ctl.inTrap = false ∧
    (let s := (handled (on [])).modMe (fun k => { k with ctl := { k.ctl with pendTrap := some ⟨0x050, 1, 2, 3⟩ } })
     (s.core 0).ctl.pendTrap = some ⟨0x050, 1, 2, 3⟩ ∧ (s.core 0).settled = true ∧ (s.core 0).gateFree ∧ (s.core 0).ctl.inTrap = false ∧
       (s.core 0).ctl.tvec ≠ 0 ∧ (s.core 0).region.start = none) ∧
    ((on []).core 0).ctl.inTrap = false ∧ ((on []).core 0).ctl.tvec = 0 := by
  unfold State.unblocked Core.gateFree State.handlerReady; decide +kernel
/-- Group 1 with a change to it. -/
def inGroup (f : Group → Group) : State := { on [] with groups := (on []).groups.map f }
theorem witness_SynchronisationAndEnd :
    (let s := me (fun k => { k with ctl := { k.ctl with csyncAt := some 0 } })
     s.unblocked ∧ s.me.ctl.csyncAt = some 0 ∧ (0 : Word).toNat ≤ (s.cyc s.cur).toNat ∧ s.me.timed = false) ∧
    (let s := inTimed (me (fun k => { k with ctl := { k.ctl with csyncAt := some 0 } }))
     s.unblocked ∧ s.noOpenWindow ∧ s.me.grp.isSome = true) ∧
    (let s := on []
     ∃ g, s.myGroup = some g ∧ s.unblocked ∧ (s.env s.cur).bmask.getLsbD (15 : BitVec 4).toNat = true ∧ g.bar.broken = false ∧
       (15, g.rankOf s.cur) ∉ g.bar.arr ∧ s.othersArrived g 15 ∧ s.me.timed = false ∧
       (∀ w ∈ g.bar.w, w.1 = g.rankOf s.cur → w.2.1 ≠ 15)) ∧
    (let s := inGroup (fun g => { g with n := 2, cores := [0, 1] })
     ∃ g, s.myGroup = some g ∧ ¬ s.othersArrived g 0) ∧
    (let s := inGroup (fun g => { g with bar := { g.bar with arr := [(3, 0)] } })
     ∃ g, s.myGroup = some g ∧ (3, g.rankOf s.cur) ∈ g.bar.arr) ∧
    (let s := inGroup (fun g => { g with bar := { g.bar with w := [(0, 3, 5)] } })
     ∃ g, s.myGroup = some g ∧ ∃ w ∈ g.bar.w, w.1 = g.rankOf s.cur ∧ w.2.1 = 3 ∧ w.2.2 ≠ g.bar.phase 3) ∧
    (let s := inGroup (fun g => { g with env := { g.env with bmask := 0 } })
     (s.env s.cur).bmask.getLsbD (0 : BitVec 4).toNat = false ∧ ((4 : BitVec 3) = 4 → (s.env s.cur).fmask.getLsbD 3 = false)) := by
  unfold State.unblocked Core.gateFree State.noOpenWindow State.othersArrived
  refine ⟨by decide +kernel, by decide +kernel, ⟨_, rfl, by decide +kernel⟩, ⟨_, rfl, by decide +kernel⟩, ⟨_, rfl, by decide +kernel⟩,
    ⟨_, rfl, by decide +kernel⟩, by decide +kernel⟩

/-! ### Witnesses: A slots -/

theorem witness_LoadsReadTheirSpace :
    (let s := logged 31 (on [(8, 1048568)])
     s.inBuffer (spaceOf 0) (s.addr 8 0 8) 8 8 ∧ ¬ (s.me.timed = true ∧ felt (spaceOf 0) (s.addr 8 0 8).toNat 8 = true) ∧
       s.me.ctl.st ≠ .replay ∧ s.me.rs.log.length < 32 ∧ s.me.xferBusy (spaceOf 0) (s.addr 8 0 8).toNat 8 false = false ∧ s.slot.undo = []) ∧
    (let s := logged 32 (on [])
     s.inBuffer (spaceOf 2) (s.addr 8 0 8) 8 8 ∧ s.me.timed = false ∧ s.me.ctl.st ≠ .replay ∧ s.me.rs.log.length = 32) ∧
    (let s := on [(8, 0x1FFF8), (7, 0x1FFFC)]
     s.me.timed = false ∧ (s.addr 8 0 8).toNat % 8 = 0 ∧ s.me.ctl.st ≠ .replay ∧ s.me.rs.log.length < 32 ∧ s.slot.markNext = false ∧
       (s.addr 7 0 8).toNat % 8 ≠ 0) ∧
    (inTimed (on [])).me.timed = true ∧ ((on []).core 0).oldestRead = none ∧
    ∃ t, (let l : Ldg := ⟨0x10000, 0, 5, 0x1FFF8, ⟨8, false⟩, 0, 0⟩
      let s := me (fun k => { k with rs := { k.rs with ldgs := [l], log := [none] } })
      (s.core 0).oldestRead = some (.ldg l) ∧
        s.translate (s.ctxOf 0) (dieOf 0) (some 0) l.va .read l.w.bytes = (.ok 0x1FFF8, t) ∧ t.dieReach (dieOf 0) (homeDie 0x1FFF8) = true ∧
        t.noWalks) := by
  unfold State.inBuffer State.addr State.noWalks
  refine ⟨by decide +kernel, by decide +kernel, by decide +kernel, by decide +kernel, by decide +kernel,
    ⟨_, by decide +kernel, rfl, by decide +kernel, by decide +kernel⟩⟩
theorem witness_StoresEnterTheGate :
    (let s := on [(8, 65532)]
     s.inBuffer (spaceOf 2) (s.addr 8 0 4) 4 4 ∧ s.me.timed = false ∧ s.me.rs.gate.length < 32) ∧
    (let s := inTimed (on [])
     s.inBuffer (spaceOf 0) (s.addr 8 0 4) 4 4 ∧ s.me.timed = true ∧ s.me.xferBusy (spaceOf 0) (s.addr 8 0 4).toNat 4 true = false ∧
       s.ownXfer (spaceOf 0) (s.addr 8 0 4).toNat 4 true = false) ∧
    (let s := inTimed ((on []).modSlot (fun c => { c with pkt := { c.pkt with xfers := [⟨0, true, false, 252⟩] } }))
     s.inBuffer (spaceOf 0) (s.addr 8 63 4) 4 4 ∧ s.me.timed = true ∧ s.ownXfer (spaceOf 0) (s.addr 8 63 4).toNat 4 true = true) ∧
    (let s := me (fun k => { k with rs := { k.rs with gate := List.replicate 32 ⟨.xb, 0, 0, 0, [1]⟩ } })
     s.inBuffer (spaceOf 0) (s.addr 8 0 4) 4 4 ∧ s.me.timed = false ∧ s.me.rs.gate.length = 32) ∧
    (let s := on [(8, 0x1FFFC), (7, 0x10002)]
     s.me.timed = false ∧ (s.addr 7 0 4).toNat % 4 ≠ 0 ∧ (s.addr 8 0 4).toNat % 4 = 0 ∧ s.me.ctl.skip = none ∧ s.me.rs.gate.length < 32 ∧
       s.dieReach (dieOf s.cur) (homeDie 0x1FFFC) = true ∧ (inTimed s).me.timed = true) ∧
    (∃ t, (on [(8, 0x1FFFC)]).translate 1 0 (some 0) 0x1FFFC .write 4 = (.ok 0x1FFFC, t)) ∧
    (∃ f t, (on []).translate 1 0 (some 0) 0 .write 4 = (.error f, t)) ∧
    ((on [(8, 0x1FFFC)]).ctxOf (on [(8, 0x1FFFC)]).cur = 1 ∧ dieOf (on [(8, 0x1FFFC)]).cur = 0 ∧ (on [(8, 0x1FFFC)]).addr 8 0 4 = 0x1FFFC ∧
      (on []).addr 8 0 4 = 0) ∧
    (let s := me (fun k => { k with ctl := { k.ctl with skip := some (0, 0) } })
     s.me.timed = false ∧ (s.addr 8 0 4).toNat % 4 = 0 ∧ s.me.ctl.skip = some (s.me.rs.fwd, s.slot.bunAddr)) := by
  unfold State.inBuffer State.addr
  exact ⟨by decide +kernel, by decide +kernel, by decide +kernel, by decide +kernel, by decide +kernel, ⟨_, rfl⟩, ⟨_, _, rfl⟩, by decide +kernel,
    by decide +kernel⟩
theorem core_reset (c : CoreIx) : State.reset.core c = Core.reset := by simp only [State.core, State.reset, Vector.getElem_replicate]
/-- The state after reset holds canonical stores. -/
theorem canonical_reset : State.reset.memWf := by
  refine ⟨by decide +kernel, fun c => by rw [core_reset]; decide, fun n f hf => ?_⟩
  have h : State.reset.ctx n = Ctx.free := by
    simp only [State.ctx, State.reset, Vector.getElem?_replicate]
    split <;> rfl
  rw [h] at hf
  exact absurd hf (by simp [Ctx.free])
theorem witness_GateCommitsInOrder : State.reset.memWf ∧ State.reset.noWalks ∧ (1 : CoreIx) ≠ 0 ∧ Space.gb ≠ Space.dm ∧
    -- a store of core 0 held for a line whose frame has become context 2's
    (let h : Held := ⟨.dm, 0x10000, 0x10000, 0x10040, [1]⟩
     let s := { (on []).modRs 0 (fun r => { r with gate := [h] }) with
       frames := [{ no := 1, st := .bound, toBound := false, owner := 2, dirty := false, win := none }] }
     (s.core 0).rs.gate = h :: [] ∧ h.space = .dm ∧ s.homeTakes 0 h.addr = false) := by
  refine ⟨canonical_reset, ?_⟩
  unfold State.noWalks; decide +kernel
theorem witness_BufferFaults :
    (let s := on [(8, 1048573), (7, 1048574)]
     (s.env s.cur).extent (spaceOf 0) < (s.addr 8 0 4).toNat + 4 ∧ (s.addr 7 0 2).toNat + 2 ≤ (s.env s.cur).extent (spaceOf 0)) ∧
    let s := on [(8, 1048570)]
    (s.addr 8 0 4).toNat + 4 ≤ (s.env s.cur).extent (spaceOf 0) ∧ (s.addr 8 0 4).toNat % 4 ≠ 0 := by
  unfold State.addr; decide +kernel
theorem witness_QueueFills :
    (let s := (on [(8, 1032444)]).modQ 0 3 (fun u => { u with f := 1 })
     s.inBuffer (spaceOf 0) (s.addr 8 0 256) 16132 4 ∧ (s.me.grid.queue 3).fillN < (s.me.grid.queue 3).f) ∧
    (let s := (on [(8, 1048320)]).modQ 0 0 (fun u => { u with entries := List.replicate 7 (entry (row [])), fillN := 7, f := 7 })
     s.inBuffer (spaceOf 0) (s.addr 8 0 256) 256 4 ∧ (s.me.grid.queue 0).f ≤ (s.me.grid.queue 0).fillN ∧
       (s.me.grid.queue 0).entries.length < 8 ∧ s.me.xferBusy (spaceOf 0) (s.addr 8 0 256).toNat 256 false = false ∧
       s.ownXfer (spaceOf 0) (s.addr 8 0 256).toNat 256 false = false) ∧
    (let s := logged 31 (on [(8, 0x1FF00), (7, 64), (6, 1), (5, 65)])
     s.me.timed = false ∧ (s.addr 8 0 256).toNat % 4 = 0 ∧ s.me.ctl.st ≠ .replay ∧ 0 < (s.rx 6).toNat ∧ (s.rx 7).toNat ≤ 64 ∧
       s.me.rs.log.length < 32 ∧ (s.me.grid.queue 0).f ≤ (s.me.grid.queue 0).fillN ∧ (s.me.grid.queue 0).entries.length < 8 ∧
       s.slot.markNext = false ∧ (s.rx 0).toNat = 0 ∧ 64 < (s.rx 5).toNat) ∧
    ∃ t ps, (let e : QEntry := { entry (row []) with va := 0x1FF00, settled := false, src := ⟨.dm, false, []⟩ }
      let s := (on []).modQ 0 2 (fun u => { u with entries := [e], fillN := 1 })
      ((s.core 0).oldestRead = some (.fill 2 e) ∧ e.ff = none) ∧ (∀ a b, s.dieReach a b = true) ∧
        s.translateRange (s.ctxOf 0) (dieOf 0) (some 0) e.va .read 256 = (.ok ps, t)) := by
  unfold State.inBuffer State.addr
  exact ⟨by decide +kernel, by decide +kernel, by decide +kernel, ⟨_, _, by decide +kernel, by decide +kernel, rfl⟩⟩
/-- Core 0 in a group with core 1, whose crossbar joins them. -/
def joinedPair (l : List (BitVec 5 × Word)) : State :=
  { on l with groups := (on l).groups.map (fun g => { g with n := 2, cores := [0, 1] })
              parts := (on l).parts.set 0 (some { mask := BitVec.allOnes 512, conf := BitVec.allOnes 512, weights := [1], xbar := [(0, 1)], configured := 0, active := some 1 }) }
theorem witness_TransfersAndWindows :
    (let s := on [(8, 65280)]
     s.inBuffer .gb (s.addr 8 0 256) 256 4 ∧ s.inBuffer (spaceOf 2) (s.addr 8 0 256) 256 4) ∧
    (let s := on [(7, 0x0FF01)]
     let v := s.rx 7
     v.extractLsb' 3 5 = 0 ∧ v.extractLsb' 48 16 = 0 ∧ 0 < (v.extractLsb' 8 8).toNat ∧ v.extractLsb' 0 3 ≠ inCluster s.cur ∧
       s.inBuffer .xb (s.addr 8 0 64) (64 * (v.extractLsb' 8 8).toNat) 64 ∧
       s.joined s.cur (coreIn (clusterOf s.cur) (v.extractLsb' 0 3)) = false) ∧
    (let s := joinedPair [(7, 0x00101)]
     s.joined s.cur (coreIn (clusterOf s.cur) 1) = true ∧ s.me.timed = false) ∧
    (let s := inTimed (joinedPair [(7, 0x10101)])
     s.joined s.cur (coreIn (clusterOf s.cur) 1) = true ∧ s.me.timed = true ∧ ((s.rx 7).extractLsb' 16 32).toNat < s.regionCycle s.cur + 2) ∧
    let s := inTimed (joinedPair [(7, 0x20101)])
    s.joined s.cur (coreIn (clusterOf s.cur) 1) = true ∧ s.me.timed = true ∧ s.regionCycle s.cur + 2 ≤ ((s.rx 7).extractLsb' 16 32).toNat ∧
      s.unblocked ∧ s.me.region.sends = [] ∧ s.me.region.recvs = [] ∧ s.me.xferBusy .xb (s.addr 8 0 64).toNat 64 true = false ∧
      s.me.xferBusy .xb (s.addr 8 0 64).toNat 64 false = false ∧ s.ownXfer .xb (s.addr 8 0 64).toNat 64 true = false ∧
      s.ownXfer .xb (s.addr 8 0 64).toNat 64 false = false := by
  unfold State.inBuffer State.addr State.unblocked Core.gateFree; decide +kernel
theorem witness_Atomics : ∃ t, (let s := on [(8, 0x1FFF8)]
    s.unblocked ∧ s.me.timed = false ∧ (s.rx 8).toNat % 8 = 0 ∧ ((4 : BitVec 3) = 4 → (s.env s.cur).fmask.getLsbD 3 = false) ∧
      s.afterGate.translate (s.ctxOf s.cur) (dieOf s.cur) (some s.cur) (s.rx 8) .atomic 8 = (.ok 0x1FFF8, t) ∧
      t.dieReach (dieOf s.cur) (homeDie 0x1FFF8) = true) := by
  unfold State.unblocked Core.gateFree
  exact ⟨_, by decide +kernel, by decide +kernel, by decide +kernel, by decide +kernel, rfl, by decide +kernel⟩
theorem witness_CalenderAndFences :
    (let s := on [(8, 0x1FFF8)]
     s.unblocked ∧ s.me.timed = false ∧ (s.env s.cur).fmask.getLsbD 0 = false ∧ (s.env s.cur).fmask.getLsbD 3 = false ∧
       s.slot.scUsed = false ∧ s.wheel % 512 = s.cur.toNat) ∧
    (let s := { on [] with wheel := 511 }
     s.slot.scUsed = false ∧ s.wheel % 512 ≠ s.cur.toNat ∧ s.wheel % 512 = (511 : CoreIx).toNat) ∧
    (let s := me (fun k => { k with ctl := { k.ctl with wait := some .calender } })
     s.wheel % 512 = (0 : CoreIx).toNat ∧ (s.core 0).ctl.wait = some .calender) ∧
    ((on []).core 0).ctl.wait ≠ some .calender ∧
    (let s := (on []).modSlot (fun c => { c with scUsed := true })
     s.unblocked ∧ s.me.timed = false ∧ s.slot.scUsed = true) ∧
    -- a read of the packet itself that returns before its fence
    let l : Ldg := ⟨0x10000, 0, 5, 0x1FFF8, ⟨8, false⟩, 0, 0⟩
    let s := me (fun k => { k with rs := { k.rs with ldgs := [l], log := [none] } })
    ∃ u, s.slot.settled = true ∧ s.me.devReads.length = [DevRead.ldg l].length ∧ s.readsReturn [.ldg l] u ∧ u.me.gateFree ∧ u.gateBehind = false := by
  unfold State.unblocked Core.gateFree
  exact ⟨by decide +kernel, by decide +kernel, by decide +kernel, by decide +kernel, by decide +kernel, _, by decide +kernel, by decide +kernel,
    ⟨_, by decide +kernel, rfl, rfl⟩, by decide +kernel, by decide +kernel⟩

/-! ### Witnesses: M and V slots -/

theorem rkAccepts_iff (f : Word) : rkAccepts f ↔ (((fmtTA f).code.toNat ≤ 12 ∧ ((fmtTA f).code = 3 ∨ (fmtTA f).code = 4 → (fmtTA f).prec ≠ 0)) ∧
    ((fmtTB f).code.toNat ≤ 12 ∧ ((fmtTB f).code = 3 ∨ (fmtTB f).code = 4 → (fmtTB f).prec ≠ 0)) ∧ (fmtTA f).code.toNat ≤ 10 ∧
    (fmtTB f).code.toNat ≤ 10 ∧ ((fmtTA f).code = 0 → (fmtTB f).code.toNat ≤ 2) ∧ ((fmtTB f).code = 0 → (fmtTA f).code.toNat ≤ 2) ∧
    ((fmtTD f).code = 0 ∨ ((fmtTD f).code = 11 ∧ 6 ≤ (fmtTA f).code.toNat ∧ 6 ≤ (fmtTB f).code.toNat))) := Iff.rfl
theorem witness_rank_k_types : rkAccepts 0 ∧ rkAccepts 0xB66 ∧ rkAccepts 0x10624033 ∧ ¬ rkAccepts 0xB00 ∧
    ¬ rkAccepts 0x00D ∧ ¬ rkAccepts 3 := by
  refine ⟨?_, ?_, ?_, ?_, ?_, ?_⟩ <;> rw [rkAccepts_iff] <;> decide +kernel
theorem witness_GridSlotsJoinTheirPacket :
    ((on []).slot.side = .access) ∧
    ((fmtTA 0x10624033).code ≠ 0 ∧ (fmtTB 0x10624033).code ≠ 0 ∧ (fmtTD 0x10624033).code = 0 ∧ (0x10624033 : Word).getLsbD 28 = true) ∧
    (((fmtTA 0xB0B).code = 0 ∨ (fmtTA 0xB0B).code = 11) ∧ ((fmtTD 0xB0B).code = 0 ∨ (fmtTD 0xB0B).code = 11) ∧
      ¬ ((fmtTA 1).code = 0 ∨ (fmtTA 1).code = 11)) ∧
    -- the room for the scale registers of a group of 64 vectors, and none
    ((6 : BitVec 3).toNat + (grpVecs 0x80 0x4040 - 1) / 32 ≤ 7 ∧ ¬ (7 : BitVec 3).toNat + (grpVecs 0x80 0x4040 - 1) / 32 ≤ 7) ∧
    ((fmtTA 0x600).code = 0 ∧ (fmtTD 0x600).isInt = true) ∧ ((fmtTA 0x006).isInt = true ∧ (fmtTD 0x006).code = 0) ∧
    ((fmtTA 0x100).sound ∧ (fmtTD 0x100).sound ∧ (fmtTA 0x100).code ≠ 12 ∧ (fmtTD 0x100).code ≠ 12 ∧ (fmtTD 0x100).width < 32 ∧
      (fmtTA 0x100).code = 0) ∧
    ((fmtTA 0x001).width < 32 ∧ (fmtTD 0x001).code = 0) ∧ ((fmtTA 0x10000600).code = 0 ∧ (fmtTD 0x10000600).sound ∧
      3 ≤ (fmtTD 0x10000600).code.toNat ∧ (fmtTD 0x10000600).code.toNat ≤ 10 ∧ (0x10000600 : Word).getLsbD 28 = true) ∧
    ((fmtTA 0x0BB).code = 11 ∧ (fmtTB 0x0BB).code = 11) ∧ ¬ ((fmtTA 0x00F).code = 0 ∨ (fmtTA 0x00F).code = 11) := by
  simp only [Ty.sound]; decide +kernel
/-- The least and the largest deckle, and one at the edge of the grid. -/
theorem witness_deckles : (gridOn 0 0x0101 id).deckleOk ∧ (gridOn 0 0x4040 id).deckleOk ∧ (gridOn 0 0x3F0101 id).deckleOk ∧
    (gridOn 0 0x4040 id).slot.side = .grid := by unfold State.deckleOk; decide +kernel
theorem witness_RankKIssues : (gridOn 0 0x4040 id).slot.side = .grid ∧ (gridOn 0 0x4040 id).deckleOk := by unfold State.deckleOk; decide +kernel
/-- The work of a rank-k step of integers. -/
def work : RkWork :=
  { row0 := 32, rows := 32, cols := 64, ta := ⟨10, 0, false⟩, tb := ⟨6, 0, false⟩, td := ⟨11, 0, false⟩, rc := ⟨0, false⟩
    aEnt := [row [], row []], bEnt := [row []], neg := true, za := 5, zb := -3, scale := none, gens := [] }
/-- A flight of the grid. -/
def flight (k : FlKind) : Flight :=
  { fwd := 0, kind := k, due := 3, rows := [], rk := none, vld := none, regs := [], flags := 0, histRows := [], histRegs := [], written := false }
theorem witness_RankKWritesTarget :
    let f : Flight := { flight .m with rk := some work }
    f.rk = some work ∧ f.rows = [] ∧ f.vld = none ∧ f.regs = [] ∧ f.written = false ∧ f.kind = .m ∧ work.row0 + work.rows ≤ 64 ∧ work.cols ≤ 64 := by
  decide +kernel
theorem witness_IntegerRankKIsExact : 63 < 64 ∧ work.scale = none ∧ work.td.code = 11 ∧ work.rc.sat = false ∧ 6 ≤ work.ta.code.toNat ∧
    work.ta.code.toNat ≤ 10 ∧ 6 ≤ work.tb.code.toNat ∧ work.tb.code.toNat ≤ 10 := by decide +kernel
theorem witness_GzeroZeroesItsTarget : ((1 : BitVec 4) ≠ 0 ∨ (0 : BitVec 19) ≠ 0) ∧ (on []).slot.side = .access ∧
    (gridOn 0 0x0101 id).slot.side = .grid ∧ (gridOn 0 0x0101 id).deckleOk ∧ inTarget 0x0101 2 0 0 = true ∧ inTarget 0x0101 2 0 1 = false ∧
    inTarget 0x0101 0 31 63 = true ∧ inTarget 0x0101 0 32 0 = false := by unfold State.deckleOk; decide +kernel
theorem witness_GxposeTransposes : ((0 : BitVec 4) ≠ 0 ∨ (2 : BitVec 2) ≠ 3 ∨ (0 : BitVec 19) ≠ 0) ∧ (on []).slot.side = .access ∧
    (gridOn 0 0x4040 id).slot.side = .grid := by decide +kernel
theorem witness_MatrixMoves : (gridOn 0 0x3F0101 id).slot.side = .grid ∧ (gridOn 0 0x3F0101 id).deckleOk ∧ (1 : BitVec 2).toNat ≤ 1 ∧
    (1 : BitVec 2).toNat ≠ (0 : BitVec 1).toNat := by unfold State.deckleOk; decide +kernel
theorem witness_ElementwiseFloat : (gridOn 0 0x3F0101 id).slot.side = .grid ∧ (gridOn 0 0x3F0101 id).deckleOk ∧ isSpecial 0xBF = false ∧
    isSpecial 0 = false := by unfold State.deckleOk; decide +kernel
theorem witness_ElementwiseInteger : (gridOn 0x08000000 0x4040 id).slot.side = .grid ∧ (gridOn 0x08000000 0x4040 id).deckleOk ∧
    isSpecial 0xBF = false := by unfold State.deckleOk; decide +kernel
theorem witness_VselPicksByK0 : (dstSpec 3 = true ∧ srcSpec 1 = true ∧ srcSpec 0xC0 = true ∧ sameView 3 1 = true ∧ sameView 3 0xC0 = true) ∧
    (on []).slot.side = .access ∧ (gridOn 0 0x4040 id).slot.side = .grid ∧ (gridOn 0 0x4040 id).deckleOk ∧ isSpecial 3 = false := by
  unfold State.deckleOk; decide +kernel
theorem witness_VectorCompares : (gridOn 0 0x3F0101 id).slot.side = .grid ∧ (gridOn 0 0x3F0101 id).deckleOk := by unfold State.deckleOk; decide +kernel
theorem witness_ScalesAndPacking : (gridOn 0x600 0x4040 id).slot.side = .grid ∧ (gridOn 0x600 0x4040 id).deckleOk ∧ isSpecial 0x80 = false ∧
    (fmtTD 0x600).width < 32 ∧ (fmtTD 0xA00).width < 32 := by unfold State.deckleOk; decide +kernel
theorem witness_ReductionsAndScans : (gridOn 0xB0B 0x4040 id).slot.side = .grid ∧ (gridOn 0xB0B 0x4040 id).deckleOk ∧ isSpecial 0x80 = false ∧
    (fmtTA 0xB0B).code = 11 ∧ (0xB0B : Word).getLsbD 27 = false ∧
    (gridOn 0xB0B 0x0101 (fun g => { g with k := g.k.set 0 0 })).redCells 3 1 true = [] ∧ (gridOn 0xB0B 0x0101 id).redCells 3 1 false ≠ [] := by
  unfold State.deckleOk; decide +kernel
theorem witness_VectorTransfers :
    (let s := logged 31 (on [])
     s.slot.side = .access ∧ s.me.timed = false ∧ s.me.ctl.st ≠ .replay ∧ s.me.rs.log.length < 32) ∧
    ((logged 30 (on [])).me.rs.log.length < 31) ∧ ((inTimed (on [])).slot.side = .access ∧ (inTimed (on [])).me.timed = true) ∧
    (let s := ((gridOn 0 0x4040 id).modRs 0 (fun r => { r with fwd := 1, log := [none, none] })).modSlot (fun c =>
      { c with pkt := { c.pkt with log := [1] } })
     s.slot.side = .grid ∧ s.slot.pkt.fwd < s.me.rs.fwd ∧ s.slot.pkt.log = [1] ∧ isSpecial 0xBF = false) ∧
    let s := ((gridOn 0 0x4040 id).modRs 0 (fun r => { r with fwd := 1, log := [none, none] })).modSlot (fun c =>
      { c with pkt := { c.pkt with log := [0, 1] } })
    s.slot.side = .grid ∧ s.slot.pkt.fwd < s.me.rs.fwd ∧ s.slot.pkt.log = [0, 1] := by decide +kernel
theorem witness_VectorTiming :
    (let g := (on []).me.grid
     let o : VOut := { g := g, rows := [], regs := [], flags := 0, n := 64 }
     o.g.inflight = g.inflight ∧ o.g.v0Free = g.v0Free ∧ o.g.v1Free = g.v1Free ∧ g.v0Free ≤ g.cyc) ∧
    (let g := (on [] |>.modGrid 0 (fun g => { g with v0Free := 1 })).me.grid
     g.cyc < g.v0Free) := by decide +kernel

/-! ### Witnesses: C slots and the events of a core -/

/-- A STREAM block, a record, a copy block of two rows. -/
def streamBlock : List Byte :=
  [0, 0, 0, 0, 64, 0, 0, 0] ++ leBytes 8 0x10000 ++ leBytes 8 0x10000 ++ leBytes 8 64 ++ leBytes 4 2 ++ leBytes 4 1 ++ leBytes 8 0x10100 ++
    leBytes 8 0x10200 ++ leBytes 8 0
def copyBlock : List Byte := leBytes 4 64 ++ leBytes 4 2 ++ leBytes 8 64 ++ leBytes 8 64 ++ leBytes 8 0
theorem witness_EngineOperationsEnterTheirQueue :
    (let s := on [(4, 0x1FFC0), (5, 1048512), (6, 64), (7, 3)]
     ((s.third 6 false).toNat % 4 = 0 ∧ (s.third 6 false).toNat ≤ 2 ^ 32) ∧ s.ptOk 3 (s.rx 4) 64 ∧ s.ptOk 0 (s.rx 5) 64 ∧ s.me.timed = false ∧
       s.unblocked ∧ ¬ (s.third 7 false).toNat % 4 = 0 ∧ (s.me.eng[0]).length < 16 ∧
       s.me.xferBusy .xb 1048512 64 false = false ∧ (s.env s.cur).extent (spaceOf 0) < (s.rx 5).toNat + 68 ∧ (s.rx 7).toNat % 4 ≠ 0) ∧
    ((inTimed (on [])).me.timed = true ∧
      16 ≤ ((me (fun k => { k with eng := k.eng.set 0 (List.replicate 16 ⟨0, .cwait 0 1, false, 0, 0, none, [], [], 0⟩) })).me.eng[0]).length) ∧
    (let s := xbOf (on [(4, 256), (5, 512)]) copyBlock
     s.blockOk 0 32 ∧ fieldOf (s.xbNow 0 32) 0 4 = 64 ∧ fieldOf (s.xbNow 0 32) 4 4 = 2 ∧ fieldOf (s.xbNow 0 32) 8 8 = 64 ∧
       fieldOf (s.xbNow 0 32) 24 8 = 0 ∧ (∀ r, r < 2 → s.ptOk 0 (s.rx 4 + BitVec.ofNat 64 r * 64) 64) ∧
       (∀ r, r < 2 → s.ptOk 1 (s.rx 5 + BitVec.ofNat 64 r * 64) 64) ∧ (on []).blockOk 0 32 ∧ fieldOf ((on []).xbNow 0 32) 4 4 = 0) ∧
    (let s := joinedPair [(4, 0x1000040), (6, 64)]
     (s.rx 4).extractLsb' 27 37 = 0 ∧ (s.rx 4).extractLsb' 21 3 = 0 ∧ (s.rx 4).extractLsb' 24 3 ≠ inCluster s.cur ∧
       s.ptOk 1 (((s.rx 4).extractLsb' 0 21).setWidth 64) 64 ∧ s.ptOk 0 (s.rx 5) 64 ∧
       s.joined s.cur (coreIn (clusterOf s.cur) ((s.rx 4).extractLsb' 24 3)) = true ∧
       (on []).joined 0 (coreIn (clusterOf 0) 1) = false) ∧
    (let s := xbOf (on []) streamBlock
     let blk := s.xbNow 0 64
     s.blockOk (s.rx 0) 64 ∧ fieldOf blk 0 1 ≤ 3 ∧ fieldOf blk 1 1 ≤ 1 ∧ fieldOf blk 2 2 = 0 ∧ fieldOf blk 4 4 = 64 ∧ fieldOf blk 24 8 = 64 ∧
       fieldOf blk 32 4 = 2 ∧ fieldOf blk 36 4 = 1 ∧ fieldOf blk 56 8 = 0 ∧ (s.env s.cur).fmask.getLsbD 1 = false ∧
       fieldOf blk 8 8 = 0x10000 ∧ fieldOf blk 16 8 = 0x10000 ∧ fieldOf blk 40 8 = 0x10100 ∧ fieldOf blk 48 8 = 0x10200) ∧
    ((inGroup (fun g => { g with env := { g.env with fmask := 2 } })).env 0).fmask.getLsbD 1 = true ∧
    (let s := on [(5, 4096), (6, 0x1FFFF)]
     1 ≤ (s.rx 5).toNat ∧ (s.rx 5).toNat ≤ 4096 ∧ (s.env s.cur).fmask.getLsbD 2 = false ∧ s.inBuffer .xb (s.rx 0) (8 * 4096) 8 ∧
       (s.third 6 false).toNat < 2 ^ 52) := by
  dsimp only [State.unblocked, Core.gateFree, State.blockOk]
  and_intros <;> first | decide +kernel | (simp only [State.ptOk, State.inBuffer]; decide +kernel)
theorem witness_reductions_and_waits :
    (let s := on [(5, 0x10000), (6, 0x80001000), (7, 255), (8, 256)]
     let d := s.third 6 false
     let n := (d.extractLsb' 0 13).toNat
     1 ≤ n ∧ n ≤ 4096 ∧ (d.extractLsb' 28 2).toNat ≤ 1 ∧ d.extractLsb' 13 15 = 0 ∧ d.extractLsb' 32 32 = 0 ∧
       ¬ (d.getLsbD 31 = true ∧ (d.extractLsb' 28 2).toNat = 1) ∧ s.inBuffer .xb (s.rx 0) (4 * n + if d.getLsbD 31 then 4 * ((n + 63) / 64) else 0) 4 ∧
       (s.rx 5).toNat % 4 = 0 ∧ (s.rx 5).toNat / 16384 = ((s.rx 5).toNat + 4 * n - 1) / 16384 ∧ (s.rx 5).toNat < 2 ^ 52 ∧
       (s.rx 7).toNat ≤ 255 ∧ 255 < (s.rx 8).toNat ∧ ((4 : BitVec 3) = 4 → (s.env s.cur).fmask.getLsbD 3 = false)) ∧
    let s := on [(6, 0x90000001)]
    ((s.third 6 false).getLsbD 31 = true ∧ ((s.third 6 false).extractLsb' 28 2).toNat = 1) := by
  dsimp only [State.inBuffer]; and_intros <;> decide +kernel
/-- A record that computes nothing: TSYNC, every other field zero (R295). -/
def tsync : List Byte := 9 :: List.replicate 63 0
theorem witness_SignalsFencesAndRecords :
    (let s := on [(8, 255)]
     (s.rx 8).toNat ≤ 255 ∧ ((4 : BitVec 3) = 4 → (s.env s.cur).fmask.getLsbD 3 = false) ∧ s.me.timed = false ∧ s.unblocked ∧
       s.me.sigs.length < 16 ∧ (∀ q : Fin 6, s.me.eng[q] = []) ∧ (s.env s.cur).fmask.getLsbD 5 = false ∧ s.me.grid.giq = [] ∧
       s.me.grid.pkts = [] ∧ s.me.tissued.length < 8 ∧ s.blockOk (s.rx 0) 64) ∧
    16 ≤ (me (fun k => { k with sigs := List.replicate 16 ⟨0, 0, 0, 0⟩ })).me.sigs.length ∧
    (let s := me (fun k => { k with eng := k.eng.set 5 [⟨0, .cwait 0 1, false, 0, 0, none, [], [], 0⟩] })
     ∃ q : Fin 6, (0x20 : BitVec 6).getLsbD q.val = true ∧ s.me.eng[q] ≠ []) ∧
    ((inGroup (fun g => { g with env := { g.env with fmask := 32 } })).env 0).fmask.getLsbD 5 = true ∧
    8 ≤ (me (fun k => { k with tissued := List.replicate 8 1 })).me.tissued.length ∧
    (tileOk true true false ((xbOf (on []) tsync).xbNow 0 64) = true ∧ tileOk false true false ((xbOf (on []) tsync).xbNow 0 64) = true ∧
      tileOk true true false ((on []).xbNow 0 64) = false ∧ tileOk false true false ((on []).xbNow 0 64) = false) := by
  simp only [State.inBuffer, State.unblocked, Core.gateFree, State.blockOk]
  exact ⟨by decide +kernel, by decide +kernel, ⟨5, by decide +kernel⟩, by decide +kernel, by decide +kernel, by decide +kernel⟩

/-- A tile record of core 0, and a core that has issued it. -/
def tsyncNode : TileNode := TileNode.fresh 1 (.cluster 0) 1 (.tissue 1 1 0 0) tsync 0
/-- A TEXEC behind a TSYNC of the core, behind packets of the grid, and behind neither. -/
theorem witness_texec_waits :
    (let s := { xbOf (me (fun k => { k with tissued := [1] })) tsync with tiles := [tsyncNode] }
     ∃ t ∈ s.tiles, t.id ∈ s.me.tissued ∧ t.bytes.headD 0 = 9) ∧
    (xbOf (me (fun k => { k with grid := { k.grid with pkts := [GridPkt.empty] } })) tsync).me.grid.pkts ≠ [] ∧
    (let s := xbOf (on []) tsync
     s.me.grid.pkts = [] ∧ s.me.grid.giq = [] ∧ (∀ q : Fin 6, s.me.eng[q] = []) ∧ s.me.tissued = [] ∧ ∀ t ∈ s.tiles, t.id ∈ s.me.tissued → t.bytes.headD 0 ≠ 9) :=
  ⟨⟨tsyncNode, by decide +kernel⟩, by decide +kernel, by decide +kernel⟩

/-- A state whose core 0 alone differs from reset is canonical when its stores are. -/
theorem canonical_of (s : State) (k : Core) (hk : s.cores = State.reset.cores.set 0 k (by decide)) (hc : s.ctxs = State.reset.ctxs)
    (hm : s.mem.wf = true) (h : k.xb.wf = true ∧ k.wb.wf = true ∧ k.gb.wf = true) : s.memWf := by
  have hr := canonical_reset
  refine ⟨hm, fun c => ?_, fun n => ?_⟩
  · have := hr.2.1 c
    simp only [State.core, hk, Vector.getElem_set] at this ⊢
    split
    · exact h
    · exact this
  · have := hr.2.2 n
    simpa only [State.ctx, hc] using this

/-- Every other core is as after reset. -/
theorem core_of (s : State) (k : Core) (hk : s.cores = State.reset.cores.set 0 k (by decide)) (d : CoreIx) (hd : d ≠ 0) : s.core d = Core.reset := by
  have h : ¬ 0 = d.toNat := fun e => hd (BitVec.eq_of_toNat_eq e.symm)
  simp only [State.core, hk, Vector.getElem_set, h, if_false]
  exact core_reset d
/-- A group found by its id. -/
theorem of_id {s : State} {g : Group} {n : Nat} (h : s.group n = some g) (hi : g.id = n) : s.group g.id = some g := by rw [hi, h]

/-- A packet of the grid queue that carries nothing. -/
def gpkt : GridPkt := GridPkt.empty
/-- The grid of core 0 with a change to it. -/
def grd (f : Grid → Grid) : State := (on []).modGrid 0 f
theorem witness_MarksAndRollback : (on []).noWalks ∧
    (let s := me (fun k => { k with ctl := { k.ctl with markNext := true } })
     (s.core 0).ctl.st = .run ∧ (s.core 0).settled = true ∧ (s.core 0).rs.gate = [] ∧ (s.core 0).atMark = false ∧ (s.core 0).timed = false ∧
       (s.core 0).ctl.markNext = true ∧ (s.core 0).rs.pend = []) ∧
    (let l : Ldg := ⟨0x10000, 0, 5, 0x20000, ⟨8, false⟩, 0, 0⟩
     let s := me (fun k => { k with rs := { k.rs with ldgs := [l], log := [none] } })
     (s.core 0).rs.ldgs = l :: [] ∧ ∃ f, (s.translate (s.ctxOf 0) (dieOf 0) (some 0) l.va .read l.w.bytes).1 = .error f) ∧
    (((on []).core 0).rs.ldgs = [] ∧ ∀ q e, e ∈ (((on []).core 0).grid.queue q).entries → e.settled = true) := by
  unfold State.noWalks
  exact ⟨by decide +kernel, by decide +kernel, ⟨by decide +kernel, _, rfl⟩, by decide +kernel⟩
theorem witness_ForwardedWritesAndCouch :
    (let p : GridPkt := { gpkt with sw := some (.flags 1 127) }
     let s := grd (fun g => { g with giq := [p] })
     (s.core 0).grid.giq = p :: [] ∧ p.sw = some (.flags 1 127) ∧ (s.core 0).grid.pkts = []) ∧
    (let p : GridPkt := { gpkt with sw := some (.flags 0 0) }
     let s := grd (fun g => { g with giq := [p], pkts := [gpkt] })
     (s.core 0).grid.giq = p :: [] ∧ (s.core 0).grid.pkts ≠ []) ∧
    (let p : GridPkt := { gpkt with sw := some (.couchm 2 (-1)) }
     let s := grd (fun g => { g with giq := [p] })
     (s.core 0).grid.giq = p :: [] ∧ p.sw = some (.couchm 2 (-1)) ∧ (s.core 0).grid.couch.active = false) ∧
    (let s := grd (fun g => { g with couch := ⟨192, false, 63, 0, true⟩, gdirty := BitVec.allOnes 64 })
     s.memWf ∧ (s.core 0).grid.couch.active = true ∧ (s.core 0).grid.couch.next < 64 ∧ 63 ∉ (s.core 0).grid.pendingRows ∧
       (s.core 0).grid.couch.op = false ∧ (s.core 0).grid.gdirty.getLsbD 63 = true) ∧
    (let s := grd (fun g => { g with couch := ⟨0, true, 0, 0, true⟩ })
     s.memWf ∧ (s.core 0).grid.couch.active = true ∧ (s.core 0).grid.couch.next < 64 ∧ 0 ∉ (s.core 0).grid.pendingRows ∧
       (s.core 0).grid.couch.op = true) :=
  ⟨by decide +kernel, by decide +kernel, by decide +kernel, ⟨canonical_of _ _ rfl rfl (by decide +kernel) (by decide +kernel), by decide +kernel⟩,
    ⟨canonical_of _ _ rfl rfl (by decide +kernel) (by decide +kernel), by decide +kernel⟩⟩
/-- A grid slot without a literal. -/
def gslot (i : Instr) : GSlot := ⟨i, 0, none⟩
/-- The outcome of one grid slot is its run. -/
theorem runs_one (s u : State) (g : GSlot) (h : exec g.instr (s.modSlot (fun c => { c with word := g.word, lit := g.lit })) = .next u) :
    s.runsSlots [g] u := ⟨u, h, rfl⟩
theorem next_of_after {o : Host.Outcome State Fault Refusal} (h : (after o (fun _ => ())).isSome = true) : ∃ t, o = .next t := by
  cases o with
  | next t => exact ⟨t, rfl⟩
  | fault f => simp [after] at h
  | refused r => simp [after] at h
theorem witness_GridIssueAndWrites :
    (let p : GridPkt := { gpkt with m := some (gslot (.rk 0 0 3)) }
     let s := grd (fun g => { g with giq := [p] })
     (s.core 0).grid.giq = p :: [] ∧ p.sw = none ∧ (s.core 0).seqr = none ∧ (s.core 0).grid.ready p = false) ∧
    (let p : GridPkt := { gpkt with m := some (gslot (.gzero 3)) }
     let s := grd (fun g => { g with giq := [p] })
     (s.core 0).grid.giq = p :: [] ∧ (s.core 0).grid.ready p = true ∧ p.xfers = [] ∧
       (∀ m ∈ p.m.toList ++ p.v, m.instr.slotKind = some .m ∨ m.instr.slotKind = some .v) ∧ ∃ t, (s.gridSide 0 p).runsSlots (p.m.toList ++ p.v) t) ∧
    (let p : GridPkt := { gpkt with xfers := [⟨63, true, true, 65280⟩] }
     let s := grd (fun g => { g with giq := [p] })
     (s.core 0).grid.giq = p :: [] ∧ (s.core 0).grid.ready p = true ∧ p.m = none ∧ p.v = [] ∧
       ∀ q e, e ∈ ((s.core 0).grid.queue q).entries → e.settled = true ∨ e.src.space = .dm) ∧
    (let p : GridPkt := { gpkt with xfers := [⟨0, false, true, 0⟩] }
     let s := grd (fun g => { g with giq := [p] })
     (s.core 0).grid.giq = p :: [] ∧ (s.core 0).grid.ready p = true ∧ p.m = none ∧ p.v = []) ∧
    (let f : Flight := { flight .vld with due := 0, vld := some 0, rows := [(0, Row.zero)] }
     let s := grd (fun g => { g with inflight := [f], pkts := [gpkt], cyc := 1 })
     (s.core 0).grid.inflight = [f] ∧ (s.core 0).grid.pkts = [gpkt] ∧ f.fwd = gpkt.fwd ∧ f.written = false ∧ f.due < (s.core 0).grid.cyc ∧
       f.kind = .vld ∧ f.rk = none ∧ f.rows = [((0 : BitVec 6).toNat, Row.zero)] ∧ f.regs = []) ∧
    (let f : Flight := { flight .m with due := 0, rk := some work }
     let s := grd (fun g => { g with inflight := [f], pkts := [gpkt], cyc := 1 })
     (s.core 0).grid.inflight = [f] ∧ f.kind = .m ∧ f.due < (s.core 0).grid.cyc) ∧
    (let f : Flight := { flight .v with due := 0, rows := [(3, row [1])] }
     let s := grd (fun g => { g with inflight := [f], pkts := [gpkt], cyc := 1 })
     (s.core 0).grid.inflight = [f] ∧ f.kind = .v ∧ f.rk = none ∧ f.vld = none) ∧
    (let p : GridPkt := { gpkt with m := some (gslot (.rk 0 0 3)) }
     let s := (grd (fun g => { g with giq := [p] })).modCtl 0 (fun t => { t with wait := some .giqRoom })
     (s.core 0).grid.giq = p :: [] ∧ p.m = some (gslot (.rk 0 0 3)) ∧ (0, 1) ∈ Instr.mPops p.fmt (gslot (.rk 0 0 3)).instr ∧
       ((s.core 0).grid.queue 0).fillN - ((s.core 0).grid.queue 0).p < 1 ∧ (s.core 0).ctl.wait = some .giqRoom) ∧
    (((on []).core 0).poppedBy 7 = false ∧ ((grd (fun g => { g with pkts := [{ gpkt with m := some (gslot (.rk 0 0 3)) }] })).core 0).poppedBy 0 = true ∧
      ∃ h, ((on []).core 0).grp = some 1 ∧ (on []).group 1 = some h ∧ h.st ≠ .lulling) ∧
    (((on []).core 0).ctl.st = .run ∧ ((on []).core 0).timed = false ∧ ((on []).core 0).ctl.markNext = false ∧
      (let f : Flight := { flight .v with due := 0, rows := [(3, row [1])] }
       ((grd (fun g => { g with inflight := [f], pkts := [gpkt] })).core 0).drainedM 3 = false)) ∧
    ((inTimed (on [])).core 0).ctl.st = .run ∧ ((inTimed (on [])).core 0).timed = true := by
  refine ⟨by decide +kernel, ⟨by decide +kernel, by decide +kernel, by decide +kernel, by decide +kernel, ?_⟩, by decide +kernel, by decide +kernel,
    by decide +kernel, by decide +kernel, by decide +kernel, by decide +kernel, ⟨by decide +kernel, by decide +kernel, _, by decide +kernel, rfl,
      by decide +kernel⟩, by decide +kernel, by decide +kernel⟩
  obtain ⟨t, h⟩ := next_of_after (o := exec (gslot (.gzero 3)).instr
    (((grd (fun g => { g with giq := [{ gpkt with m := some (gslot (.gzero 3)) }] })).gridSide 0 { gpkt with m := some (gslot (.gzero 3)) }).modSlot
      (fun c => { c with word := 0, lit := none }))) (by decide +kernel)
  exact ⟨t, runs_one _ t _ h⟩
/-- A packet whose MPOP takes one entry of queue A0. -/
def mpopPkt : GridPkt := { gpkt with m := some (gslot (.mpop 0 0 1)) }
/-- The errors of the grid: no instruction popped, an MPOP in flight, an RK in flight inside a timed region; and a core starved at an M
that waits for an entry. -/
theorem witness_grid_errors :
    (((on []).core 0).poppedBy 7 = false ∧ ((on []).core 0).discarded 7 = false) ∧
    (let k := (grd (fun g => { g with pkts := [mpopPkt] })).core 0
     k.ctl.st = .run ∧ k.timed = false ∧ k.poppedBy 0 = false ∧ k.discarded 0 = true ∧ k.ctl.markNext = false ∧ k.keptPart = false) ∧
    (let s := inTimed (grd (fun g => { g with pkts := [{ gpkt with m := some (gslot (.rk 0 0 3)) }] }))
     (s.core 0).ctl.st = .run ∧ (s.core 0).timed = true ∧ (∀ q : BitVec 3, GridErr.popped 0 = .popped q → (s.core 0).poppedBy q = true) ∧
       ∃ h, (s.core 0).grp = some 1 ∧ s.group 1 = some h ∧ h.st ≠ .lulling ∧ h.lullReq = false) ∧
    (let p : GridPkt := { gpkt with m := some (gslot (.rk 0 0 3)) }
     let s := (grd (fun g => { g with giq := [p] })).modCtl 0 (fun t => { t with wait := some (.queueEntry 5) })
     (s.core 0).grid.giq = p :: [] ∧ ((s.core 0).grid.queue 0).fillN - ((s.core 0).grid.queue 0).p < 1 ∧ (s.core 0).ctl.wait = some (.queueEntry 5)) ∧
    ((grd (fun g => { g with pkts := [] })).core 0).grid.pkts = [] := by
  refine ⟨by decide +kernel, by decide +kernel, ⟨by decide +kernel, by decide +kernel, ?_, _, by decide +kernel, rfl, by decide +kernel, by decide +kernel⟩, by decide +kernel,
    by decide +kernel⟩
  intro q h
  cases h
  decide +kernel
/-- Core 0 with a wait. -/
def waits (w : Wait) (s : State) : State := s.modCtl 0 (fun t => { t with wait := some w })
/-- Core 0 at the last packets of its code, whose lines its cache holds. -/
def cachedCode (s : State) : State :=
  s.modCore 0 (fun k => { k with ctl := { k.ctl with pc := 0x1FFA0 }, icache := [⟨s.tagOf 1, 0x7FE, []⟩, ⟨s.tagOf 1, 0x7FF, []⟩] })
theorem witness_WaitsAndTimedRegions :
    ((waits (.fwait 255 1) (on [])).core 0).ctl.wait = some (.fwait 255 1) ∧ ((waits .fence (on [])).core 0).ctl.wait = some .fence ∧
    ((waits (.qfence 63) (on [])).core 0).ctl.wait = some (.qfence 63) ∧ ((waits .wfence (on [])).core 0).ctl.wait = some .wfence ∧
    (let e : EngEntry := ⟨0, .cwait 3 0, false, 0, 0, none, [], [], 0⟩
     let s := me (fun k => { k with eng := k.eng.set 2 [e] })
     (s.core 0).engQ (2 : BitVec 2).toNat = e :: [] ∧ e.op = .cwait 3 0) ∧
    (let s := waits (.barw 15) (inGroup (fun g => { g with bar := { g.bar with w := [(0, 15, 5)] } }))
     ∃ g, s.group g.id = some g ∧ g.cores = [0] ∧ (s.core 0).ctl.wait = some (.barw 15) ∧ ∃ x ∈ g.bar.w, x.1 = 0 ∧ x.2.1 = 15 ∧
       x.2.2 ≠ g.bar.phase 15) ∧
    ((on []).core 0).ctl.wait ≠ some .csync ∧
    (let s := waits .csync (cachedCode (on []))
     (s.core 0).ctl.csyncAt = none ∧ 0 ∈ s.participants 0 ∧ (∀ d ∈ s.participants 0, (s.core d).ctl.wait = some .csync ∧
       (s.core d).buffersQuiet = true ∧ s.linesHeld d = true) ∧ (s.cluster (clusterOf 0)).pendMhz = none) ∧
    ((waits .csync { on [] with clusters := (on []).clusters.set 0 { Cluster.reset with pendMhz := some 650 } }).cluster 0).pendMhz = some 650 ∧
    (let s := waits .csync (on [])
     0 ∈ s.participants 0 ∧ s.linesHeld 0 = false) ∧
    (((inTimed (on [])).core 0).timed = true ∧ (inTimed (on [])).regionCycle 0 < 1048576) ∧
    (let s := handled (inTimed { on [] with clusters := (on []).clusters.set 0 { Cluster.reset with ccyc := 1048576 } })
     (s.core 0).timed = true ∧ 1048576 ≤ s.regionCycle 0 ∧ (s.core 0).settled = true ∧ (s.core 0).gateFree ∧ (s.core 0).ctl.inTrap = false ∧ (s.core 0).ctl.tvec ≠ 0 ∧
       (s.core 0).region.sends = [] ∧ (s.core 0).region.recvs = []) := by
  unfold Core.gateFree
  refine ⟨by decide +kernel, by decide +kernel, by decide +kernel, by decide +kernel, by decide +kernel, ⟨_, of_id (n := 1) rfl rfl, by decide +kernel⟩,
    by decide +kernel, by decide +kernel, by decide +kernel, by decide +kernel, by decide +kernel, by decide +kernel⟩
/-- A CSYNC of a group with and without a lull request. -/
theorem witness_csync_lull :
    (let s := waits .csync (cachedCode (on []))
     ∀ g, s.group (((s.core 0).grp).getD 0) = some g → g.lullReq = false) ∧
    (let s := waits .csync (inGroup (fun g => { g with lullReq := true }))
     ∃ g, (s.core 0).grp = some 1 ∧ s.group 1 = some g ∧ g.lullReq = true) :=
  ⟨by intro s g h; revert h; have : s.group (((s.core 0).grp).getD 0) = (on []).group 1 := by decide +kernel
      rw [this]; intro h; cases h; rfl, _, by decide +kernel, rfl, by decide +kernel⟩
/-- A window of two chunks from region cycle 2 on. -/
def win (p : BitVec 3) : Win := ⟨0, 2, 2, p, 0, none⟩
/-- A timed region of which `n` cycles have passed, with one window of core 0 to core 1 that holds a chunk, and its partner. -/
def chunkState (n : Word) (w : Win) : State :=
  let s := { on [] with clusters := (on []).clusters.set 0 { Cluster.reset with ccyc := n } }
  (s.modCore 0 (fun k => { k with region := { k.region with start := some 0, sends := [w] } })).modCore 1 (fun k =>
    { k with grp := some 1, region := { k.region with start := some 0, recvs := [win 0] } })
/-- A change of one core that keeps its stores canonical keeps every store canonical. -/
theorem canonical_modCore {s : State} (h : s.memWf) (c : CoreIx) (f : Core → Core)
    (hf : (f (s.core c)).xb.wf = true ∧ (f (s.core c)).wb.wf = true ∧ (f (s.core c)).gb.wf = true) : (s.modCore c f).memWf := by
  refine ⟨h.1, fun d => ?_, h.2.2⟩
  by_cases hd : d = c
  · subst hd; simpa using hf
  · rw [State.core_modCore_ne _ hd]; exact h.2.1 d
theorem witness_chunks :
    (let s := chunkState 3 (win 1)
     (s.core 0).region.sends = [win 1] ∧ (s.core 0).region.recvs = [] ∧ (win 1).latch = none ∧ (win 1).t < s.regionCycle 0 ∧
       s.regionCycle 0 < (win 1).t + (win 1).n ∧ ∀ d, clusterOf d = clusterOf 0 → d ≠ 0 → (s.core d).region.sends = []) ∧
    let w : Win := { win 1 with latch := some (2, List.replicate 64 7) }
    let s := chunkState 3 (win 1)
    s.memWf ∧ 2 < s.regionCycle 0 ∧ (s.core 1).grp = (s.core 0).grp ∧ (s.core 1).region.start = (s.core 0).region.start ∧ coreIn (clusterOf 0) (win 1).peer ≠ 0 ∧ (s.core (coreIn (clusterOf 0) (win 1).peer)).region.recvs = [win 0] ∧
      (win 0).t = w.t ∧ (win 0).n = w.n ∧ (win 0).peer = inCluster 0 ∧ (List.replicate 64 (7 : Byte)).length = 64 ∧ w.t ≤ 2 := by
  refine ⟨⟨by decide +kernel, by decide +kernel, by decide +kernel, by decide +kernel, by decide +kernel, ?_⟩,
    ?_, by decide +kernel⟩
  rotate_left
  · have h : ({ on [] with clusters := (on []).clusters.set 0 { Cluster.reset with ccyc := 3 } } : State).memWf :=
      canonical_of _ _ rfl rfl (by decide +kernel) (by decide +kernel)
    exact canonical_modCore (canonical_modCore h _ _ (by decide +kernel)) _ _ (by decide +kernel)
  intro d _ hd
  by_cases h1 : d = 1
  · subst h1; decide +kernel
  · rw [chunkState, State.core_modCore_ne _ h1, State.core_modCore_ne _ hd, core_of _ _ rfl d hd]
    rfl
/-- An engine operation at the head of its queue. -/
def engOn (q : Fin 6) (e : EngEntry) (s : State) : State := s.modMe (fun k => { k with eng := k.eng.set q.val [e] q.isLt })
def engOp (op : EngOp) (started : Bool) (buf : List Byte) : EngEntry := ⟨0, op, started, 0, 0, none, buf, [], 0⟩
theorem witness_CopiesAndEngineFaults :
    (let e := engOp (.copy ⟨.xb, none, 0⟩ ⟨.xb, none, 64⟩ 1 64 0 0) false []
     ((engOn 3 e (on [])).core 0).engQ (3 : BitVec 3).toNat = e :: [] ∧ e.started = false ∧ ((engOn 3 e (on [])).core 0).opWaits e = false ∧
       ((engOn 3 e (grd (fun g => { g with giq := [{ gpkt with xfers := [⟨0, true, false, 64⟩] }] }))).core 0).opWaits { e with fwd := 1 } = true) ∧
    (let e := engOp (.rred 0 0x10000 1 false false none) false []
     ((engOn 5 e (on [])).core 0).engQ (5 : BitVec 3).toNat = e :: [] ∧ e.started = false) ∧
    (let e := engOp (.copy ⟨.xb, none, 0⟩ ⟨.wb, none, 1048512⟩ 1 64 0 0) true []
     let s := engOn 0 e (on [])
     s.memWf ∧ (s.core 0).engQ (0 : BitVec 3).toNat = e :: [] ∧ e.started = true ∧ e.faulted = none ∧ e.prog = 0 ∧ e.ahead = []) ∧
    (let e := engOp (.copy ⟨.xb, some 1, 0⟩ ⟨.wb, none, 0⟩ 1 64 0 0) true []
     let s := (engOn 0 e (joinedPair [])).modCore 1 (fun k => { k with grp := some 1 })
     ∃ g, (s.core 1).grp.bind s.group = some g ∧ g.ctx = s.ctxOf 0 ∧ g.st = .resident) ∧
    (let e := engOp (.copy ⟨.xb, none, 0⟩ ⟨.dm, none, 0x20000⟩ 1 64 0 0) true []
     let s := engOn 0 e (on [])
     ∃ f h u, s.runHead 0 0 e = (.fault f, h, u) ∧ (u.core 0).engQ 0 = e :: []) := by
  refine ⟨by decide +kernel, by decide +kernel, ⟨canonical_of _ _ rfl rfl (by decide +kernel) (by decide +kernel), by decide +kernel⟩,
    ⟨_, rfl, by decide +kernel⟩, ⟨_, _, _, rfl, by decide +kernel⟩⟩

/-! ### Witnesses: engines, groups and device memory -/

/-- Context 1 READY with a queue. -/
def queueOn (q : Fin 64) (r : QRec) : State :=
  let c : Ctx := { Ctx.free with st := .ready, desc := { Desc.zero with qmax := 64 }, queues := Ctx.free.queues.set q.val r q.isLt }
  { on [] with ctxs := (on []).ctxs.set 1 c }
/-- The page of `on` in the translation cache of die 0 as well. -/
def mapped (s : State) : State := s.modDie 0 (fun d => { d with
  ltlb := [{ tag := 1, va := 0x10000, size := 65536, pa := 0x10000, r := true, w := true, x := true, win := none }] })
/-- A canonical state stays so when context 1 has no frames of its own and core 0 canonical stores. -/
theorem canonical_ctx (s : State) (k : Core) (c : Ctx) (hk : s.cores = State.reset.cores.set 0 k (by decide))
    (hc : s.ctxs = State.reset.ctxs.set 1 c (by decide)) (hi : c.imported = []) (hm : s.mem.wf = true)
    (h : k.xb.wf = true ∧ k.wb.wf = true ∧ k.gb.wf = true) : s.memWf := by
  have hr := canonical_reset
  refine ⟨hm, fun c => ?_, fun n f hf => ?_⟩
  · have := hr.2.1 c
    simp only [State.core, hk, Vector.getElem_set] at this ⊢
    split
    · exact h
    · exact this
  · have := hr.2.2 n f
    simp only [State.ctx, hc, Vector.getElem?_set] at this hf
    by_cases hn : 1 = n
    · subst hn; simp [hi] at hf
    · rw [if_neg hn] at hf; exact this hf
theorem witness_RemoteOperationsPerform :
    (∃ u, (let e := engOp (.scatter 0 1 0x10000) true [0x12, 0, 0, 0, 5, 0, 0, 0]
      let s := engOn 5 e (mapped (on []))
      (s.core 0).engQ 5 = e :: [] ∧ e.buf.length = 8 ∧ s.joinedUp ∧ s.noWalks ∧ 1 ≤ e.op.units ∧ leNat (e.buf.take 4) % 4 = 2 ∧
        s.translateRange (s.ctxOf 0) (dieOf 0) none ((0x10000 : Word) + 0x10) .atomic 4 = (.ok [(0x10010, 4)], u))) ∧
    (∃ u, (let e := engOp (.rred 0 0x10000 2 true false none) true (List.replicate 8 1)
      let s := engOn 5 e (mapped (on []))
      (s.core 0).engQ 5 = e :: [] ∧ s.joinedUp ∧ s.noWalks ∧ s.memWf ∧
        s.translateRange (s.ctxOf 0) (dieOf 0) none 0x10000 .atomic (4 * 2) = (.ok [(0x10000, 8)], u))) ∧
    (let e := engOp (.qpush (List.replicate 64 0) 63) true []
     let s := engOn 5 e (queueOn 63 { QRec.closed with st := .empty, s := 6, ringPa := [some 0x10000] })
     s.memWf ∧ s.noWalks ∧ (s.core 0).engQ 5 = e :: [] ∧ (List.replicate 64 (0 : Byte)).length = 64 ∧ (∀ d ∈ (s.core 0).eng.toList.flatten, e.order ≤ d.order) ∧
       (63 : Word).toNat < (s.ctx (s.ctxOf 0)).desc.qmax.toNat ∧ s.appendRefused (s.ctxOf 0) 63 1 = none) ∧
    (let e := engOp (.qpush (List.replicate 64 0) 0) true []
     let s := engOn 5 e (queueOn 0 { QRec.closed with st := .active, s := 6, ringPa := [some 0x10000], a := 64 })
     (s.core 0).engQ 5 = e :: [] ∧ s.appendRefused (s.ctxOf 0) 0 1 = some 5) ∧
    (((on []).ctx ((on []).ctxOf 0)).desc.qmax.toNat ≤ (0 : Word).toNat) ∧
    (let g : Sig := ⟨255, 1, 4, 0⟩
     let s := me (fun k => { k with sigs := [g] })
     (s.core 0).sigs = g :: [] ∧ (∀ e ∈ (s.core 0).eng.toList.flatten, g.order ≤ e.order) ∧ s.ctxOf 0 < 65) ∧
    (let g : Sig := ⟨0, 1, 0, 1⟩
     let s := engOn 2 (engOp (.cwait 0 0) false []) (me (fun k => { k with sigs := [g] }))
     (s.core 0).sigs = g :: [] ∧ ∃ e ∈ (s.core 0).eng.toList.flatten, e.order < g.order) := by
  unfold State.joinedUp State.noWalks
  exact ⟨⟨_, by decide +kernel, by decide +kernel, by decide +kernel, by decide +kernel, by decide +kernel, by decide +kernel, rfl⟩,
    ⟨_, by decide +kernel, by decide +kernel, by decide +kernel, canonical_of _ _ rfl rfl (by decide +kernel) (by decide +kernel), rfl⟩,
    ⟨canonical_ctx _ _ _ rfl rfl rfl (by decide +kernel) (by decide +kernel), by decide +kernel, by decide +kernel⟩,
    by decide +kernel, by decide +kernel, by decide +kernel, by decide +kernel⟩
/-- A bound context in a state. -/
def ctxIn (st : CtxSt) : Ctx := { Ctx.free with st := st, bound := true, gen := 1, gens := 1, desc := { Desc.zero with qmax := 64 } }
/-- Partition 0 with every core, served to context 1. -/
def part0 : Partition := { mask := BitVec.allOnes 512, conf := BitVec.allOnes 512, weights := [1], xbar := [], configured := 1, active := some 1 }
/-- Context 1 READY and bound, alone in partition 0, whose turn it has. -/
def readyState : State := { on [] with ctxs := (on []).ctxs.set 1 (ctxIn .ready), parts := (on []).parts.set 0 (some part0) }
/-- The group of `on`, pending. -/
def pend : Group :=
  { id := 1, ctx := 1, kslot := 0, handle := 0, queue := 0, seq := 0, index := 0, count := 1, n := 1, st := .pending
    started := false, cores := [], slots := [], param := 0, plen := 0
    env := { codeVa := 0x10000, codeLen := 65536, entry := 0x10000, xbext := 1048576, wbext := 1048576, gbext := 65536
             mode := .native, bmask := 0xFFFF, fmask := 0, fmt0 := 0, shp0 := 0x4040 }
    bar := { p := Vector.replicate 16 0, arr := [], w := [], broken := false }
    die := 0, order := 0, prio := 0, passed := false, saved := [], prog := [], faults := 0, lullReq := false, tile := none
    lost := [] }
/-- A group alone in such a context, every core free. -/
def groupState (g : Group) : State := { readyState with groups := [g], cores := State.reset.cores }
/-- Group 1 with core 0 exited. -/
def exitedState : State := { readyState with cores := readyState.cores.set 0 { readyState.core 0 with ctl := { Ctl.reset with st := .exited } } }
theorem witness_GroupsArePlaced :
    (let s := groupState pend
     s.pendingOn 0 = pend :: [] ∧ s.placeOf 0 pend = some [0] ∧ pend.started = false ∧ pend.tile = none ∧ s.group pend.id = some pend ∧
       [(0 : CoreIx)].Nodup) ∧
    (groupState pend).fit (0xFF#512 <<< 8) pend.env 0 8 = some [8, 9, 10, 11, 12, 13, 14, 15] ∧
    (let s := exitedState
     ∃ g, s.group g.id = some g ∧ g.tile = none ∧ g.st = .resident ∧ ∀ c ∈ g.cores, (s.core c).ctl.st = .exited ∧
       (∀ q : Fin 6, (s.core c).eng[q] = []) ∧ (s.core c).sigs = [] ∧ (s.core c).grid.pkts = [] ∧ (s.core c).grid.giq = []) ∧
    (∃ g, (on []).group g.id = some g ∧ g.tile = none ∧ g.st = .resident ∧ ∃ c ∈ g.cores, ((on []).core c).ctl.st ≠ .exited) ∧
    (let s := groupState pend
     s.parts[0] = some part0 ∧ ({ s with groups := [{ pend with ctx := 2 }], ctxs := s.ctxs.set 2 (ctxIn .ready) } : State).nextCtx 0 1 = some 2 ∧
       s.nextCtx 0 0 = some 1) ∧
    ((groupState pend).group pend.id = some pend ∧ pend.st = .pending) ∧ ∃ g, (on []).group g.id = some g ∧ g.st ≠ .pending :=
  ⟨by decide +kernel, by decide +kernel, ⟨_, of_id (n := 1) rfl rfl, by decide +kernel⟩, ⟨_, of_id (n := 1) rfl rfl, by decide +kernel⟩,
    by decide +kernel, by decide +kernel, ⟨_, of_id (n := 1) rfl rfl, by decide +kernel⟩⟩
/-- The pages of frame slot 0 of context 1, from address 0. -/
def framed (s : State) : State := { s with frames := (List.range 66).map (fun i =>
  { no := i, st := .bound, toBound := false, owner := 1, dirty := false, win := none }) }
theorem frame_slot_usable (s : State) (g : Group) (hg : g.ctx = 1) (hx : g.env.xbext ≤ 2097152) (hw : g.env.wbext ≤ 2097152) (k : AccKind)
    (hf : ∀ i, i < 66 → ((s.frame i).st = .bound ∧ (s.frame i).owner = 1)) : s.frameUsable g 0 k := by
  refine ⟨hx, hw, fun o n ho => ?_⟩
  have h := hf (o / 65536) (by omega)
  have hr : inRegion o = true := by simp only [inRegion, decide_eq_true_eq]; omega
  simp only [State.frameFault, Nat.zero_add, State.frameCheck, hr, frameBytes, h.1, h.2, hg]
  rfl
/-- Group 1 in a state of its save, with one core. -/
def saveGroup (st : GrpSt) : Group := { pend with st := st, started := true, cores := [0], slots := [0], prog := [{ rank := 0, next := 0, mask := 0, fault := none }] }
def savedCore : SavedCore := { slot := 0, eng := Vector.replicate 6 [], sigs := [], order := 0, tissued := [], seqr := none, logOpen := [], lits := [], fills := []
                               part := none, trap := none }
def saveState (g : Group) (st : CoreSt) : State :=
  framed ({ on [] with groups := [g] }.modCtl 0 (fun t => { t with st := st }))
theorem witness_LullSaveRestore :
    ((saveState (saveGroup .restoring) .run).group 1 = some (saveGroup .restoring) ∧ (saveGroup .restoring).st = .restoring) ∧
    (let g := saveGroup .resident
     let s := saveState g .run
     s.group g.id = some g ∧ g.st = .resident ∧ g.cores = [0] ∧ (s.core 0).stopsNow = true ∧ (∀ q : Fin 6, (s.core 0).eng[q] = []) ∧
       (s.core 0).grp.isSome = true ∧ (s.core 0).timed = false ∧ s.noneAimed 0 = true ∧ (s.core 0).ctl.markNext = false) ∧
    (let g := saveGroup .resident
     let s := (saveState g .run).modCtl 0 (fun t => { t with markNext := true })
     (s.core 0).stopsNow = true ∧ (s.core 0).ctl.markNext = true ∧ (s.core 0).settled = true ∧ (s.core 0).rs.gate = []) ∧
    (let g := saveGroup .lulling
     let s := saveState g .stopped
     s.group g.id = some g ∧ g.st = .lulling ∧ g.cores = [0] ∧ g.slots = [0] ∧ s.framePa g.ctx 0 = 0 ∧ s.frameUsable g 0 .write ∧ s.memWf ∧
       s.noWalks ∧ (s.core 0).ctl.st = .stopped) ∧
    ((saveState (saveGroup .lulling) .exited).core 0).ctl.st = .exited ∧
    (let g : Group := { saveGroup .restoring with saved := [savedCore] }
     let s := saveState g .stopped
     s.group g.id = some g ∧ g.cores = [0] ∧ g.saved = [savedCore] ∧ (s.ctx g.ctx).imported = [] ∧ s.framePa g.ctx 0 = 0 ∧
       s.frameUsable g 0 .read ∧ s.noWalks ∧ s.mem.read (0 + 0x48) ≠ 1 ∧ s.mem.read (0 + 0xD1) = 0) := by
  unfold State.noWalks
  exact ⟨by decide +kernel, by decide +kernel, by decide +kernel, ⟨by decide +kernel, by decide +kernel, by decide +kernel, by decide +kernel,
      by decide +kernel,
      frame_slot_usable _ _ rfl (by decide) (by decide) _ (by decide +kernel), canonical_of _ _ rfl rfl (by decide +kernel) (by decide +kernel),
      by decide +kernel, by decide +kernel⟩, by decide +kernel,
    by decide +kernel, by decide +kernel, by decide +kernel, by decide +kernel, by decide +kernel,
    frame_slot_usable _ _ rfl (by decide) (by decide) _ (by decide +kernel), by decide +kernel, by decide +kernel, by decide +kernel⟩
/-- Core 0 within a packet whose irrevocable operation has performed, and at a BARW whose phase is over; neither as the other; the frame's
queues keep no fill. -/
theorem witness_lull_stops :
    (let g := saveGroup .resident
     let s := (saveState g .run).modCore 0 (fun k => { k with part := some ⟨[], [], { SlotCtx.reset with markNext := true }, []⟩ })
     s.group g.id = some g ∧ (s.core 0).stopsNow = true ∧ s.released 0 = false ∧ (s.core 0).keptPart = true) ∧
    (let g : Group := { saveGroup .resident with bar := { Barrier.start with w := [(0, 15, 5)] } }
     let s := (saveState g .run).modCtl 0 (fun t => { t with wait := some (.barw 15) })
     s.group g.id = some g ∧ (s.core 0).stopsNow = true ∧ s.released 0 = true) ∧
    (let s := saveState (saveGroup .resident) .run
     s.released 0 = false ∧ (s.core 0).keptPart = false) ∧
    (let s := saveState { saveGroup .restoring with saved := [savedCore] } .stopped
     ∀ i j, i < 8 → j < min 8 (s.mem.le (0 + (0x58 + 16 * i)) 8 - s.mem.le (0 + (0x50 + 16 * i)) 8) →
       (s.mem.read (0 + 0x800 + 128 * i + 16 * j + 14)).toNat % 4 ≠ 3) := by
  refine ⟨by decide +kernel, by decide +kernel, by decide +kernel, ?_⟩
  intro s i j hi hj
  have h : ∀ i, i < 8 → s.mem.le (0 + (0x58 + 16 * i)) 8 - s.mem.le (0 + (0x50 + 16 * i)) 8 = 0 := by decide +kernel
  rw [h i hi] at hj
  omega
/-- A shadow table of context 1 from the root at 0x20000: its three levels at frames 2, 3 and 4, and a leaf to frame 1 at address 0. -/
def tableState (leaf : Word) : State :=
  let c : Ctx := { ctxIn .ready with desc := { Desc.zero with sroot := 0x20000 } }
  let fr (n o : Nat) : Frame := { no := n, st := .bound, toBound := false, owner := o, dirty := false, win := none }
  { on [] with
    ctxs := (on []).ctxs.set 1 c
    cores := (on []).cores.set 0 { (on []).core 0 with utlb := [] }
    frames := [fr 1 1, fr 2 0, fr 3 0, fr 4 0]
    mem := ((((on []).mem.store 0x20000 (leBytes 8 0x30001)).store 0x30000 (leBytes 8 0x40001)).store 0x40000 (leBytes 8 leaf.toNat)) }
/-- What the clauses of a walk ask of a state, at address 0xFFFF of context 1. -/
def walksTo (s : State) (e3 : Word) : Prop :=
  1 = s.ctxOf 0 ∧ (s.ctx 1).hostWin 0xFFFF = none ∧ (s.core 0).utlb = [] ∧ (s.die (dieOf 0)).ltlb = [] ∧
    (s.ctx 1).desc.sroot.toNat + 8 * ((0xFFFF : Word).extractLsb' 38 14).toNat = 0x20000 ∧ s.mem.le 0x20000 8 = 0x30001 ∧
    entryAddr 0x30001 + 8 * ((0xFFFF : Word).extractLsb' 26 12).toNat = 0x30000 ∧ s.mem.le 0x30000 8 = 0x40001 ∧
    entryAddr 0x40001 + 8 * ((0xFFFF : Word).extractLsb' 16 10).toNat = 0x40000 ∧ s.mem.le 0x40000 8 = e3.toNat ∧
    s.frameCheck 0 0x20000 = none ∧ nextLevel 0x30001 ∧ s.frameCheck 0 0x30000 = none ∧ nextLevel 0x40001 ∧ s.frameCheck 0 0x40000 = none
theorem witness_TranslationAndMemoryEvents :
    (walksTo (tableState 0x1000F) 0x1000F ∧ leaf3 0x1000F ∧ leafAllows 0x1000F .read ∧ leafAllows 0x1000F .write ∧ leafAllows 0x1000F .atomic ∧
      leafAllows 0x10013 .fetch ∧ (let s := tableState 0x1000F
        inRegion (entryAddr 0x1000F + 0xFFFF) = true ∧ s.frameCheck 1 (entryAddr 0x1000F + 0xFFFF) = none ∧ s.sealed 1 = false ∧ s.sealedVa 1 0xFFFF = false)) ∧
    (walksTo (tableState 0x1000E) 0x1000E ∧ (0x1000E : Word).getLsbD 0 = false) ∧
    (walksTo (tableState 0x1000B) 0x1000B ∧ leaf3 0x1000B ∧ (0x1000B : Word).getLsbD 2 = false) ∧
    (walksTo (tableState 0x1004F) 0x1004F ∧ leaf3 0x1004F ∧ (0x1004F : Word).getLsbD 3 = true ∧ (0x1004F : Word).getLsbD 6 = true) := by
  simp only [walksTo, leaf3, nextLevel, leafAllows]
  refine ⟨?_, ?_, ?_, ?_⟩ <;> and_intros <;> decide +kernel
/-- R425: a bundle of 10 bytes whose second page is not mapped faults at its start address, with its size. -/
theorem test_fetch_fault_second_page :
    (match ((tableState 0x10013).fetchLines 0 0xFFFA 10 2 0xFFFA).1 with
     | .error (.fault f) => some (f.va, f.detail, f.level, f.size, f.kind)
     | _ => none) = some (0xFFFA, 1, 3, 10, .fetch) := by decide +kernel
/-- Frame 1 in a state, of context 1. -/
def frameIn (st : FrameSt) : State := { on [] with frames := [{ no := 1, st := st, toBound := false, owner := 1, dirty := false, win := none }] }
/-- A walk of unit 0 over block 511. -/
def lastBlock : Walk := { unit := 0, pending := [], busy := [511], scrub := [] }
/-- Context 1 with a sealed page of code to be hashed. -/
def hashPage : SealedPage := { va := 0, digest := 0, frame := 1, verified := false }
def hashState : State :=
  let s := tableState 0x10013
  { s with ctxs := s.ctxs.set 1 { s.ctx 1 with kernels := Ctx.free.kernels.set 63 { KRec.absent with st := .active, pages := [hashPage] } } }
/-- An answer that is no error. -/
theorem ok_of {ε α : Type} {e : Except ε α} (h : e.isOk = true) : ∃ x, e = .ok x := by
  cases e with
  | ok x => exact ⟨x, rfl⟩
  | error f => simp [Except.isOk, Except.toBool] at h
theorem witness_memory_events :
    ((frameIn .tracked).memWf ∧ (frameIn .tracked).noWalks ∧ (let s := frameIn .tracked
      s.tagOf (tagCtx 1) = 1 ∧ s.frameCheck (tagCtx 1) 0x1FFF8 = none ∧ s.sealed 1 = false ∧ (s.frame 1).st = .tracked ∧ s.tagOf (tagCtx 0x81) ≠ 0x81 ∧
        s.frameCheck (tagCtx 1) 0x20000 ≠ none)) ∧
    (let p : SealedPage := { va := 0, digest := 0, frame := 1, verified := true }
     let s := { frameIn .bound with ctxs := (on []).ctxs.set 1 { ctxIn .ready with gen := 0, kernels := Ctx.free.kernels.set 0 { KRec.absent with
       st := .active, pages := [p] } } }
     s.tagOf (tagCtx 1) = 1 ∧ s.frameCheck (tagCtx 1) 0x10000 = none ∧ s.sealed 1 = true) ∧
    (let w : Walk := { lastBlock with busy := [], pending := List.range 17 }
     let s := (on []).modDie 3 (fun d => { d with waitWalks := [w] })
     (s.die 3).waitWalks = [w] ∧ (s.die 3).walks = [] ∧ (s.die 3).walkCmds = [] ∧ w.busy = []) ∧
    (let s := (on []).modDie 0 (fun d => { d with walks := [lastBlock] })
     (s.die 0).walks = [lastBlock] ∧ lastBlock.busy = 511 :: [] ∧ lastBlock.scrub.contains 511 = false) ∧
    (let s := hashState
     (∀ j, j < 63 → ((s.ctx 1).kernel j).pages = []) ∧ ((s.ctx 1).kernel 63).pages = [hashPage] ∧ hashPage.va = 0 ∧ hashPage.verified = false ∧
       ∃ x, s.walk 1 0 .fetch = .ok x) ∧ hashState.noWalks ∧
    (let s := { frameIn .bound with ctxs := (on []).ctxs.set 1 (ctxIn .lulled) }
     inRegion 0x10000 = true ∧ (s.frame 1).st = .bound ∧ 0 < (s.frame 1).owner ∧ (s.frame 1).owner < 65 ∧ (s.ctx 1).st = .lulled ∧ s.unfilled 0x10000 3 = false ∧
       s.tiles = []) ∧ (∀ c, ((on []).core c).seqr = none) ∧
    -- a store of core 0 held for a line whose frame is context 2's
    (let s := { (on []).modRs 0 (fun r => { r with gate := [⟨.dm, 0x10000, 0x10000, 0x10040, [1]⟩] }) with
       frames := [{ no := 1, st := .bound, toBound := false, owner := 2, dirty := false, win := none }] }
     (s.frame 1).owner = 2 ∧ s.unfilled 0x10000 1 = false ∧ (s.faultTiles 0x10000 2 1).peerReaders 0x10000 2 = [(0, 0x10040, 0x10000)]) ∧
    (∀ c, ((on []).core c).grp ≠ none → (on []).ctxOf c = 1) ∧
    ((((on []).die (stackDie 11)).reserve.toList.all (fun b => !b) = false) ∧
      (let s := { on [] with frames := [] }.modDie (stackDie 0) (fun d => { d with reserve := Vector.replicate 3 false })
       (s.die (stackDie 0)).reserve.toList.all (fun b => !b) = true ∧ (s.die (stackDie 0)).lost = false ∧ s.frames = [])) ∧
    ∀ c, ((on []).core c).rs.ldgs = [] := by
  unfold State.noWalks
  refine ⟨⟨canonical_of _ _ rfl rfl (by decide +kernel) (by decide +kernel), by decide +kernel, by decide +kernel⟩, by decide +kernel,
    by decide +kernel, by decide +kernel, ⟨by decide +kernel, by decide +kernel, by decide +kernel, by decide +kernel, ok_of (by decide +kernel)⟩, by decide +kernel, by decide +kernel,
    fun c => ?_, by decide +kernel, fun c hc => ?_, by decide +kernel, fun c => ?_⟩ <;> by_cases h : c = 0
  · subst h; decide +kernel
  · rw [core_of _ _ rfl c h]; rfl
  · subst h; decide +kernel
  · rw [core_of _ _ rfl c h] at hc; exact absurd rfl hc
  · subst h; decide +kernel
  · rw [core_of _ _ rfl c h]; rfl

/-! ### Witnesses: power, links, tiles -/

/-- The package with an image of its main firmware in flash slot A. -/
def imageA (bs : List Byte) : FwImage := { component := 0, version := 1, key := 0, bytes := bs }
def flashed (bs : List Byte) : State := { State.reset with boot := { Boot.reset with slotA := Boot.reset.slotA.set 0 (some (imageA bs)) } }
/-- The image boots wherever the package's public-key functions accept it; the spec gives neither the keys nor the places of the header's fields. -/
theorem witness_firmware (bs : List Byte) (f : FwImage) (h : (flashed bs).boot.fwCheck bs = .ok f) (hc : f.component = 0) :
    ∃ run, (flashed bs).boot.booted = false ∧ (flashed bs).boot.firmware = some (false, run) := by
  have hk : (flashed bs).boot.checked (flashed bs).boot.slotA 0 = some f := by
    simp only [Boot.checked, show (((flashed bs).boot.slotA[0]?).getD none) = some (imageA bs) from rfl, show (imageA bs).bytes = bs from rfl, h, hc]
    rfl
  have ht : (flashed bs).boot.take false 0 = some (false, f) := by
    rw [Boot.take]
    simp only [show ((flashed bs).boot.newest[0]?.getD none) = none from rfl, Option.getD_none, Bool.false_eq_true, if_false, hk]
    rfl
  exact ⟨_, rfl, by rw [Boot.firmware, ht]; rfl⟩
theorem witness_seedFails : (⟨[], [], [], [], [], [], true⟩ : BootTests).seedFails = true := rfl
theorem witness_PowerAndErrors :
    (({ State.reset with boot := { Boot.reset with booted := true } } : State).boot.booted = true) ∧
    (State.reset.boot.booted = false ∧ State.reset.boot.firmware = none) ∧
    ((on []).clockOk 63 650 ∧ (on []).clockOk 0 1300 ∧ (∃ c, clusterOf c = 0 ∧ ((inTimed (on [])).core c).timed = true) ∧
      ∀ c, clusterOf c = 63 → ((inTimed (on [])).core c).timed = false) ∧
    ((4 : BitVec 8) ≠ 0 ∧ 1 ≤ (1 : BitVec 4).toNat ∧ (5 : BitVec 4).toNat ≤ 5) ∧
    (∃ g, ((on []).core 0).grp = some 1 ∧ (on []).group 1 = some g ∧ g.st ≠ .ended ∧ 0 ∈ g.cores) ∧
    ((on []).inLull 0 = false ∧ (inGroup (fun g => { g with st := .lulling })).inLull 0 = true) ∧
    (∃ g : Group, let s := inGroup (fun g => { g with lost := [0] })
      (s.core 0).grp = some g.id ∧ s.groups = [g] ∧ 0 ∈ g.lost ∧ 0 ∈ g.cores ∧ g.st = .resident) ∧
    (let s := State.reset.modCtl 511 (fun t => { t with st := .failed })
     (s.core 511).ctl.st = .failed ∧ (s.core 511).grp = none ∧ ((s.die (dieOf 511)).spares[spareOf 511]?).getD false = true ∧
       let u := s.modDie 3 (fun d => { d with spares := Vector.replicate 8 false })
       (u.core 511).ctl.st = .failed ∧ (u.core 511).grp = none ∧ ((u.die (dieOf 511)).spares[spareOf 511]?).getD false = false) := by
  unfold State.clockOk
  refine ⟨by decide +kernel, by decide +kernel, ⟨by decide +kernel, by decide +kernel, ⟨0, by decide +kernel⟩, fun c hc => ?_⟩, by decide +kernel,
    ⟨_, rfl, rfl, by decide +kernel⟩, by decide +kernel, ⟨_, rfl, rfl, by decide +kernel⟩, by decide +kernel⟩
  have h : c ≠ 0 := fun e => by subst e; exact absurd hc (by decide)
  rw [core_of _ _ rfl c h]; rfl

/-- Core 0 in its group, with link `i` as given. -/
def linkAs (i : Nat) (st : LinkSt) (f : LinkRec → LinkRec) (s : State) : State := s.modLink i (fun r => f { r with st := st })
/-- A flit of package 5 for package 0, with its CRC or another. -/
def flit1 (seq : BitVec 16) (route : BitVec 32) (crc : Bool) : Flit :=
  let f : Flit := { tag := 0, cls := 3, srcDie := 3, dstDie := 0, srcPkg := 5, dstPkg := 0, routeSeq := route, linkSeq := seq, linkAck := 0
                    crc := 0, payload := [] }
  { f with crc := if crc then flitCrc f else ~~~ flitCrc f }
/-- The check value of the CRC-32 of IEEE 802.3: that of the digits 1 to 9. -/
theorem test_crc32 : crc32 [0x31, 0x32, 0x33, 0x34, 0x35, 0x36, 0x37, 0x38, 0x39] = 0xCBF43926 := by decide +kernel
theorem witness_LinksAndFlits :
    (let s := linkAs 17 .up (fun r => { r with lanes := 8 }) (on [])
     let l : LinkId := .pkg 11
     (s.linkOf l).st.carries = true ∧ (flit1 1 1 false).crc ≠ flitCrc (flit1 1 1 false) ∧ (flit1 1 1 true).crc = flitCrc (flit1 1 1 true) ∧ (flit1 2 1 true).linkSeq ≠ (s.linkOf l).rxSeq + 1 ∧
       (flit1 1 1 true).linkSeq = (s.linkOf l).rxSeq + 1 ∧ (flit1 1 1 true).dstPkg = s.pkg ∧ (flit1 1 1 true).cls.toNat ≤ 3 ∧ s.flitHeld = [] ∧
       (flit1 1 1 true).routeSeq.toNat = s.accepted (flit1 1 1 true) + 1 ∧ s.flitTagOk (flit1 1 1 true) = true ∧
       (flit1 1 0 true).routeSeq.toNat ≤ s.accepted (flit1 1 0 true) ∧ s.accepted (flit1 1 2 true) + 1 < (flit1 1 2 true).routeSeq.toNat ∧
       (s.linkOf l).retry = [] ∧ (s.linkOf l).badLanes = [] ∧ 6 ≤ (s.linkOf l).lanes) ∧ (∀ p, LinkId.pkg 11 ≠ .eth p) ∧
    (let s := linkAs 5 .degraded (fun r => { r with retry := [flit1 7 1 true, flit1 8 2 true] }) (on [])
     (s.linkOf (.die 5)).st.carries = true ∧ (s.linkOf (.die 5)).retry = [flit1 7 1 true] ++ flit1 8 2 true :: [] ∧
       (∀ g ∈ [flit1 7 1 true], g.linkSeq ≠ 8) ∧ (s.linkOf (.die 5)).again = none ∧
       (∀ g ∈ (s.linkOf (.die 5)).before2, s.arrived g = true)) ∧
    (let g := { flit1 1 1 true with cls := 2 }
     let s := linkAs 6 .detour (fun r => { r with held2 := true, before2 := [g] }) (on [])
     g ∈ (s.linkOf (.pkg 0)).before2 ∧ s.arrived g = false ∧ g.cls = 2 ∧ (s.linkOf (.pkg 0)).held2 = true) ∧
    512 ≤ (List.replicate 512 (flit1 1 1 true)).length ∧
    (((linkAs 6 .up (fun r => { r with lanes := 4 }) (on [])).linkOf (.pkg 0)).lanes < 6) ∧
    (let s := linkAs 6 .training (fun r => { r with attempts := 1 }) (on [])
     (s.linkOf (.pkg 0)).st = .training ∧ (s.linkOf (.pkg 0)).badLanes = [] ∧ fullLanes (.pkg 0) ≤ 8 ∧ (s.linkOf (.pkg 0)).attempts < 2 ∧
       2 ≤ ((linkAs 6 .training (fun r => { r with attempts := 2 }) (on [])).linkOf (.pkg 0)).attempts) ∧
    ((linkAs 18 .up id (on [])).linkOf (.eth .a)).st = .up ∧
    -- the page at address 0 has its home on die 3
    (let s := (linkAs 4 .down id (tableState 0xC00001000F)).modCtl 0 (fun t => { t with wait := some (.route 0) })
     ∃ g, s.groups = [g] ∧ g.st = .resident ∧ s.waitsFor g 3 = some 0) ∧
    ((63 : BitVec 6) ≠ (on []).pkg ∧ (on []).tiles = []) := by
  refine ⟨by decide +kernel, nofun, by decide +kernel, by decide +kernel, by decide +kernel, by decide +kernel, by decide +kernel, by decide +kernel,
    ⟨_, rfl, by decide +kernel⟩, by decide +kernel⟩
/-- A TMMA record of one element: A, B and C at the start of a page (Tables 13.1, 13.4). -/
def mma (sub : Nat) : List Byte :=
  [1, 0, 0, 0] ++ leBytes 4 0xB66 ++ leBytes 4 sub ++ leBytes 4 1 ++ leBytes 4 1 ++ leBytes 8 (3 * 2 ^ 62 + 0x1000) ++
    leBytes 8 (3 * 2 ^ 62 + 0x1000) ++ leBytes 8 (3 * 2 ^ 62 + 0x1000) ++ leBytes 8 0 ++ [7, 0, 1, 0] ++ leBytes 8 0
/-- A record node at a director. -/
def node (id : Nat) (lv : Level) (src : TileSrc) (b : List Byte) (st : TileSt) : TileNode :=
  { id := id, level := lv, ctx := 1, src := src, bytes := b, child := 0, st := st, staged := 0, copy := (0, 0), fault := none, answer := none
    retries := 0, group := none, lost := none, next := 0, blocks := [] }
def nodes (l : List TileNode) (s : State) : State := { s with tiles := l, tileCount := 9 }
/-- The macro sequencer of core 0. -/
def seqOn (q : Seqr) (s : State) : State := s.modMe (fun k => { k with seqr := some q })
def sq (sub : Nat) : Seqr := { Seqr.start (mma sub) none with ready := true }
/-- An entry of queue 0 of context 1 in flight at sequence 5. -/
def entry5 : InFlight := { seq := 5, bytes := mma 1, launch := 0, faulted := false }
def tiled (l : List TileNode) : State := nodes l (queueOn 0 { QRec.closed with st := .active, d := 6, inflight := [entry5] })
theorem witness_TileRecords_accept :
    (let t := node 2 .package (.entry 1 0 5) (mma 1) .waiting
     let s := tiled [node 1 (.die 0) (.parent 7) (mma 1) .waiting, t]
     s.tile t.id = some t ∧ s.foreign t = false ∧ t.st = .waiting ∧ (∀ u ∈ s.tiles.filter (fun u => decide (u.level = t.level)),
       u.st = .waiting → u.id < t.id → s.heldBack u = true) ∧
       ¬ t.level.limit ≤ ((s.tiles.filter (fun u => decide (u.level = t.level))).filter (fun u => u.live)).length ∧
       s.heldBack t = false ∧ s.decodesAt t = true ∧ t.level ≠ .span) ∧
    (let t := node 5 (.cluster 0) (.parent 7) (mma 1) .waiting
     let s := tiled ([1, 2, 3, 4].map (fun i => node i (.cluster 0) (.parent 7) (mma 1) .accepted) ++ [t])
     s.tile t.id = some t ∧ s.foreign t = false ∧
       t.level.limit ≤ ((s.tiles.filter (fun u => decide (u.level = t.level))).filter (fun u => u.live)).length) ∧
    (let t := node 2 .package (.entry 1 0 5) (mma 1) .waiting
     (tiled [node 1 .package (.entry 1 0 4) (mma 1) .accepted, t]).heldBack t = true) ∧
    (let t := node 2 (.die 0) (.parent 7) (mma 1) .waiting
     let u := node 1 (.die 0) (.parent 7) (mma 1) .waiting
     let s := tiled [u, t]
     s.heldBack t = false ∧ u ∈ s.tiles.filter (fun u => decide (u.level = t.level)) ∧ u.st = .waiting ∧ u.id < t.id ∧ s.heldBack u = false) ∧
    (let t := node 1 .span (.entry 1 0 5) (mma 1) .waiting
     let s := tiled [t]
     s.tile t.id = some t ∧ s.heldBack t = false ∧ (s.members t.ctx).length = 1) ∧
    (let t := node 1 .package (.entry 1 0 5) (List.replicate 64 0) .waiting
     let s := tiled [t]
     s.tile t.id = some t ∧ s.heldBack t = false ∧ s.decodesAt t = false ∧ t.fault = none ∧ t.isRoot = true) ∧
    (let r := node 7 .package (.entry 1 0 5) (mma 1) .accepted
     let t := node 1 (.die 0) (.parent 7) (List.replicate 64 0) .waiting
     let s := tiled [r, t]
     s.tile t.id = some t ∧ s.heldBack t = false ∧ s.decodesAt t = false ∧ t.isRoot = false ∧ s.tile 7 = some r) := by
  and_intros <;> decide +kernel
theorem witness_TileRecords_sequencer :
    (let q := { sq 1 with ready := false }
     let s := seqOn q (on [])
     (s.core 0).seqr = some q ∧ q.ready = false ∧ (s.core 0).grid.giq = [] ∧ (s.core 0).grid.pkts = []) ∧
    ((seqOn { sq 1 with ready := false } (grd (fun g => { g with pkts := [gpkt] }))).core 0).grid.pkts ≠ [] ∧
    (({ sq 1 with fault := some 1 } : Seqr).fault.isSome = true) ∧
    (let q := { sq 1 with sub := 1 }
     q.ready = true ∧ q.fault = none ∧ q.parent = none ∧ recSubtiles q.bytes ≤ q.sub.toNat ∧ (on []).ctxOf 0 < 65) ∧
    (let q := sq 65
     let s := seqOn q (on [])
     (s.core 0).seqr = some q ∧ q.phase = 0 ∧ q.sub.toNat < recSubtiles q.bytes ∧ recOp q.bytes = 1 ∧ recACC q.bytes = false ∧
       (s.core 0).timed = false) ∧
    (∀ h, (((seqOn (sq 65) (on [])).core 0).grp.bind (seqOn (sq 65) (on [])).group) = some h → h.lullReq = false) ∧
    (let q := { sq 1 with parent := some 2 }
     (seqOn q (on [])).seqJob q = none) := by
  refine ⟨by decide +kernel, by decide +kernel, by decide +kernel, by decide +kernel, by decide +kernel, fun h hh => ?_, by decide +kernel⟩
  cases hh
  decide +kernel
/-- An XB reference past the extent of the buffer. -/
def mmaFar : List Byte := setBytes (mma 1) 20 (leBytes 8 0x20000)
/-- A record of one row and `n` columns with another opcode and function. -/
def recAt (op n fn : Nat) : List Byte := setBytes (setBytes (mma 1) 0 [BitVec.ofNat 8 op]) 12 (leBytes 4 n ++ leBytes 4 fn)
/-- A cluster record on cluster 0 with its tile group, and a child on core `c`. -/
def clusterNode (b : List Byte) : TileNode := { node 1 (.cluster 0) (.parent 7) b .accepted with group := some 1, blocks := [0] }
def childAt (c : Nat) (b : List Byte) (st : TileSt) (staged : Nat) : TileNode :=
  { node (2 + c) (.core (coreIn 0 (BitVec.ofNat 3 c))) (.parent 1) b st with child := c, staged := staged }
/-- Core 0 with a sequencer for child 0 of a cluster record. -/
def childSeq (b : List Byte) (us : List TileNode) (q : Seqr) : State := seqOn q (mapped (nodes (clusterNode b :: us) (on [])))
def sqc (b : List Byte) (ph : BitVec 8) : Seqr := { Seqr.start b (some 2) with ready := true, phase := ph }
theorem witness_TileRecords_steps :
    -- the windows of a forwarding, open and closed
    (let b := recAt 1 1 1
     let q := sqc b 1
     let s := inTimed (childSeq b [childAt 0 b .released 1] q)
     (s.core 0).seqr = some q ∧ q.ready = true ∧ q.fault = none ∧ (s.seqJob q).isSome = true ∧ (s.core 0).timed = true ∧
       s.windowsClosed 0 = true ∧
       (s.modMe (fun k => { k with region := { k.region with sends := [win 1] } })).windowsClosed 0 = false) ∧
    -- a cancelled child, a child that waits for its chunk, and one at a CSYNC
    (let b := recAt 1 1 1
     let q := { sqc b 1 with sync := true }
     let s := childSeq b [childAt 0 b .failed 1] q
     ∃ j, s.seqJob q = some j ∧ s.seqCancelled q = true ∧ q.atPoint = true) ∧
    (let b := recAt 1 1 1
     let q := sqc b 1
     let s := childSeq b [childAt 0 b .released 0] q
     ∃ j, s.seqJob q = some j ∧ s.seqCancelled q = false ∧ s.seqWaits 0 q j = true ∧ (s.core 0).timed = false) ∧
    (let b := recAt 1 1 1
     let q := sqc b 1
     let s := childSeq b [childAt 0 b .released 1, childAt 1 b .released 1] q
     ∃ j, s.seqJob q = some j ∧ s.seqCancelled q = false ∧ s.seqWaits 0 q j = false ∧ q.syncAt j = true) ∧
    -- the lower core of a TRED row-pair whose sums have been sent
    (let b := recAt 3 65 0
     let q := { sqc b 3 with fwd := 1 }
     let s := childSeq b [childAt 0 b .released 1, childAt 1 b .released 1] q
     ∃ j, s.seqJob q = some j ∧ s.seqCancelled q = false ∧ s.seqWaits 0 q j = false ∧ q.syncAt j = false ∧ j.send = true ∧ q.phase = 3 ∧
       q.parent = some 2) ∧
    -- a write-back of a child
    (let b := recAt 5 1 0
     let q := sqc b 3
     let s := childSeq b [childAt 0 b .released 1] q
     ∃ j fl v, s.seqJob q = some j ∧ s.seqWaits 0 q j = false ∧ q.syncAt j = false ∧ j.send = false ∧
       s.seqStep { ctx := s.ctxOf 0, core := 0, env := s.env 0 } j q = (.ok fl, v)) ∧
    (let q := sq 65
     let s := seqOn q (on [])
     ∃ j fl v, s.seqJob q = some j ∧ s.seqWaits 0 q j = false ∧ q.syncAt j = false ∧ j.send = false ∧
       s.seqStep { ctx := s.ctxOf 0, core := 0, env := s.env 0 } j q = (.ok fl, v)) ∧
    (let q := { Seqr.start mmaFar none with ready := true, phase := 1 }
     let s := seqOn q (on [])
     ∃ j a v, s.seqJob q = some j ∧ s.seqWaits 0 q j = false ∧ q.syncAt j = false ∧ j.send = false ∧
       s.seqStep { ctx := s.ctxOf 0, core := 0, env := s.env 0 } j q = (.error (.bounds a), v)) := by
  exact ⟨by decide +kernel, ⟨_, rfl, by decide +kernel⟩, ⟨_, rfl, by decide +kernel⟩, ⟨_, rfl, by decide +kernel⟩, ⟨_, rfl, by decide +kernel⟩,
    ⟨_, _, _, rfl, by decide +kernel, by decide +kernel, by decide +kernel, rfl⟩,
    ⟨_, _, _, rfl, by decide +kernel, by decide +kernel, by decide +kernel, rfl⟩,
    ⟨_, _, _, rfl, by decide +kernel, by decide +kernel, by decide +kernel, rfl⟩⟩
theorem witness_TileRecords_complete :
    (let t := { node 1 .package (.entry 1 0 5) (mma 1) .accepted with next := 1 }
     let s := tiled [t]
     s.tile t.id = some t ∧ t.fault = none ∧ t.blocks = [] ∧ t.group = none ∧ s.pieces t ≤ t.next ∧ s.childrenOf t.id = [] ∧
       (s.queue 1 0).st = .active ∧ (s.queue 1 0).entry 5 0 = some entry5) ∧
    (let t := node 1 (.cluster 63) (.parent 7) (mma 1) .accepted
     let s := tiled [t, childAt 0 (mma 1) .complete 1]
     s.tile t.id = some t ∧ t.group = none ∧ s.childrenOf t.id ≠ [] ∧ ∀ u ∈ s.childrenOf t.id, u.st = .complete) ∧
    (let t := { node 1 (.die 3) (.parent 7) (mma 1) .accepted with blocks := [0] }
     let s := tiled [t]
     s.tile t.id = some t ∧ t.blocks ≠ [] ∧ s.foreign t = false) ∧
    (let t := { node 1 .package (.parent 7) (mma 1) .accepted with child := 5 }
     let s := tiled [t]
     s.tile t.id = some t ∧ s.foreign t = true ∧ t.fault = none ∧ recOp t.bytes ≠ 8) := by
  and_intros <;> decide +kernel
theorem witness_TileRecords_faults :
    (let t := node 1 .package (.entry 1 0 5) (mma 1) .failed
     let s := tiled [t]
     s.tile t.id = some t ∧ t.isRoot = true) ∧
    (let t := { node 1 (.cluster 63) (.parent 7) (mma 1) .faulted with retries := 1, lost := some (0x161, 3) }
     let s := tiled [t]
     s.tile t.id = some t ∧ s.redone t = [] ∧ coreLost (t.lost.getD (0x161, 0)).1 = true ∧ t.retries < 2 ∧ ¬ { t with retries := 2 }.retries < 2 ∧
       coreLost 0x050 = false ∧ (s.cluster 63).retired = false) ∧
    (let t := { node 1 (.cluster 63) (.parent 7) (mma 1) .faulted with lost := some (0x161, 0) }
     let u := { childAt 0 (mma 1) .released 1 with retries := 1 }
     let s := tiled [t, u]
     s.tile t.id = some t ∧ s.redone t = [u] ∧ u.id ≠ t.id ∧ s.tile u.id = some u ∧ u.retries < 2) ∧
    (let rec_ := faultRecord 0x050 (.core 0) (.core 0) 0 2 (mma 1) 0 0
     let t := { childAt 0 (mma 1) .released 1 with fault := some (rec_, none) }
     let s := tiled [node 1 (.cluster 0) (.entry 1 0 5) (mma 1) .accepted, t]
     s.tile t.id = some t ∧ t.st ≠ .faulted ∧ t.st ≠ .failed ∧ t.answer = none ∧ (rec_.drop 4).take 2 = t.level.path ∧
       s.tile 1 = some (node 1 (.cluster 0) (.entry 1 0 5) (mma 1) .accepted)) ∧
    (let rec_ := faultRecord 0x120 .package .package 0 2 (mma 1) 0 0
     let t := { node 1 .package (.entry 1 0 5) (mma 1) .accepted with fault := some (rec_, none) }
     let s := tiled [t]
     s.tile t.id = some t ∧ (rec_.drop 4).take 2 = t.level.path ∧ s.childrenOf t.id = [] ∧ (s.queue 1 0).st = .active ∧
       (s.queue 1 0).entry 5 0 = some entry5 ∧ entry5.faulted = false) ∧
    (let f : PageFault := { detail := 1, va := 0x20000, size := 4, kind := .read, level := 0, value := 0 }
     let rec_ := faultRecord 0x081 .package .package 0 0 (mma 1) 0 0
     let t := { node 1 .package (.entry 1 0 5) (mma 1) .accepted with fault := some (rec_, some f) }
     let s := tiled [t]
     s.tile t.id = some t ∧ (rec_.drop 4).take 2 = t.level.path ∧ s.childrenOf t.id = []) := by
  and_intros <;> decide +kernel
/-- A cluster record in staging with one child, its pages at address 0x10000. -/
def stageState (b : List Byte) (u : TileNode) : State := mapped (nodes [clusterNode b, u] (on []))
/-- The copy at hand of child 0. -/
def stageJob (b : List Byte) : StageJob :=
  { b := b, core := 0, even := 0, chunk := 0, i := 0, j := 0, m := 1, n := 1, lo := 0, hi := 1, a := ⟨fpOne, 0, 0⟩, c := ⟨fpOne, 0, 0⟩ }
theorem witness_TileRecords_staging :
    (on []).clusterRecord 63 = none ∧
    (let b := recAt 5 1 0
     let u := childAt 0 b .staging 0
     let s := stageState b u
     s.clusterRecord 0 = some (clusterNode b) ∧ s.childrenOf 1 = [u] ∧ u.child < 8 ∧ (clusterNode b).blocks = [0] ∧ s.stagingHeld 0 = false ∧
       s.wantsChunk u = true ∧ (s.childImages (clusterNode b) u)[u.copy.1]? = some .rowsA ∧ recOp b ≠ 1 ∧
       u.copy.1 + 1 = (s.childImages (clusterNode b) u).length ∧ (s.outOf (clusterNode b)).coreTile b 0 0 = (0, 0, 1, 1) ∧
       childRun b 0 1 = (0, 1) ∧ s.wantsChunk { u with staged := 1 } = false ∧
       (stageState b { u with fault := some (faultRecord 0x081 (.cluster 0) (.cluster 0) 0 1 b 0 0, none) }).stagingHeld 0 = true) ∧
    (let b := recAt 2 1 1
     let u := childAt 0 b .staging 0
     let s := stageState b u
     s.clusterRecord 0 = some (clusterNode b) ∧ (s.childImages (clusterNode b) u)[u.copy.1]? = some .rowsA ∧
       u.copy.1 + 1 ≠ (s.childImages (clusterNode b) u).length) ∧
    (∃ y v, (let b := recAt 5 1 0
      let s := stageState b (childAt 0 b .staging 0)
      s.copyUnits { ctx := 1, core := 0, env := s.tileEnv 1 } (stageJob b) .rowsA 0 ((stageJob b).units .rowsA - 0) = ((none, y), v))) ∧
    ∃ g y v, (let b := setBytes (recAt 5 1 0) 20 (leBytes 8 (3 * 2 ^ 62 + 0x2000))
      let s := stageState b (childAt 0 b .staging 0)
      s.copyUnits { ctx := 1, core := 0, env := s.tileEnv 1 } (stageJob b) .rowsA 0 ((stageJob b).units .rowsA - 0) = ((some (.page g), y), v)) := by
  refine ⟨by decide +kernel, by decide +kernel, by decide +kernel, ⟨_, _, rfl⟩, ⟨_, _, _, rfl⟩⟩

/-! ### Witnesses: messages of hosts -/

/-- A flow of a context on port A. -/
def flowOf (no : BitVec 10) (n : Nat) : Flow :=
  { port := .a, no := no, ctx := n, ip := 9, udp := 7, key := 0, tx := 1, rx := 0, held := [], inq := [], unacked := [], sacked := [], retries := 0
    pendAck := 0, acks := 0, renewed := false }
/-- Port A up with flow 0 of the system context and flow 3 of context 1, which has budgets. -/
def hosted (fs : List Flow) (s : State) : State :=
  { (linkAs 18 .up id s) with
    ctxs := s.ctxs.set 1 { s.ctx 1 with desc := { (s.ctx 1).desc with budget := List.replicate 12 4096 } }, flows := fs }
def flows2 : List Flow := [flowOf 0 0, flowOf 3 1]
/-- The sequence and the names of a header on flow 3 under the tag of context 1, and of one on flow 0. -/
def hdr (seq : BitVec 32) : Hdr :=
  { port := .a, ip := 9, udp := 7, dst := 0, version := 0, type := 0, len := 0, flow := 3, tag := 1, seq := seq, ack := 0, sack := 0, operand := 0
    cipher := [], mac := [] }
def hdr0 : Hdr := { hdr 0 with flow := 0, tag := 0 }
/-- The datagram of a message under its flow's key (Table 18.4, R389). -/
def sealHdr (f : Flow) (type operand : Nat) (body : List Byte) (h : Hdr) : Hdr :=
  let g := { h with dst := 47130, version := 1, type := BitVec.ofNat 8 type, len := BitVec.ofNat 16 body.length, operand := BitVec.ofNat 64 operand }
  let e := gcmSeal f.key (thtIv g.flow false (decide (g.type = 0)) (hdrBytes g)) (hdrBytes g) body
  { g with cipher := e.1, mac := e.2 }
def sealMsg (f : Flow) (m : InMsg) (h : Hdr) : Hdr := sealHdr f m.type m.operand m.body h
def sealCmd (f : Flow) (c : Cmd) (h : CmdHdr) : CmdHdr := { h with hdr := sealMsg f (.cmd h c) h.hdr }
/-- What is sealed opens to itself. -/
theorem gcmOpen_gcmSeal (key : BitVec 256) (iv : BitVec 96) (aad p : List Byte) :
    gcmOpen key iv aad (gcmSeal key iv aad p).1 (gcmSeal key iv aad p).2 = some p := by
  simp only [gcmOpen, gcmSeal, if_pos, gcmStream, List.mapIdx_mapIdx, Option.some.injEq]
  apply List.ext_getElem <;> simp [BitVec.xor_assoc]
theorem opens_seal (f : Flow) (t o : Nat) (b : List Byte) (h : Hdr) : f.opens (sealHdr f t o b h) = some b := gcmOpen_gcmSeal _ _ _ _
theorem holds_seal (f : Flow) (t o : Nat) (b : List Byte) (h : Hdr) (hs : (decide (t < 256) && decide (o < 2 ^ 64) && decide (b.length < 65536)) = true) :
    hdrHolds (sealHdr f t o b h) f t o b = true := by
  simp only [Bool.and_eq_true, decide_eq_true_eq] at hs
  obtain ⟨⟨h1, h2⟩, h3⟩ := hs
  rw [hdrHolds, opens_seal]
  simp [sealHdr, Nat.mod_eq_of_lt h1, Nat.mod_eq_of_lt h2, Nat.mod_eq_of_lt h3] <;> omega
theorem knows_seal (f : Flow) (t o : Nat) (b : List Byte) (h : Hdr) (hi : f.ip = h.ip) (hu : f.udp = h.udp) : f.knows (sealHdr f t o b h) :=
  ⟨rfl, rfl, hi, hu, by rw [opens_seal]; simp⟩
/-- A message's fields fit its header. -/
def fits (m : InMsg) : Bool := decide (m.type < 256) && decide (m.operand < 2 ^ 64) && decide (m.body.length < 65536)
/-- What a message asks of the state to arrive. -/
def arrivesOn (s : State) (h : Hdr) (m : InMsg) (f : Flow) : Bool :=
  decide ((s.link (18 + (portIx h.port).val)).st = .up) && decide (s.flows.filter (fun g => decide (g.port = h.port ∧ g.no = h.flow)) = [f]) &&
    decide (f.ip = h.ip) && decide (f.udp = h.udp) && decide (h.seq.toNat = f.rx) && decide (f.held = []) && decide (f.inq = []) &&
    decide (s.shareUsed h.port f.ctx + m.payload ≤ 262144) && s.underCap h.port f.ctx m.cls && decide (∀ d, s.dieReach (portDie h.port) d = true) &&
    s.wellFormedMsg h.port m && fits m
theorem arrives_of {s : State} {h : Hdr} {m : InMsg} {f : Flow} (ha : arrivesOn s h m f = true) : s.arrives (sealMsg f m h) m f := by
  simp only [arrivesOn, Bool.and_eq_true, decide_eq_true_eq] at ha
  obtain ⟨⟨⟨⟨⟨⟨⟨⟨⟨⟨⟨h1, h2⟩, h3⟩, h4⟩, h5⟩, h6⟩, h7⟩, h8⟩, h9⟩, h10⟩, h11⟩, h12⟩ := ha
  refine ⟨⟨h1, h2, knows_seal f _ _ _ h h3 h4, h5, h6, h7, h8, h9, h10⟩, ?_⟩
  rw [State.goodForm, show (sealMsg f m h).port = h.port from rfl, h11, Bool.true_and]
  exact holds_seal f _ _ _ h h12
/-- Context 1 with queue 0 open, a page of its own and port A up. -/
def hostState : State := mapped (hosted flows2 (queueOn 0 { QRec.closed with st := .empty, s := 6, ringPa := [some 0x10000] }))
theorem witness_Messages_screen :
    (let s := hostState
     carriesMsg (fun h => .xlate h 0x10000 64 true) (.xlate 0x10000 64 true) ∧ (s.link (18 + (portIx .a).val)).st = .up ∧
       ¬ (s.link (18 + (portIx .b).val)).st = .up ∧ s.flow .a 9 = none ∧ s.flow .a 3 = some (flowOf 3 1) ∧ (flowOf 3 1).ip = (hdr 0).ip ∧
       (flowOf 3 1).udp = (hdr 0).udp ∧ ({ hdr 0 with udp := 8 } : Hdr).udp ≠ (flowOf 3 1).udp ∧
       (hdr 0).tag = s.tagOf 1 ∧ (2 : Tag) ≠ s.tagOf 1 ∧ s.earlier 1 2 = false) ∧
    ((flowOf 3 1).knows (sealMsg (flowOf 3 1) (.xlate 0x10000 64 true) (hdr 0)) ∧
      hostState.goodForm (flowOf 3 1) (sealMsg (flowOf 3 1) (.xlate 0x10000 64 true) (hdr 0)) (.xlate 0x10000 64 true) = true ∧
      (flowOf 3 1).knows (sealMsg (flowOf 3 1) (.xlate 0x10000 65 true) (hdr 0)) ∧
      hostState.goodForm (flowOf 3 1) (sealMsg (flowOf 3 1) (.xlate 0x10000 65 true) (hdr 0)) (.xlate 0x10000 65 true) = false) ∧
    (let f := { flowOf 3 1 with rx := 5, held := [(6, hdr 6, .writeDone 0 0)] }
     let s := hosted [f] hostState
     s.flow .a 3 = some f ∧ (hdr 4).seq.toNat < f.rx ∧ (∃ x ∈ f.held, x.1 = (hdr 6).seq.toNat) ∧ f.rx + 64 ≤ (hdr 69).seq.toNat ∧
       (∀ x ∈ f.held, x.1 ≠ (hdr 69).seq.toNat) ∧ f.rx < (hdr 68).seq.toNat ∧ (hdr 68).seq.toNat < f.rx + 64 ∧
       (∀ x ∈ f.held, x.1 ≠ (hdr 68).seq.toNat) ∧ f.inq = [] ∧ s.shareUsed .a f.ctx + (InMsg.writeDone 0 0).payload ≤ 262144) ∧
    (let big : List (Nat × Hdr × InMsg) := (List.range 40).map (fun i => (i + 1, hdr 1, .append 0 (List.replicate 100 (List.replicate 64 0))))
     let f := { flowOf 3 1 with held := big.drop 1 }
     let s := hosted [f] hostState
     s.flow .a 3 = some f ∧ (∀ x ∈ f.held, x.1 ≠ (hdr 1).seq.toNat) ∧
       262144 < s.shareUsed .a f.ctx + (InMsg.append 0 (List.replicate 300 (List.replicate 64 0))).payload) := by
  refine ⟨⟨Or.inr (Or.inr (Or.inr (Or.inl ⟨_, _, _, rfl, rfl⟩))), ?_⟩, ⟨knows_seal _ _ _ _ _ rfl rfl, ?_, knows_seal _ _ _ _ _ rfl rfl, ?_⟩, ?_, ?_⟩
  · and_intros <;> decide +kernel
  · rw [State.goodForm, show hostState.wellFormedMsg _ (.xlate 0x10000 64 true) = true by decide +kernel, Bool.true_and]
    exact holds_seal _ _ _ _ _ (by decide +kernel)
  · rw [State.goodForm, show hostState.wellFormedMsg _ (.xlate 0x10000 65 true) = false by decide +kernel, Bool.false_and]
  · dsimp only; and_intros <;> decide +kernel
  · dsimp only; and_intros <;> decide +kernel
theorem witness_Messages_forms :
    (∀ m ∈ [InMsg.append 0 [List.replicate 64 0], .append 0 [], .read 0x10000 4 0, .write 0x10000 0 [1], .xlate 0x10000 64 true, .readData 5 0 0 [1],
      .writeDone 5 0], hostState.arrives (sealMsg (flowOf 3 1) m (hdr 0)) m (flowOf 3 1)) ∧ (hdr 0).tag = hostState.tagOf 1 ∧
    (∀ u ∈ [hostState.taken (hdr 0) (flowOf 3 1) (.append 0 [List.replicate 64 0])],
      u.appendRefused (tagCtx (hdr 0).tag) 0 1 = none ∧ u.appendRefused (tagCtx (hdr 0).tag) 0 0 = some 2) ∧
    (let u := hostState.taken (hdr 0) (flowOf 3 1) (.read 0x10000 4 0)
     u.onePiece 1 0x10000 (4 : BitVec 32).toNat ∧ (4 : BitVec 32).toNat ≤ (u.port .a).dataLimit ∧
       (∃ pa w, u.translate 1 (portDie .a) none 0x10000 .read (4 : BitVec 32).toNat = (.ok pa, w) ∧ w.noWalks) ∧
       ∃ f w, u.translate 1 (portDie .a) none 0x30000 .read (4 : BitVec 32).toNat = (.error f, w)) ∧
    (let u := hostState.taken (hdr 0) (flowOf 3 1) (.write 0x10000 0 [1])
     (u.ctx 1).exported = false ∧ u.onePiece 1 0x10000 [(1 : Byte)].length ∧
       (∃ pa w, u.translate 1 (portDie .a) none 0x10000 .write [(1 : Byte)].length = (.ok pa, w)) ∧
       ∃ f w, u.translate 1 (portDie .a) none 0x30000 .write [(1 : Byte)].length = (.error f, w)) := by
  have hx : ∀ m ∈ [InMsg.append 0 [List.replicate 64 0], .append 0 [], .read 0x10000 4 0, .write 0x10000 0 [1], .xlate 0x10000 64 true,
      .readData 5 0 0 [1], .writeDone 5 0], arrivesOn hostState (hdr 0) m (flowOf 3 1) = true := by decide +kernel
  unfold State.noWalks State.onePiece
  exact ⟨fun m hm => arrives_of (hx m hm), by decide +kernel, by decide +kernel,
    ⟨by decide +kernel, by decide +kernel, ⟨_, _, rfl, by decide +kernel⟩, ⟨_, _, rfl⟩⟩,
    ⟨by decide +kernel, by decide +kernel, ⟨_, _, rfl⟩, ⟨_, _, rfl⟩⟩⟩
/-- A command of the system context, its message in order on flow 0. -/
def sysCmd (n : CtxNo) : CmdHdr := { hdr := hdr0, target := n, id := 1 }
/-- A command that arrives in order. -/
theorem arrives_cmd {s : State} {h : CmdHdr} {c : Cmd} {f : Flow} (ha : arrivesOn s h.hdr (.cmd h c) f = true) :
    s.arrives (sealCmd f c h).hdr (.cmd (sealCmd f c h) c) f := arrives_of (m := .cmd h c) ha
/-- The queue of `hostState` with its ring on no page. -/
def unringed : State := mapped (hosted flows2 (queueOn 0 { QRec.closed with st := .empty, s := 6, ring := 0x300000, ringPa := [none] }))
/-- A header under the tag of generation 1. -/
def oldHdr : Hdr := { hdr 0 with tag := (1 : BitVec 9) ++ (1 : BitVec 7) }
def aged : State := { hostState with ctxs := hostState.ctxs.set 1 { hostState.ctx 1 with gen := 2, gens := 2 } }
/-- What a message asks of `aged` to be in turn. -/
def asksAged (n : Nat) (c : Option Nat) : Bool := decide (aged.shareUsed .a 1 + n ≤ 262144) && aged.underCap .a 1 c
theorem inTurn_aged (t o : Nat) (b : List Byte) {m : InMsg} (h : asksAged m.payload m.cls = true) :
    aged.inTurn (sealHdr (flowOf 3 1) t o b oldHdr) m (flowOf 3 1) := by
  simp only [asksAged, Bool.and_eq_true, decide_eq_true_eq] at h
  exact ⟨show (aged.link 18).st = .up by decide +kernel,
    show aged.flows.filter (fun g => decide (g.port = .a ∧ g.no = 3)) = [flowOf 3 1] by decide +kernel, knows_seal _ _ _ _ _ rfl rfl, rfl, rfl, rfl,
    h.1, h.2, show ∀ d, aged.dieReach (portDie .a) d = true by decide +kernel⟩
theorem aged_asks : ∀ m ∈ [InMsg.append 0 [[]], .read 0x10000 4 0, .write 0x10000 0 [1], .xlate 0x10000 65 true], asksAged m.payload m.cls = true := by
  decide +kernel
theorem witness_Messages_rest :
    (hostState.memWf ∧ hostState.noWalks ∧ (List.replicate 64 (1 : Byte)).length = 64 ∧ hostState.appendRefused 1 0 1 = none ∧
      (hostState.mapRing 1 0).slotAt 1 0 ((hostState.mapRing 1 0).queue 1 0).a = some 0x10000 ∧ (hostState.mapRing 1 0).sealed 1 = false ∧
      (unringed.mapRing 1 0).slotAt 1 0 ((unringed.mapRing 1 0).queue 1 0).a = none ∧ unringed.appendRefused 1 0 1 = none) ∧
    (let h := sealCmd (flowOf 0 0) (.unknown 0xFF) (sysCmd 1)
     hostState.arrives h.hdr (.cmd h (.unknown 0xFF)) (flowOf 0 0) ∧ h.hdr.tag = hostState.tagOf 0 ∧
       (hostState.taken h.hdr (flowOf 0 0) (.cmd h (.unknown 0xFF))).busy 1 = false ∧
       ((hostState.taken h.hdr (flowOf 0 0) (.cmd h (.unknown 0xFF))).ctx 1).cmdQ = []) ∧
    ((∀ m ∈ [InMsg.append 0 [[]], .read 0x10000 4 0, .write 0x10000 0 [1], .xlate 0x10000 65 true],
        aged.inTurn (sealMsg (flowOf 3 1) m oldHdr) m (flowOf 3 1)) ∧
      (let h := sealHdr (flowOf 3 1) 1 0 [7] oldHdr
       aged.inTurn h (.malformed h.cipher.length) (flowOf 3 1) ∧ h.type = 1) ∧ oldHdr.tag ≠ aged.tagOf 1 ∧ aged.earlier 1 oldHdr.tag = true) ∧
    (let f := { flowOf 3 1 with tx := 4 }
     let h := sealHdr f 0 0 [] { hdr 0 with ack := 3, sack := 1 }
     let s := hosted [f] hostState
     (s.link 18).st = .up ∧ s.flow .a 3 = some f ∧ f.knows h ∧ hdrHolds h f 0 0 [] = true ∧ h.tag = s.tagOf f.ctx ∧ h.ack.toNat < f.tx) := by
  unfold State.noWalks
  refine ⟨⟨canonical_ctx _ _ _ rfl rfl rfl (by decide +kernel) (by decide +kernel), ?_⟩, ⟨arrives_cmd (by decide +kernel), ?_, ?_, ?_⟩,
    ⟨fun m hm => inTurn_aged _ _ _ (aged_asks m hm), ⟨inTurn_aged _ _ _ (by decide +kernel), rfl⟩, ?_, ?_⟩, ⟨?_, ?_, knows_seal _ _ _ _ _ rfl rfl, holds_seal _ _ _ _ _ ?_, ?_, ?_⟩⟩ <;>
    (try decide +kernel)
/-- A message sent at a sequence. -/
def sentAt (n : Nat) (m : Msg) : OutMsg := { port := .a, flow := 3, seq := n, tag := 1, ack := 0, sack := 0, msg := m }
theorem witness_FlowTimersAndBudgets :
    (hostState.flow .b 0 = none ∧ (flowOf 3 1).pendAck = 0 ∧
      (let f := { flowOf 3 1 with pendAck := 1 }
       (hosted [f] hostState).flow .a 3 = some f ∧ 0 < f.pendAck)) ∧
    (∀ o ∈ (flowOf 3 1).unacked, o.seq ∈ (flowOf 3 1).sacked) ∧
    (let f := flowOf 3 1
     let h := sealHdr f 3 0x10000 [1] (hdr 0)
     f.knows h ∧ (hostState.link 18).st = .up ∧ hostState.flow .a 3 = some f ∧ h.tag = hostState.tagOf f.ctx ∧ hostState.flow .a 9 = none) ∧
    (let o := sentAt 5 (.writeDone 0 0 0)
     let f := { flowOf 3 1 with unacked := [sentAt 4 (.writeDone 0 0 0), o], sacked := [4], retries := 11 }
     let s := hosted [f] hostState
     s.flow .a 3 = some f ∧ o ∈ f.unacked ∧ o.seq ∉ f.sacked ∧ f.retries < 12 ∧ 12 ≤ { f with retries := 12 }.retries) ∧
    ((64 : CtxNo).toNat < 65 ∧ hostState.eventFlow 64 = none ∧
      (let e : Event := { code := 1, tag := 1, seq := 1, data := [] }
       let s := { hostState with ctxs := hostState.ctxs.set 1 { hostState.ctx 1 with events := [e], desc := { (hostState.ctx 1).desc with evhost := 9 } } }
       s.eventFlow 1 = some (flowOf 3 1) ∧ (s.ctx 1).events = [e])) ∧
    ((∀ f ∈ hostState.flows, f.inq = []) ∧ hostState.waitOut = [] ∧
      (hostState.port .a).capNext = [] ∧ ((hostState.modPort .a (fun q => { q with capNext := [(1, 7)] })).port .a).capNext = [(1, 7)] ∧
      ((hostState.modPort .a (fun q => { q with capNext := [(2, 7)] })).port .a).capNext = [(2, 7)] ∧
      1 ∈ ({ hostState with ctxs := hostState.ctxs.set 1 { hostState.ctx 1 with bound := true } } : State).boundCtxs) ∧
    (let m : Msg := .xnote 0 1
     let s := { hostState with waitOut := [{ port := .a, flow := (flowOf 3 1).no, msg := m, rest := [] }] }
     (flowOf 3 1).tx < 0xFFFFFFFF ∧ s.flow .a (flowOf 3 1).no = some (flowOf 3 1) ∧ m.cls = some 2 ∧ (flowOf 3 1).ctx ≠ 0 ∧ (flowOf 3 1).ctx < 65 ∧
       0 < ((s.ctx (flowOf 3 1).ctx).desc.budgetOn .a).getD (2 * 2 + 1) 0 ∧
       (({ s with ctxs := s.ctxs.set 1 Ctx.free }.ctx 1).desc.budgetOn .a).getD (2 * 2 + 1) 0 = 0) := by
  and_intros <;> first | (rw [opens_seal]; exact nofun) | decide +kernel

/-! ### Witnesses: commands -/

/-- A command whose turn it is, on flow 0 or flow 3. -/
def dueOn (s : State) (h : CmdHdr) (c : Cmd) (f : Flow) : Bool :=
  let u := s.taken (sealCmd f c h).hdr f (.cmd (sealCmd f c h) c)
  arrivesOn s h.hdr (.cmd h c) f && decide (h.hdr.tag = s.tagOf f.ctx) &&
    (u.overtakes h c || (!u.busy h.ctx && decide ((u.ctx h.ctx).cmdQ = []) && !u.mustWait h c))
theorem due_of {s : State} {h : CmdHdr} {c : Cmd} {f : Flow} (hd : dueOn s h c f = true) : s.commandDue (sealCmd f c h) c f := by
  simp only [dueOn, Bool.and_eq_true, Bool.or_eq_true, decide_eq_true_eq, Bool.not_eq_true'] at hd
  obtain ⟨⟨h1, h2⟩, h3⟩ := hd
  refine ⟨arrives_cmd h1, h2, h3.imp (fun h => ?_) (fun h => ⟨h.1.1, h.1.2, ?_⟩)⟩
  · cases c <;> exact h
  · have := h.2
    cases c <;> exact this
/-- A state with this context 1, a page of its own at address 0, three frames of the system context, and port A up. -/
def ctxState (c : Ctx) : State :=
  hosted flows2 { tableState 0x1000F with ctxs := State.reset.ctxs.set 1 { c with desc := { c.desc with sroot := 0x20000 } }, parts := readyState.parts }
/-- A command of the system context for context 1, and one of context 1 for itself. -/
def sys1 : CmdHdr := sysCmd 1
def own1 : CmdHdr := { hdr := hdr 0, target := 1, id := 1 }
/-- A context of tag 1 in a state. -/
def c1 (st : CtxSt) (f : Ctx → Ctx := id) : Ctx := f { Ctx.free with st := st, desc := { Desc.zero with qmax := 64 } }
/-- The state in which a command is performed. -/
def at0 (s : State) (c : Cmd) : State := s.taken (sealCmd (flowOf 0 0) c sys1).hdr (flowOf 0 0) (.cmd (sealCmd (flowOf 0 0) c sys1) c)
def at3 (s : State) (c : Cmd) : State := s.taken (sealCmd (flowOf 3 1) c own1).hdr (flowOf 3 1) (.cmd (sealCmd (flowOf 3 1) c own1) c)
def mk (k : BitVec 8) (s : State) : State := { s with mkeys := s.mkeys.set! k.toNat (some { key := 1, buf := 0x20000, len := 0x100000, part := 0, sroot := 0x20000, seq := 0 }) }
def img : List Byte := ({ Desc.zero with sroot := 0x20000, qmax := 64, pmax := 7 } : Desc).image 0

/-- The header of these names the issuer and a tenant. -/
theorem witness_headers : tagCtx sys1.hdr.tag = 0 ∧ tagCtx own1.hdr.tag ≠ 0 ∧ tagCtx own1.hdr.tag = own1.target.toNat ∧ 1 ≤ sys1.target.toNat ∧
    sys1.target.toNat ≤ 64 ∧ ¬ (1 ≤ (sysCmd 0).target.toNat) := by decide
theorem witness_ContextCommands :
    ((∀ p ∈ [(ctxState (c1 .free), Cmd.ctxCreate), (ctxState (c1 .configured), .ctxWrite img), (ctxState (c1 .ready), .ctxRead), (ctxState (c1 .configured), .ctxBind),
      (ctxState (c1 .ready), .ctxLull), (ctxState (c1 .lulled), .ctxThaw), (ctxState (c1 .frozen), .ctxReset), (ctxState (c1 .frozen), .ctxDestroy)],
      dueOn p.1 sys1 p.2 (flowOf 0 0) = true) ∧
    (∀ p ∈ [(ctxState (c1 .ready), Cmd.ctxMigrate), (ctxState (c1 .migrating), .ctxMigrateAbort),
      (ctxState (c1 .migrating), .ctxDirty 1 65536), (mk 7 (ctxState (c1 .lulled)), .ctxExport 7), (mk 7 (ctxState (c1 .free)), .ctxImport 7),
      (ctxState (c1 .lulled), .ctxRelease), (ctxState (c1 .free), .mkeySet 7 0 0x20000 0x100000 63 0)], dueOn p.1 sys1 p.2 (flowOf 0 0) = true) ∧
    (dueOn (ctxState (c1 .ready)) own1 .ctxReset (flowOf 3 1) = true ∧ dueOn (ctxState (c1 .ready)) own1 .ctxBind (flowOf 3 1) = true)) ∧
    ((at0 (ctxState (c1 .free)) .ctxCreate).ctx 1).st = .free ∧ ((at0 (ctxState (c1 .ready)) .ctxCreate).ctx 1).st ≠ .free ∧
    (let u := at0 (ctxState (c1 .configured)) (.ctxWrite img)
     let d := descOf img
     (u.ctx 1).st = .configured ∧ imageFieldsOk img = true ∧ (u.ctx 1).desc.svfloor.toNat ≤ d.svfloor.toNat ∧ u.budgetsOk 1 d = true ∧
       (u.ctx 1).desc.flags.getLsbD 0 = false ∧ (u.ctx 1).desc.flags.getLsbD 1 = false) ∧
    (let u := at0 (ctxState (c1 .configured)) .ctxBind
     (u.ctx 1).st = .configured ∧ (∃ p, u.parts[(u.ctx 1).desc.part.toNat]? = some (some p)) ∧ (u.ctx 1).desc.sroot ≠ 0) ∧
    ((at0 (ctxState (c1 .ready)) .ctxLull).ctx 1).st = .ready ∧
    (let u := at0 (ctxState (c1 .lulled)) .ctxThaw
     (u.ctx 1).st = .lulled ∧ (u.ctx 1).exported = false) ∧
    (let u := at0 (ctxState (c1 .frozen)) .ctxDestroy
     (u.ctx 1).st ≠ .free ∧ (u.ctx 1).st ≠ .resetting) ∧
    (let u := at0 (ctxState (c1 .ready (fun c => { c with desc := { c.desc with flags := 2 } }))) .ctxMigrate
     (u.ctx 1).st = .ready ∧ (u.ctx 1).desc.flags.getLsbD 1 = true ∧ u.windowsOf 1 = []) ∧
    (1 ≤ (65536 : BitVec 32).toNat ∧ (65536 : BitVec 32).toNat ≤ 65536 ∧ (1 : BitVec 64).toNat + (65536 : BitVec 32).toNat ≤ 4 * 2596864) := by
  refine ⟨⟨?_, ?_, ?_⟩, ?_, ?_, ?_, ⟨?_, ?_, ?_⟩, ?_, ?_, ?_, ?_, ?_⟩ <;> try decide +kernel
  exact ⟨_, rfl⟩
/-- The transport of an image: the functions of an image and of its seal are not given by the spec, so their part stays a premise. -/
theorem witness_transport :
    (let s := mk 7 (ctxState (c1 .lulled (fun c => { c with lulledMig := true })))
     let u := at0 s (.ctxExport 7)
     dueOn s sys1 (.ctxExport 7) (flowOf 0 0) = true ∧ (u.ctx 1).st = .lulled ∧ (u.ctx 1).lulledMig = true ∧ (u.ctx 1).exported = false ∧
       (u.ctx 1).cmd = none ∧ u.mkey 7 ≠ none ∧ (48 + (Config.imageBody (u.imageFor 1)).length ≤ 0x100000 →
         ∀ m, u.mkey 7 = some m → 48 + (Config.imageBody (u.imageFor sys1.ctx)).length ≤ m.len.toNat ∧ m.seq + 1 < 2 ^ 32)) ∧
    (let u := at0 (mk 7 (ctxState (c1 .free))) (.ctxImport 7)
     (u.ctx 1).st = .free ∧ ∃ m, u.mkey 7 = some m) ∧
    (let u := at0 (ctxState (c1 .lulled (fun c => { c with exported := true }))) .ctxRelease
     (u.ctx 1).st = .lulled ∧ (u.ctx 1).exported = true) ∧
    (let u := at0 { ctxState (c1 .free) with frames := (List.range 18).map (fun i =>
        { no := i + 1, st := .bound, toBound := false, owner := 0, dirty := false, win := none }) } (.mkeySet 7 0 0x20000 0x100000 63 0)
     (0x20000 : Word).toNat % 65536 = 0 ∧ 1048576 ≤ (0x100000 : Word).toNat ∧ srootOk 0 = true ∧
       u.ctx0Range (0x20000 : Word).toNat (0x100000 : Word).toNat = true) ∧
    (((ctxState (c1 .resetting (fun c => { c with cmd := some (.reset [sys1] 2) }))).ctx 1).cmd = some (.reset [sys1] 2) ∧
      ((ctxState (c1 .resetting (fun c => { c with cmd := some (.destroy sys1 false) }))).ctx 1).cmd = some (.destroy sys1 false) ∧
      ((ctxState (c1 .resetting)).ctx 1).cmd = none) ∧
    (∃ e ∈ [((0 : CoreIx), (511 : CoreIx))], (1 : BitVec 512).getLsbD e.1.toNat = false ∨ (1 : BitVec 512).getLsbD e.2.toNat = false) := by
  refine ⟨⟨?_, ?_, ?_, ?_, ?_, ?_, fun hl m hm => ?_⟩, ?_, ?_, ?_, ?_, ?_⟩ <;> try decide +kernel
  · have he : (at0 (mk 7 (ctxState (c1 .lulled (fun c => { c with lulledMig := true })))) (.ctxExport 7)).mkey 7 =
        some { key := 1, buf := 0x20000, len := 0x100000, part := 0, sroot := 0x20000, seq := 0 } := by decide +kernel
    rw [he] at hm
    cases hm
    exact ⟨hl, by decide⟩
  · exact ⟨by decide +kernel, _, rfl⟩
/-- Context 1 with queue 63 as given. -/
def cq (st : CtxSt) (r : QRec) (f : Ctx → Ctx := id) : Ctx := c1 st (fun c => f { c with queues := c.queues.set 63 r })
/-- Context 1 with kernel slot 63 as given. -/
def ck (k : KRec) : Ctx := c1 .ready (fun c => { c with kernels := c.kernels.set 63 k })
/-- A page of bytes of zeros that is no image. -/
def loading : KRec := { KRec.absent with st := .loading, cmd := some own1, load := some (0, 128, State.reset.codekeys) }
theorem witness_QueueCommands :
    (∀ p ∈ [(ctxState (c1 .ready), Cmd.queueOpen 63 1 0 6 0 3), (ctxState (cq .ready { QRec.closed with st := .empty }), .queueClose 63),
      (ctxState (cq .ready { QRec.closed with st := .empty }), .queueSetprio 63 0), (ctxState (cq .ready { QRec.closed with st := .error }), .queueResume 63 1),
      (ctxState (c1 .frozen), .queueRead 63), (ctxState (cq .ready { QRec.closed with st := .active, event := true, a := 2, consumed := 1 }), .queueConsume 63 2),
      (ctxState (c1 .migrating), .fcRead 255 1), (ctxState (c1 .ready), .kernelLoad 0 64 0 0x10000)], dueOn p.1 own1 p.2 (flowOf 3 1) = true) ∧
    (let u := at3 (ctxState (c1 .ready)) (.queueOpen 63 1 0 6 0 3)
     (u.ctx 1).st = .ready ∧ (u.queue 1 63).st = .closed ∧ (63 : BitVec 16).toNat < (u.ctx 1).desc.qmax.toNat ∧
       u.mapPages 1 0 (2 ^ 12) .atomic = [some 0x10000] ∧ u.frameCheck 1 0x10000 = none ∧ ((u.ctx 1).queues.toList.all (fun r => !r.event)) = true) ∧
    (let u := at3 (ctxState (cq .ready { QRec.closed with st := .empty })) (.queueClose 63)
     (u.queue 1 63).st ≠ .closed ∧ (63 : BitVec 16).toNat < (u.ctx 1).desc.qmax.toNat ∧ (0 : BitVec 8).toNat ≤ (u.ctx 1).desc.pmax.toNat) ∧
    (let u := at3 (ctxState (cq .ready { QRec.closed with st := .error })) (.queueResume 63 1)
     (u.queue 1 63).st = .error) ∧
    (let e : InFlight := { entry5 with faulted := true }
     let s := ctxState (cq .ready { QRec.closed with st := .error, errCode := 7, errSeq := 5, inflight := [e], d := 6, c := 5, ringPa := [some 0x10000] })
     (s.queue 1 63).st = .error ∧ (s.queue 1 63).errHead = false ∧ (s.queue 1 63).errCode = 7 ∧ (s.queue 1 63).ringPa ≠ [] ∧ (∀ p ∈ (s.queue 1 63).ringPa, p.isSome = true) ∧
       (s.queue 1 63).inflight = [e] ∧ e.seq = (s.queue 1 63).errSeq ∧ e.faulted = true) ∧
    (let s := ctxState (cq .ready { QRec.closed with st := .error, errCode := 8, ring := 0x100000, s := 6 })
     (s.queue 1 63).st = .error ∧ (∃ p ∈ ((s.mapRing 1 63).queue 1 63).ringPa, p = none)) ∧
    (let u := at3 (ctxState (cq .ready { QRec.closed with st := .active, event := true, a := 2, consumed := 1 })) (.queueConsume 63 2)
     (u.queue 1 63).st ≠ .closed ∧ (u.queue 1 63).event = true ∧ (u.queue 1 63).consumed ≤ (2 : Word).toNat ∧ (2 : Word).toNat ≤ (u.queue 1 63).a) ∧
    (1 ≤ (1 : BitVec 16).toNat ∧ (255 : BitVec 16).toNat + (1 : BitVec 16).toNat ≤ 256) := by
  refine ⟨?_, ?_, ?_, ?_, ?_, ?_, ?_, ?_⟩ <;> decide +kernel
theorem witness_KernelCommands :
    (let s := ctxState (ck loading)
     ((s.ctx 1).kernel 63).st = .loading ∧ ((s.ctx 1).kernel 63).cmd = some own1 ∧ ((s.ctx 1).kernel 63).load = some (0, 128, State.reset.codekeys) ∧
       (∃ b u, s.readImage 1 0 (128 : BitVec 32).toNat = (some b, u) ∧
         ∃ d, u.loadCheck 1 State.reset.codekeys b 0 (128 : BitVec 32).toNat 0 0 false = some d) ∧
       ∃ u, s.readImage 1 0x20000 (128 : BitVec 32).toNat = (none, u)) ∧
    (((ctxState (c1 .ready)).ctx 1).kernel 63).st ≠ .loading ∧
    (let k : KRec := { KRec.absent with st := .active, handle := (1 : BitVec 26) ++ (63 : BitVec 6), active := 1 }
     let s := ctxState (ck k)
     dueOn s own1 (.kernelUnload 0x7F) (flowOf 3 1) = true ∧ dueOn s own1 (.kernelQuery 0x7F) (flowOf 3 1) = true ∧
       ((at3 s (.kernelUnload 0x7F)).ctx 1).byHandle 0x7F = some (63, k)) ∧
    (dueOn (ctxState (c1 .free)) sys1 (.codekeySet 15 0 1) (flowOf 0 0) = true ∧ (15 : BitVec 8).toNat < 16) := by
  refine ⟨⟨?_, ?_, ?_, ⟨_, _, rfl, _, rfl⟩, ⟨_, rfl⟩⟩, ?_, ?_, ?_⟩ <;> decide +kernel
/-- Contexts 1 and 2 READY, context 1 shareable, with a window. -/
def winState (ws : List Window) : State :=
  let s := ctxState (c1 .ready (fun c => { c with desc := { c.desc with flags := 1 } }))
  { s with ctxs := s.ctxs.set 2 { ctxIn .ready with gen := 0 }, windows := ws
           flows := s.flows ++ [flowOf 4 2] }
def win1 (b : Option Word) : Window := { handle := 5, owner := 1, base := 0, len := 0x10000, peer := 2, peerBase := b, key := 0, revoking := false }
theorem witness_WindowCommands :
    (dueOn (winState []) own1 (.winGrant 0 0x10000 2) (flowOf 3 1) = true ∧
      (let u := at3 (winState []) (.winGrant 0 0x10000 2)
       (u.ctx 1).st = .ready ∧ (u.ctx 2).st = .ready ∧ (u.ctx 1).desc.flags.getLsbD 0 = true ∧ (u.ctx 1).desc.fmask.getLsbD 5 = false ∧
         tagCtx 2 ≠ 1 ∧ u.tagCurrent 2 = true ∧ (u.ownFrames 1 0 (0x10000 : Word).toNat).isSome = true ∧
         (u.liveWindows.filter (fun w => decide (w.owner = 1))).length < 8 ∧ u.liveWindows.length < 64)) ∧
    (let s := winState [win1 none]
     let h : CmdHdr := { hdr := { hdr 0 with flow := 4, tag := 2 }, target := 2, id := 1 }
     let s := { s with ctxs := s.ctxs.set 2 { s.ctx 2 with desc := { (s.ctx 2).desc with budget := List.replicate 12 4096 } } }
     dueOn s h (.winAccept 5 0) (flowOf 4 2) = true ∧ tagCtx h.hdr.tag = h.target.toNat ∧
       (let u := s.taken h.hdr (flowOf 4 2) (.cmd h (.winAccept 5 0))
        (u.ctx 2).st = .ready ∧ u.liveWindows.find? (fun w => decide (w.handle = 5)) = some (win1 none) ∧ (win1 none).peer = u.tagOf 2 ∧
          (win1 none).peerBase = none)) ∧
    (let u := at3 (winState [win1 (some 0)]) (.winRevoke 5)
     dueOn (winState [win1 (some 0)]) own1 (.winRevoke 5) (flowOf 3 1) = true ∧ (u.ctx 1).st = .ready ∧
       u.liveWindows.find? (fun w => decide (w.handle = 5)) = some (win1 (some 0)) ∧ (win1 (some 0)).owner = 1) := by
  refine ⟨?_, ?_, ?_⟩ <;> decide +kernel
/-- Frame 5 in a state, of context 1, and frames 2 to 4 of the system context. -/
def pageState (c : Ctx) (fs : List (Nat × FrameSt × Nat)) : State :=
  let s := ctxState c
  { s with frames := s.frames ++ fs.map (fun f => { no := f.1, st := f.2.1, toBound := false, owner := f.2.2, dirty := false, win := none }) }
/-- A fault record of core 0 that awaits its answer. -/
def waiting (agent : BitVec 8) (d : BitVec 4) : FaultRec :=
  { seq := 3, ctx := 1, agent := agent, core := 0, detail := d, va := 0, stg := some (5, 1), group := some 1, tile := none, queue := none }
def faultState (r : FaultRec) : State := { ctxState (c1 .ready) with faults := [r], faultCount := 3 }
theorem witness_PageCommands :
    (let s := pageState (c1 .ready) []
     let u := at0 s (.pageBind 0x2000000 1 1)
     dueOn s sys1 (.pageBind 0x2000000 1 1) (flowOf 0 0) = true ∧ frameRangeOk 0x2000000 (1 : BitVec 32).toNat = true ∧ (u.frame 512).st = .free ∧
       tagCtx 1 ≤ 64 ∧ u.tagCurrent 1 = true ∧ (u.ctx (tagCtx 1)).st ≠ .free ∧ unitsOf (frameRange 0x2000000 1) = [16] ∧ u.unitReleased 16 = true) ∧
    (let u := at0 (pageState (c1 .ready) []) (.pageUnbind 0x10000 1)
     dueOn (pageState (c1 .ready) []) sys1 (.pageUnbind 0x10000 1) (flowOf 0 0) = true ∧ (u.frame 1).st = .bound ∧ frameRangeOk 0x10000 1 = true ∧
       frameRange 0x10000 1 = [1] ∧ (u.frame 9).st = .free ∧ frameRangeOk 0x90000 1 = true ∧ dueOn (pageState (c1 .ready) []) sys1 (.pageRetire 0x90000 1) (flowOf 0 0) = true ∧
       dueOn (pageState (c1 .ready) []) sys1 (.pageQuery 0x10000) (flowOf 0 0) = true ∧
       dueOn (pageState (c1 .ready) []) sys1 (.tlbInval 0 0 1) (flowOf 0 0) = true ∧ (0 : Word).toNat + (1 : Word).toNat * 65536 ≤ 2 ^ 52) ∧
    (let u := at0 (pageState (c1 .ready) []) (.faultRing 0x20000 6)
     dueOn (pageState (c1 .ready) []) sys1 (.faultRing 0x20000 6) (flowOf 0 0) = true ∧ u.ctx0Range (0x20000 : Word).toNat (2 ^ 12) = true) ∧
    (let r := waiting 1 0x07
     let u := at0 (faultState r) (.faultAnswer 3 .complete)
     dueOn (faultState r) sys1 (.faultAnswer 3 .complete) (flowOf 0 0) = true ∧ u.faults.find? (fun q => decide (q.seq = (3 : Word).toNat)) = some r ∧ r.agent = 1 ∧ r.detail = 0x07 ∧
       r.stg.isSome = true) ∧
    (let r := waiting 1 0x01
     r.tile = none ∧ r.agent ≠ 2 ∧ r.agent ≠ 3 ∧ r.agent ≠ 4 ∧ r.agent ≠ 6 ∧ r.group = ((on []).core r.core).grp) ∧
    ((waits (.fault 3) (on [])).core 0).ctl.wait = some (.fault 3) ∧
    (let s := mk 7 (pageState (c1 .migrating) [(5, .tracked, 1), (6, .bound, 0)])
     let u := at0 s (.pageExport 7 1 0x50000 1 0x20000)
     dueOn s sys1 (.pageExport 7 1 0x50000 1 0x20000) (flowOf 0 0) = true ∧ (u.ctx (tagCtx 1)).st = .migrating ∧ u.mkey 7 ≠ none ∧ u.tagCurrent 1 = true ∧
       (∀ f ∈ frameRange 0x50000 1, (u.frame f).owner = tagCtx 1 ∧ (u.frame f).st = .tracked) ∧ u.ctx0Range (0x20000 : Word).toNat (1 * 65584) = true) ∧
    (let s := mk 7 { pageState (c1 .importing) [(5, .bound, 1)] with
        mem := (ctxState (c1 .importing)).mem.store 0x20000 (blobHeader 5 1 true false 1 65536) }
     let u := at0 s (.pageImport 7 0x50000 0x20000)
     dueOn s sys1 (.pageImport 7 0x50000 0x20000) (flowOf 0 0) = true ∧ (u.ctx 1).st = .importing ∧ (u.frame 5).owner = 1 ∧ (u.frame 5).st = .bound ∧
       u.ctx0Range (0x20000 : Word).toNat 65584 = true ∧ fieldAt (u.peek 0x20000 32) 20 4 = 65536 ∧ fieldAt (u.peek 0x20000 32) 12 1 < 2 ∧
       (u.ctx 1).importSeq < fieldAt (u.peek 0x20000 32) 8 4) := by
  refine ⟨?_, ?_, ?_, ?_, ?_, ?_, ?_, ?_⟩ <;> (try dsimp only) <;> and_intros <;> decide +kernel
theorem witness_FlowCommands :
    (let u := at0 (ctxState (c1 .ready)) (.flowOpen .b 1023 1 9 7 0)
     dueOn (ctxState (c1 .ready)) sys1 (.flowOpen .b 1023 1 9 7 0) (flowOf 0 0) = true ∧ u.flow .b 1023 = none ∧ u.tagCurrent 1 = true ∧
       (u.ctx (tagCtx 1)).st ≠ .free ∧ (u.flows.filter (fun f => decide (f.port = .b))).length < 1024) ∧
    (let u := at0 (ctxState (c1 .ready)) (.flowClose .a 3)
     dueOn (ctxState (c1 .ready)) sys1 (.flowClose .a 3) (flowOf 0 0) = true ∧ u.flow .a 3 ≠ none) ∧
    (let u := at0 (ctxState (c1 .ready)) (.hwinSet 15 0x40000 0x10000 .a 3 64)
     dueOn (ctxState (c1 .ready)) sys1 (.hwinSet 15 0x40000 0x10000 .a 3 64) (flowOf 0 0) = true ∧ (∃ f, u.flow .a 3 = some f ∧ f.ctx = 1) ∧
       u.hwinFree 1 15 (0x40000 : Word).toNat (0x10000 : Word).toNat = true) ∧
    (let u := at0 (ctxState (c1 .configured)) (.spanSet 1 [1])
     dueOn (ctxState (c1 .configured)) sys1 (.spanSet 1 [1]) (flowOf 0 0) = true ∧ (u.ctx 1).st = .configured ∧ (1 : BitVec 64).getLsbD u.pkg.toNat = true ∧
       (((List.range 64).filter (fun i => (1 : BitVec 64).getLsbD i)).zip [(1 : Tag)]).lookup u.pkg.toNat = some (u.tagOf 1)) ∧
    (let s := ctxState (c1 .ready (fun c => { c with spanMask := -1 }))
     let u := at0 s (.spanGen 63 1)
     dueOn s sys1 (.spanGen 63 1) (flowOf 0 0) = true ∧ (u.ctx 1).spanMask.getLsbD 63 = true ∧ tagCtx 1 = 1) ∧
    (dueOn (ctxState (c1 .ready)) sys1 (.linkQuery (.die 5)) (flowOf 0 0) = true ∧ dueOn (ctxState (c1 .ready)) sys1 (.linkRetire (.pkg 11)) (flowOf 0 0) = true ∧
      ((at0 (ctxState (c1 .ready)) (.linkRetire (.pkg 11))).linkOf (.pkg 11)).st ≠ .retired) := by
  refine ⟨?_, ?_, ⟨?_, ⟨_, rfl, ?_⟩, ?_⟩, ?_, ?_, ?_⟩ <;> decide +kernel
theorem witness_FirmwareAndPower :
    (let u := at0 (ctxState (c1 .ready)) (.fwLoad 0x20000 65536)
     dueOn (ctxState (c1 .ready)) sys1 (.fwLoad 0x20000 65536) (flowOf 0 0) = true ∧ u.ctx0Range (0x20000 : Word).toNat (65536 : BitVec 32).toNat = true ∧
       u.boot.bootB = false) ∧
    (let f : FwImage := { component := 5, version := 64, key := 3, bytes := [] }
     let s := { ctxState (c1 .ready) with boot := { Boot.reset with running := (Boot.reset.running.set 5 (some f)).set 0 (some { f with component := 0 }) } }
     let u := at0 s (.fwCommit 5 64)
     dueOn s sys1 (.fwCommit 5 64) (flowOf 0 0) = true ∧ u.boot.running[5]? = some (some f) ∧ (64 : BitVec 8).toNat ≤ f.version ∧
       (u.boot.running[0]?).map (fun g => g.map FwImage.key) = some (some 3)) ∧
    (let s := { ctxState (c1 .ready) with boot := { Boot.reset with commit := some (sys1, 5, 64) } }
     s.boot.commit = some (sys1, 5, 64) ∧ blown (s.boot.fuse 5) < 64) ∧
    (dueOn (ctxState (c1 .ready)) sys1 .capRead (flowOf 0 0) = true ∧ dueOn (ctxState (c1 .ready)) sys1 (.powerSet 4 1 15000) (flowOf 0 0) = true ∧
      (((at0 (ctxState (c1 .ready)) (.powerSet 4 1 15000)).boot.limits.map (fun e =>
        if e.1 = 4 ∧ e.2.1 = 1 then (e.1, e.2.1, 15000) else e)).map (fun e => e.2.2)).sum + 300000 ≤ 3300000) := by
  refine ⟨?_, ?_, ?_, ?_⟩ <;> decide +kernel

/-! ### Witnesses: the step -/

/-- A next state with a property. -/
theorem next_with {o : Host.Outcome State Fault Refusal} {p : State → Bool} (h : after o p = some true) : ∃ t, o = .next t ∧ p t = true := by
  cases o with
  | next t => exact ⟨t, rfl, by simpa [after] using h⟩
  | fault f => simp [after] at h
  | refused r => simp [after] at h
/-- A bundle of slot words at the place of `withFetchWord`. -/
def placed (hd : Nat) (ws : List Nat) : State :=
  let s := on [(8, 1)]
  { s with mem := s.mem.store 0x10000 (leBytes 2 hd ++ ws.flatMap (leBytes 4)) }
/-- The packet that it fetches. -/
def fetched (s : State) : Option Packet × State :=
  match (s.endWait 0).fetchPacket 0 with
  | (.ok p, t) => (some p, t)
  | (.error _, t) => (none, t)
theorem issues_of {s : State} {p : Packet} (h : (fetched s).1 = some p)
    (hi : s.boot.halted = false ∧ s.agenda = [] ∧ s.cur = 0 ∧ (s.core 0).ctl.stall = 0 ∧ (s.core 0).seqr = none ∧ s.mayIssue 0 = true ∧
      (s.core 0).part = none ∧ (s.core 0).ctl.markNext = false ∧ p.badHeader = none ∧ p.badShape = none ∧ p.marked = false ∧ p.transfers = false)
    (hg : ((fetched s).2.core 0).grp.isSome = true ∧ p.interlocked ((fetched s).2.core 0) ((fetched s).2.cyc 0) = false) :
    s.issues (fetched s).2 0 p := by
  obtain ⟨h1, h2, h3, h4, h5, h6, h7, h12, h8, h9, h10, h11⟩ := hi
  refine ⟨h1, h2, h3, h4, h5, h6, h7, h12, ?_, h8, h9, h10, h11, hg.1, hg.2⟩
  unfold fetched at h ⊢
  split at h <;> simp_all
/-- One slot word, and the packet that it is. -/
def oneSlot (hd : BitVec 16) (k : SlotKind) (w : Cell) : Packet :=
  { bundles := [(0x10000, { hdr := hd, words := [(k, w)], lit := none })], next := 0x10006 }
def pslot (hd : BitVec 16) (k : SlotKind) (w : Cell) : PSlot := { bun := 0x10000, hdr := hd, kind := some k, word := w, lit := none }
def twoSlots : Packet :=
  { bundles := [(0x10000, { hdr := 0x23, words := [(.s, 0x0294A000), (.a, 0x04518004)], lit := none })], next := 0x1000A }
/-- The packet begun on core 0. -/
def begun (s : State) (p : Packet) : State := (fetched s).2.beginPacket 0 p.next
theorem witness_Step :
    (let p := oneSlot 0x21 .s 0x0294A000
     let x := pslot 0x21 .s 0x0294A000
     let s := placed 0x21 [0x0294A000]
     s.issues (fetched s).2 0 p ∧ p.slots = [x] ∧ x.instr = .ok (.add 9 9 8 false) ∧
       (∃ u, exec (.add 9 9 8 false) ((begun s p).enterSlot x) = .next u ∧
         (decide (u.slot.out = .none) && decide (u.packetOut.1 = .none) && decide (u.roomOut.1 = .none)) = true) ∧
       x.late (begun s p).me.ctl.inTrap = false) ∧
    (let w := (Instr.trap 5).encode
     let p := oneSlot 0x21 .s w
     let x := pslot 0x21 .s w
     let s := placed 0x21 [w.toNat]
     s.issues (fetched s).2 0 p ∧ p.slots = [x] ∧ x.instr = .ok (.trap 5) ∧
       (∃ u, exec (.trap 5) ((begun s p).enterSlot x) = .next u ∧ decide (u.slot.out = .none) = true) ∧ x.late (begun s p).me.ctl.inTrap = true) ∧
    (let w := (Instr.ldW 5 8 0 0).encode
     let p := oneSlot 0x22 .a w
     let x := pslot 0x22 .a w
     let s := placed 0x22 [w.toNat]
     s.issues (fetched s).2 0 p ∧ p.slots = [x] ∧ x.instr = .ok (.ldW 5 8 0 0) ∧
       ∃ u, exec (.ldW 5 8 0 0) ((begun s p).enterSlot x) = .next u ∧ decide (u.slot.out ≠ .none) = true) ∧
    (let x := pslot 0x23 .s 0x0294A000
     let y := pslot 0x23 .a 0x04518004
     let s := placed 0x23 [0x0294A000, 0x04518004]
     s.issues (fetched s).2 0 twoSlots ∧ twoSlots.slots = [x, y] ∧ x.instr = .ok (.add 9 9 8 false) ∧ y.instr = .ok (.ldW 5 3 0 4) ∧
       x.late false = false ∧ y.late false = false ∧
       ∃ u, exec (.add 9 9 8 false) ((begun s twoSlots).enterSlot x) = .next u ∧
         (decide (u.slot.out = .none) && (after (exec (.ldW 5 3 0 4) (u.enterSlot y)) (fun v =>
           decide (v.slot.out = .none) && decide (v.packetOut.1 = .none) && decide (v.roomOut.1 = .none)) == some true)) = true) ∧
    -- behind a fence that has performed, the wait for an engine queue
    (let w := (Instr.fenceAcq 0).encode
     let v := (Instr.qfence 1).encode
     let x := pslot 0x32 .a w
     let y := pslot 0x32 .c v
     let s := engOn 0 (engOp (.copy ⟨.xb, none, 0⟩ ⟨.wb, none, 0⟩ 1 64 0 0) true []) (placed 0x32 [w.toNat, v.toNat])
     let p : Packet := { bundles := [(0x10000, { hdr := 0x32, words := [(.a, w), (.c, v)], lit := none })], next := 0x1000A }
     s.issues (fetched s).2 0 p ∧ p.slots = [x, y] ∧ x.instr = .ok (.fenceAcq 0) ∧ y.instr = .ok (.qfence 1) ∧
       x.late false = false ∧ y.late false = false ∧
       ∃ u, exec (.fenceAcq 0) ((begun s p).enterSlot x) = .next u ∧
         (decide (u.slot.out = .none) && u.slot.markNext && decide (u.packetOut.1 = .none) && decide (u.roomOut.1 = .none) &&
           (after (exec (.qfence 1) (u.enterSlot y)) (fun v => decide (v.slot.out = .hold (.qfence 1)) && !v.slot.early) == some true)) = true) ∧
    (let p := oneSlot 0x21 .s 1
     let x := pslot 0x21 .s 1
     let s := placed 0x21 [1]
     s.issues (fetched s).2 0 p ∧ p.slots = [x] ∧ x.instr = .error .reservedField ∧ (((begun s p).enterSlot x).illegal .reservedField).slot.out ≠ .none) := by
  refine ⟨⟨issues_of ?_ ?_ ?_, ?_, rfl, next_with ?_, ?_⟩, ⟨issues_of ?_ ?_ ?_, ?_, rfl, next_with ?_, ?_⟩, ⟨issues_of ?_ ?_ ?_, ?_, rfl, next_with ?_⟩,
    ⟨issues_of ?_ ?_ ?_, ?_, rfl, rfl, ?_, ?_, next_with ?_⟩, ⟨issues_of ?_ ?_ ?_, ?_, rfl, rfl, ?_, ?_, next_with ?_⟩,
    ⟨issues_of ?_ ?_ ?_, ?_, rfl, ?_⟩⟩ <;> decide +kernel
/-- The answer of a fetch of bytes that gives none of its stops. -/
def gotBytes (r : Except SlotOut (List Byte) × State) : Option (List Byte) :=
  match r.1 with
  | .ok bs => some bs
  | .error _ => none
theorem bytes_of {r : Except SlotOut (List Byte) × State} {bs : List Byte} (h : gotBytes r = some bs) : r = (.ok bs, r.2) := by
  unfold gotBytes at h
  split at h
  · rename_i x hx
    cases h
    exact Prod.ext hx rfl
  · cases h
theorem witness_fetch_and_agenda :
    (let s := placed 0x21 [0x0294A000]
     let hb : List Byte := [0x21, 0]
     let bs : List Byte := [0x21, 0, 0x00, 0xA0, 0x94, 0x02]
     (headerOf hb).extractLsb' 8 8 = 0 ∧ 2 < bundleLen (headerOf hb) ∧ (headerOf bs).getLsbD 5 = true ∧ headerOf bs = headerOf hb ∧
       ∃ t u, s.fetchBytes 0 (s.core 0).ctl.pc 2 = (.ok hb, t) ∧ t.fetchBytes 0 (s.core 0).ctl.pc (bundleLen (headerOf hb)) = (.ok bs, u)) ∧
    (let s := { on [] with agenda := [.groupPlacement 3] }
     s.boot.halted = false ∧ s.agenda = .groupPlacement 3 :: [] ∧ Due.row (.groupPlacement 3) (.groupPlacement 3)) ∧
    (let s := { on [] with agenda := [.coreDue] }
     s.boot.halted = false ∧ s.agenda = .coreDue :: []) ∧
    (let b : BootTests := ⟨[], [], [], [], [], [], false⟩
     let s := { State.reset with boot := { Boot.reset with halted := true }, inputs := [.powerOn b] }
     s.boot.halted = true ∧ s.inputs = .powerOn b :: [] ∧ { s with inputs := [.ethernetPortFailure .a] }.inputs = .ethernetPortFailure .a :: [] ∧
       { s with inputs := [] }.inputs = []) := by
  refine ⟨⟨by decide +kernel, by decide +kernel, by decide +kernel, by decide +kernel, ?_⟩, ⟨by decide +kernel, by decide +kernel, rfl⟩, ⟨by decide +kernel, rfl⟩, rfl, rfl, rfl, rfl⟩
  exact ⟨_, _, bytes_of (by decide +kernel), bytes_of (by decide +kernel)⟩
/-- An instruction, its kind, and its checks; a word that decodes to it. -/
theorem witness_EncodingsRoundTrip :
    (Instr.add 31 31 31 false).slotKind = some .s ∧ (Instr.add 31 31 31 false).wellFormed = true ∧ (Instr.add 31 31 31 false).litOk none = true ∧
    decodeSlot .s none 0x0294A000 = .ok (.add 9 9 8 false) := ⟨by decide, by decide, by decide, rfl⟩
theorem witness_MemoryStaysCanonical :
    (on []).memWf ∧ (∃ t, step (on []) = .next t) ∧ ∃ t, exec .nop (on []) = .next t :=
  ⟨canonical_of _ _ rfl rfl (by decide +kernel) (by decide +kernel), next_of_after (by decide +kernel), next_of_after (by decide +kernel)⟩

/-! ### Words of the spec -/

theorem test_decode_s : decodeSlot .s none 0x0294A000 = .ok (.add 9 9 8 false) ∧ decodeSlot .s none 0x08530000 = .ok (.clz 5 6 0) ∧
    decodeSlot .s none 0x48800FFD = .ok (.loop 8 0xFFD) ∧ decodeSlot .s none 0x20948001 = .ok (.addi 9 9 1) ∧
    decodeSlot .s none 0x74000000 = .ok .csync := by and_intros <;> rfl
theorem test_decode_a : decodeSlot .a none 0x04518004 = .ok (.ldW 5 3 0 4) ∧ decodeSlot .a none 0x42130000 = .ok (.qfillt 1 6 0 0) := by and_intros <;> rfl
theorem test_decode_m : decodeSlot .m none 0x00280000 = .ok (.rk 0 1 1) ∧ decodeSlot .m none 0x0218A000 = .ok (.rks 0 0 3 1 2) ∧
    decodeSlot .m (some 0x3E000000) 0x16140000 = .ok (.gscaleLiteral 2) := by and_intros <;> rfl
theorem test_decode_v : decodeSlot .v none 0x00101180 = .ok (.vadd 8 8 0xC0 false) ∧ decodeSlot .v none 0xE00A060E = .ok (.vxferElement 5 3 7) ∧
    decodeSlot .v none 0x48023180 = .ok (.vcmpGt 1 0x18 0xC0 false) := by and_intros <;> rfl
theorem test_decode_c : decodeSlot .c none 0x0090A603 = .ok (.cpy 1 4 5 6 false 0 3) ∧ decodeSlot .c none 0x221C0803 = .ok (.fsig 7 8 false 3) ∧
    decodeSlot .c none 0x26000011 = .ok (.qfence 0x11) ∧ decodeSlot .c none 0x32240002 = .ok (.tissue 9 2) := by and_intros <;> rfl
/-- A reserved bit, an unassigned function and a missing literal are refused, each by its detail (R179). -/
theorem test_decode_refused : decodeSlot .s none 0x00000001 = .error .reservedField ∧
    decodeSlot .s none 0x02000011 = .error .unassignedFunction := by and_intros <;> rfl

/-! ### Single steps: events, messages and commands -/

/-- What a message in order leaves, read off. -/
theorem msg_gives {α : Type} {s : State} {h : Hdr} {m : InMsg} {f : Flow} {p : State → α} {x : α} {i : Instr}
    (hi : exec i s = .next (s.receive (sealMsg f m h) m)) (ha : arrivesOn s h m f = true) (ht : h.tag = s.tagOf f.ctx)
    (hp : p (((s.taken (sealMsg f m h) f m).apply f.ctx (sealMsg f m h) m).afterMessage (sealMsg f m h)) = x) : after (exec i s) p = some x := by
  rw [hi, s.receive_arrives _ m f (arrives_of ha) (Or.inl ht)]
  exact congrArg some hp
/-- The same of a command. -/
theorem cmd_gives {α : Type} {s : State} {h : CmdHdr} {c : Cmd} {f : Flow} {p : State → α} {x : α} {i : Instr}
    (hi : exec i s = .next (s.receiveCmd (sealCmd f c h) c)) (ha : arrivesOn s h.hdr (.cmd h c) f = true) (ht : h.hdr.tag = s.tagOf f.ctx)
    (hp : p (((s.taken (sealCmd f c h).hdr f (.cmd (sealCmd f c h) c)).apply f.ctx (sealCmd f c h).hdr (.cmd (sealCmd f c h) c)).afterMessage
      (sealCmd f c h).hdr) = x) : after (exec i s) p = some x := by
  rw [hi, State.receiveCmd, s.receive_arrives _ _ f (arrives_cmd ha) (Or.inl ht)]
  exact congrArg some hp
/-- R65: one entry appended to an empty queue: A becomes 1, the queue ACTIVE, the entry stands in slot 0 with tag and sequence behind its
56 bytes, and the reply names sequence 0. -/
theorem test_append : let m : InMsg := .append 0 [List.replicate 64 7]
    after (exec (.append (sealMsg (flowOf 3 1) m (hdr 0)) 0 [List.replicate 64 7]) hostState) (fun t =>
      ((t.queue 1 0).a, (t.queue 1 0).st, t.mem.bytes 0x10036 6, t.out.map (fun o => o.msg))) =
    some (1, .active, [7, 7, 1, 0, 0, 0], [.appendDone 0 0]) := msg_gives rfl (by decide +kernel) (by decide +kernel) (by decide +kernel)
/-- R395: a host read answers with the bytes, little-endian as they stand. -/
theorem test_host_read : let m : InMsg := .read 0x10004 4 9
    after (exec (.read (sealMsg (flowOf 3 1) m (hdr 0)) 0x10004 4 9) (dmOf hostState 0x10004 [1, 2, 3, 4])) (fun t => t.out.map (fun o => o.msg)) =
    some [.readData 9 0 0 [1, 2, 3, 4]] := msg_gives rfl (by decide +kernel) (by decide +kernel) (by decide +kernel)
/-- R396: a host write of an unmapped page performs nothing and answers with status 1. -/
theorem test_host_write_fault : let m : InMsg := .write 0x30000 9 [5]
    after (exec (.write (sealMsg (flowOf 3 1) m (hdr 0)) 0x30000 9 [5]) hostState) (fun t => (decide (t.mem = hostState.mem), t.out.map (fun o => o.msg))) =
    some (true, [.writeDone 9 1 0]) := msg_gives rfl (by decide +kernel) (by decide +kernel) (by decide +kernel)
/-- R392: the 17th message of a window, past a gap, is held, and an acknowledgement of it is pending. -/
theorem test_gap_held : ((hostState.acceptMsg (hdr 16) (.writeDone 5 0)).flow .a 3).map (fun f => (f.rx, f.held.length, f.pendAck)) =
    some (0, 1, 1) := by decide +kernel
/-- Table 2.4: a command of the system context that a tenant sends is refused with status 3. -/
theorem test_command_rights : after (exec (.ctxBind (sealCmd (flowOf 3 1) .ctxBind own1)) (ctxState (c1 .configured))) (fun t => t.out.map (fun o => o.msg)) =
    some [.cmdDone 4 1 3 0 1 0 true []] := cmd_gives rfl (by decide +kernel) (by decide +kernel) (by decide +kernel)
/-- R33: CTX_CREATE takes context 1 from FREE to CONFIGURED with generation 1. -/
theorem test_ctx_create : after (exec (.ctxCreate (sealCmd (flowOf 0 0) .ctxCreate sys1)) (ctxState (c1 .free))) (fun t =>
    ((t.ctx 1).st, (t.ctx 1).gen, t.out.map (fun o => o.msg))) =
    some (.configured, 1, [.cmdDone 1 1 0 0 1 0 true []]) := cmd_gives rfl (by decide +kernel) (by decide +kernel) (by decide +kernel)
/-- R61: a ring that is not aligned to its size is refused with status 2. -/
theorem test_queue_open_ring : let c : Cmd := .queueOpen 0 0 64 6 0 0
    after (exec (.queueOpen (sealCmd (flowOf 3 1) c own1) 0 0 64 6 0 0) (ctxState (c1 .ready))) (fun t =>
      ((t.queue 1 0).st, t.out.map (fun o => o.msg))) = some (.closed, [.cmdDone 0x20 1 2 0 1 0 true []]) :=
  cmd_gives rfl (by decide +kernel) (by decide +kernel) (by decide +kernel)
/-- R384: a lane failure drops the pair of the lane and retrains the link on the other six. -/
theorem test_lane_failure : after (exec (.laneFailure (.pkg 0) 3) (linkAs 6 .up (fun r => { r with lanes := 8 }) (on []))) (fun t =>
    ((t.link 6).st, (t.link 6).lanes, (t.link 6).badLanes)) = some (.training, 6, [2, 3]) := by decide +kernel
/-- R15: a change of frequency waits for the end of a timed region. -/
theorem test_frequency_waits : after (exec (.frequencyChange 0 700) (inTimed (on []))) (fun t => ((t.cluster 0).mhz = 700, (t.cluster 0).pendMhz)) =
    some (False, some 700) := by
  have h : after (exec (.frequencyChange 0 700) (inTimed (on []))) (fun t => (decide ((t.cluster 0).mhz = 700), (t.cluster 0).pendMhz)) =
      some (false, some 700) := by decide +kernel
  revert h
  cases exec (.frequencyChange 0 700) (inTimed (on [])) <;> simp [after]
/-- R92, R100: a pending group is placed on the lowest core that fits and starts at its entry. -/
theorem test_placement : after (exec (.groupPlacement 0) (groupState pend)) (fun t =>
    ((t.group 1).map (fun g => (g.st, g.cores)), (t.core 0).ctl.st, (t.core 0).ctl.pc)) =
    some (some (.resident, [0]), .run, 0x10000) := by decide +kernel
/-- R326, R327: a flag signal adds its value to the counter of the context. -/
theorem test_fsig_perform : after (exec (.fsigPerform 0) (me (fun k => { k with sigs := [⟨255, 3, 4, 0⟩] }))) (fun t => (t.ctx 1).counter 255) =
    some 3 := by decide +kernel
/-- R407: a trap enters the handler: epc, cause and tval are saved, and the pc goes to tvec. -/
theorem test_trap_entry : after (exec (.trapEntry 0) ((handled (on [])).modMe (fun k => { k with ctl := { k.ctl with
    pendTrap := some ⟨0x050, 1, 0x10000, 0x10002⟩ } }))) (fun t =>
    let q := (t.core 0).ctl
    (q.inTrap, q.pc, q.epc, q.cause.toNat % 512, q.tval)) = some (true, 0x10080, 0x10000, 0x50, 1) := by decide +kernel

end Sys2Proof.Tests
end

section
/-! Integer register operations of the S slot (R180, R182, R184, R185): the fields of a register-form word, the decoder on such a
word, and the model's arithmetic against the spec's. -/

namespace Sys2Proof.Machine

/-! ### The register form (R154) -/

section Fields
variable (op : BitVec 7) (d a b : BitVec 5) (l : Bool) (f : BitVec 9)

/-- The word as the fields stand in it, at the sum of their widths. -/
theorem extractLsb'_sWord (i n : Nat) : (sWord op d a b l f).extractLsb' i n =
    BitVec.extractLsb' (n := 7 + 5 + 5 + 5 + 1 + 9) i n (op ++ d ++ a ++ b ++ bit1 l ++ f) := rfl

@[simp] theorem sWord_op : (sWord op d a b l f).extractLsb' 25 7 = op := by
  rw [extractLsb'_sWord]
  iterate 5 rw [BitVec.extractLsb'_append_eq_of_le (by decide)]
  rw [BitVec.extractLsb'_eq_self]
@[simp] theorem sWord_d : (sWord op d a b l f).extractLsb' 20 5 = d := by
  rw [extractLsb'_sWord]
  iterate 4 rw [BitVec.extractLsb'_append_eq_of_le (by decide)]
  rw [BitVec.extractLsb'_append_eq_of_add_le (by decide), BitVec.extractLsb'_eq_self]
@[simp] theorem sWord_a : (sWord op d a b l f).extractLsb' 15 5 = a := by
  rw [extractLsb'_sWord]
  iterate 3 rw [BitVec.extractLsb'_append_eq_of_le (by decide)]
  rw [BitVec.extractLsb'_append_eq_of_add_le (by decide), BitVec.extractLsb'_eq_self]
@[simp] theorem sWord_b : (sWord op d a b l f).extractLsb' 10 5 = b := by
  rw [extractLsb'_sWord]
  iterate 2 rw [BitVec.extractLsb'_append_eq_of_le (by decide)]
  rw [BitVec.extractLsb'_append_eq_of_add_le (by decide), BitVec.extractLsb'_eq_self]
@[simp] theorem sWord_l : (sWord op d a b l f)[9] = l := by
  show BitVec.getLsbD (w := 7 + 5 + 5 + 5 + 1 + 9) (op ++ d ++ a ++ b ++ bit1 l ++ f) 9 = l
  simp only [BitVec.getLsbD_append]
  cases l <;> simp [bit1]
/-- A part of the function field, such as SEL's register and its reserved bits (R185). -/
theorem sWord_fnPart {i n : Nat} (h : i + n ≤ 9) : (sWord op d a b l f).extractLsb' i n = f.extractLsb' i n := by
  rw [extractLsb'_sWord, BitVec.extractLsb'_append_eq_of_add_le h]
@[simp] theorem sWord_fn : (sWord op d a b l f).extractLsb' 0 9 = f := by
  rw [sWord_fnPart _ _ _ _ _ _ (by decide), BitVec.extractLsb'_eq_self]

end Fields

/-- A row whose b field and literal are as L asks passes the static checks (R171, R179). -/
theorem slotRow_of_lit {lit : Option Cell} {b : BitVec 5} {l : Bool} (h : l = true → b = 0 ∧ lit.isSome) (i : Instr) :
    slotRow (litFieldOk l b) none l lit i = .ok i := by
  cases l with
  | false => rfl
  | true =>
    obtain ⟨rfl, hl⟩ := h rfl
    obtain ⟨c, rfl⟩ := Option.isSome_iff_exists.mp hl
    rfl

/-- An instruction whose word reaches its row of the decoder and whose meaning is a register operation has the register form of any
function that agrees with the operation's. Both premises on the instruction are read off the model for each row. -/
theorem aluForm_of_regOp {op : BitVec 7} {f : BitVec 9} {i : BitVec 5 → BitVec 5 → BitVec 5 → Bool → Instr} {lat : Nat}
    {g h : Word → Word → Word} (value : ∀ x y, h x y = g x y)
    (decodes : ∀ lit d a b l, decodeSlot .s lit (sWord op d a b l f) = slotRow (litFieldOk l b) none l lit (i d a b l) := by
      intros; simp [decodeSlot, decodeS])
    (meaning : ∀ d a b l s, exec (i d a b l) s = s.regOp d a b l lat h := by intros; rfl) : AluForm op f i lat g := by
  intro s lit d a b l hl
  exact ⟨(decodes lit d a b l).trans (slotRow_of_lit hl _), by
    rw [meaning, State.regOp, value, State.opB, State.litS, sext32]⟩

/-- Opcode 0x01 assigns 0x000 to 0x010 (R182). -/
theorem decodeSlot_alu_unassigned (lit : Option Cell) (d a b : BitVec 5) (l : Bool) {f : BitVec 9} (h : 0x011 ≤ f.toNat) :
    decodeSlot .s lit (sWord 1 d a b l f) = .error .unassignedFunction := by
  obtain ⟨n, hn⟩ := Nat.exists_eq_add_of_le' h
  simp [decodeSlot, decodeS, hn]

/-- Opcode 0x02 assigns 0x000 to 0x006 (R184). -/
theorem decodeSlot_mulDiv_unassigned (lit : Option Cell) (d a b : BitVec 5) (l : Bool) {f : BitVec 9} (h : 0x007 ≤ f.toNat) :
    decodeSlot .s lit (sWord 2 d a b l f) = .error .unassignedFunction := by
  obtain ⟨n, hn⟩ := Nat.exists_eq_add_of_le' h
  simp [decodeSlot, decodeS, hn]

/-! ### Table 9.1 -/

/-- The shift amount, bits [5:0], is the operand modulo 64 (R182). -/
theorem shamt_eq (y : Word) : shamt y = y.toNat % 64 := by
  simp [shamt, BitVec.extractLsb'_toNat]

theorem rotateLeft_shamt (x y : Word) :
    x.rotateLeft (shamt y) = (x <<< (y.toNat % 64)) ||| (x >>> (64 - y.toNat % 64)) := by
  rw [BitVec.rotateLeft_def, shamt_eq, Nat.mod_mod]

/-- Two conditions that differ only where the operands are equal pick the same operand. -/
theorem ite_pick_congr (p : Word → Word → Word) {x y : Word} {q r : Prop} [Decidable q] [Decidable r] (h : r ↔ q ∨ x = y) :
    (if q then p x y else p y x) = if r then p x y else p y x := by
  by_cases e : x = y
  · rw [e, ite_self, ite_self]
  · have hqr : q = r := propext (h.trans (or_iff_left e)).symm
    exact ite_congr hqr (fun _ => rfl) fun _ => rfl

/-- MIN and MAX: `p` names the operand that the lesser first operand picks (R182). -/
theorem ite_slt_eq_ite_toInt_le (p : Word → Word → Word) (x y : Word) :
    (if x.slt y then p x y else p y x) = if x.toInt ≤ y.toInt then p x y else p y x :=
  ite_pick_congr p (by rw [BitVec.slt_iff_toInt_lt, ← BitVec.toInt_inj]; omega)

/-- MINU and MAXU, likewise. -/
theorem ite_ult_eq_ite_toNat_le (p : Word → Word → Word) (x y : Word) :
    (if x.ult y then p x y else p y x) = if x.toNat ≤ y.toNat then p x y else p y x :=
  ite_pick_congr p (by rw [BitVec.ult_iff_toNat_lt, ← BitVec.toNat_inj]; omega)

/-- A comparison written to a register (SLT, SLTU, SEQ). -/
theorem boolWord_eq {b : Bool} {q : Prop} [Decidable q] (h : b = true ↔ q) : boolWord b = if q then 1 else 0 := by
  simp only [boolWord, h]

/-- Settles O1: every row of Table 9.1 is a register operation with the row's function, and no function code above them is assigned. -/
theorem integerAluTable : Obligations.IntegerAluTable := by
  unfold Obligations.IntegerAluTable
  exact ⟨
    -- ADD, SUB, AND, OR, XOR and ANDN: the model writes the row's own expression.
    aluForm_of_regOp fun _ _ => rfl,
    aluForm_of_regOp fun _ _ => rfl,
    aluForm_of_regOp fun _ _ => rfl,
    aluForm_of_regOp fun _ _ => rfl,
    aluForm_of_regOp fun _ _ => rfl,
    aluForm_of_regOp fun _ _ => rfl,
    -- SHL, SHR, SAR and ROT: the amount is taken modulo 64.
    aluForm_of_regOp fun x y => congrArg (x <<< ·) (shamt_eq y),
    aluForm_of_regOp fun x y => congrArg (x >>> ·) (shamt_eq y),
    aluForm_of_regOp fun x y => congrArg x.sshiftRight (shamt_eq y),
    aluForm_of_regOp rotateLeft_shamt,
    -- MIN, MAX, MINU and MAXU: the model compares strictly.
    aluForm_of_regOp (ite_slt_eq_ite_toInt_le fun x _ => x),
    aluForm_of_regOp (ite_slt_eq_ite_toInt_le fun _ y => y),
    aluForm_of_regOp (ite_ult_eq_ite_toNat_le fun x _ => x),
    aluForm_of_regOp (ite_ult_eq_ite_toNat_le fun _ y => y),
    -- SLT, SLTU and SEQ: the model writes a truth value.
    aluForm_of_regOp fun _ _ => boolWord_eq BitVec.slt_iff_toInt_lt,
    aluForm_of_regOp fun _ _ => boolWord_eq BitVec.ult_iff_toNat_lt,
    aluForm_of_regOp fun _ _ => boolWord_eq beq_iff_eq,
    fun lit d a b l _ h => decodeSlot_alu_unassigned lit d a b l h⟩

/-! ### Multiplication and division (R184) -/

/-- The low half of the signed product is the product modulo 2^64. -/
theorem mul_eq_low (x y : Word) : x * y = (x.signExtend 128 * y.signExtend 128).extractLsb' 0 64 := by
  have low (z : BitVec 128) : z.extractLsb' 0 64 = z.setWidth 64 := by ext; simp
  have back (z : Word) : (z.signExtend 128).setWidth 64 = z := by
    rw [← BitVec.signExtend_eq_setWidth_of_le _ (by decide), BitVec.signExtend, BitVec.toInt_signExtend_of_le (by decide),
      BitVec.ofInt_toInt]
  rw [low, BitVec.setWidth_mul _ _ (by decide), back, back]

/-- The signed product of two words fits in 128 bits. -/
theorem toInt_signedProduct (x y : Word) : (x.signExtend 128 * y.signExtend 128).toInt = x.toInt * y.toInt := by
  have hi : x.toInt * y.toInt ≤ 2 ^ (64 * 2 - 2) := BitVec.toInt_mul_toInt_le
  have lo : -2 ^ (64 * 2 - 2) ≤ x.toInt * y.toInt := BitVec.le_toInt_mul_toInt
  rw [BitVec.toInt_mul, BitVec.toInt_signExtend_of_le (by decide), BitVec.toInt_signExtend_of_le (by decide),
    Int.bmod_eq_of_le] <;> omega

/-- The high half of a number of 128 bits is its signed quotient by 2^64. -/
theorem extractLsb'_high_eq_ofInt (z : BitVec 128) : z.extractLsb' 64 64 = BitVec.ofInt 64 (z.toInt.fdiv (2 ^ 64)) :=
  calc z.extractLsb' 64 64
    _ = (z.sshiftRight 64).setWidth 64 := by
      ext i hi
      simp [BitVec.getElem_sshiftRight, show i < 128 by omega, show 64 + i < 128 by omega]
    _ = BitVec.ofInt 64 (z.sshiftRight 64).toInt := (BitVec.signExtend_eq_setWidth_of_le _ (by decide)).symm
    _ = BitVec.ofInt 64 (z.toInt.fdiv (2 ^ 64)) := by
      rw [BitVec.toInt_sshiftRight, Int.shiftRight_eq_div_pow, Int.fdiv_eq_ediv_of_nonneg _ (by decide)]
      rfl

theorem mulHigh_eq (x y : Word) : mulHigh x y = (x.signExtend 128 * y.signExtend 128).extractLsb' 64 64 := by
  rw [extractLsb'_high_eq_ofInt, toInt_signedProduct, mulHigh]

theorem mulHighU_eq (x y : Word) : mulHighU x y = (x.setWidth 128 * y.setWidth 128).extractLsb' 64 64 := by
  have fits : x.toNat * y.toNat < 2 ^ 128 := BitVec.toNat_mul_toNat_lt
  apply BitVec.eq_of_toNat_eq
  rw [BitVec.extractLsb'_toNat, BitVec.toNat_mul, BitVec.toNat_setWidth_of_le (by decide), BitVec.toNat_setWidth_of_le (by decide),
    Nat.mod_eq_of_lt fits, Nat.shiftRight_eq_div_pow, mulHighU, BitVec.toNat_ofNat]

/-- The quotient of the most negative number by -1 wraps, and its remainder is 0. -/
theorem divS_eq (x y : Word) : divS x y =
    if y = 0 then 0xFFFFFFFFFFFFFFFF
    else if x = 0x8000000000000000 ∧ y = -1 then 0x8000000000000000
    else BitVec.ofInt 64 (x.toInt.tdiv y.toInt) := by
  refine ite_congr rfl (fun _ => rfl) fun _ => ?_
  split
  case isTrue h => obtain ⟨rfl, rfl⟩ := h; rfl
  case isFalse => rfl

theorem remS_eq (x y : Word) : remS x y =
    if y = 0 then x
    else if x = 0x8000000000000000 ∧ y = -1 then 0
    else BitVec.ofInt 64 (x.toInt - y.toInt * x.toInt.tdiv y.toInt) := by
  refine ite_congr rfl (fun _ => rfl) fun _ => ?_
  split
  case isTrue h => obtain ⟨rfl, rfl⟩ := h; rfl
  case isFalse => rw [Int.tmod_def]

/-- Settles O2: each row of R184 is a register operation whose function is the row's, and no function code above them is assigned. -/
theorem multiplyDivide : Obligations.MultiplyDivide := by
  unfold Obligations.MultiplyDivide
  exact ⟨
    aluForm_of_regOp mul_eq_low,
    aluForm_of_regOp mulHigh_eq,
    aluForm_of_regOp mulHighU_eq,
    aluForm_of_regOp divS_eq,
    aluForm_of_regOp fun _ _ => rfl,
    aluForm_of_regOp remS_eq,
    aluForm_of_regOp fun _ _ => rfl,
    fun lit d a b l _ h => decodeSlot_mulDiv_unassigned lit d a b l h⟩

/-! ### SEL (R185) -/

/-- SEL names its third register in function [4:0], below four zero bits. -/
theorem decodeSlot_sel (lit : Option Cell) (d a b c : BitVec 5) (l : Bool) :
    decodeSlot .s lit (sWord 3 d a b l (0#4 ++ c)) = slotRow (litFieldOk l b) none l lit (.sel d a b l c) := by
  have low : (0#4 ++ c).extractLsb' 0 5 = c := BitVec.extractLsb'_append_eq_right
  have high : (0#4 ++ c).extractLsb' 5 4 = 0#4 := BitVec.extractLsb'_append_eq_left
  simp [decodeSlot, decodeS, sWord_fnPart, low, high]

theorem exec_sel (s : State) (d a b c : BitVec 5) (l : Bool) : exec (.sel d a b l c) s =
    .next (s.result d (if s.rx c ≠ 0 then s.rx a else if l then (s.slot.lit.getD 0).signExtend 64 else s.rx b) 1) := rfl

/-- Settles O3: SEL is the register operation that picks by x[c], and x0 reads as zero. -/
theorem selectPicks : Obligations.SelectPicks := by
  unfold Obligations.SelectPicks
  intro s lit d a b l c hl
  refine ⟨(decodeSlot_sel lit d a b c l).trans (slotRow_of_lit hl _), exec_sel s d a b c l, ?_⟩
  rintro rfl
  have zero : s.rx 0 = 0 := s.me.rx_zero
  rw [exec_sel, if_neg fun h => h zero]

end Sys2Proof.Machine
end

section
/-! GZERO and GXPOSE (R235, R237): the fields of an M word, the cells of a target, and the write cycle of an M slot that rewrites whole
rows. -/

namespace Sys2Proof.Machine

/-! ### The M form (R154) -/

/-- A word of the M form whose low 19 bits are one field: opcode, qa# and qb#, target, the rest. -/
def mWord (op : BitVec 7) (q : BitVec 4) (t : BitVec 2) (z : BitVec 19) : Cell := op ++ q ++ t ++ z

section Fields
variable (op : BitVec 7) (q : BitVec 4) (t : BitVec 2) (z : BitVec 19)

/-- The word as the fields stand in it, at the sum of their widths. -/
theorem extractLsb'_mWord (i n : Nat) : (mWord op q t z).extractLsb' i n =
    BitVec.extractLsb' (n := 7 + 4 + 2 + 19) i n (op ++ q ++ t ++ z) := rfl

@[simp] theorem mWord_op : (mWord op q t z).extractLsb' 25 7 = op := by
  rw [extractLsb'_mWord]
  iterate 3 rw [BitVec.extractLsb'_append_eq_of_le (by decide)]
  rw [BitVec.extractLsb'_eq_self]
@[simp] theorem mWord_queues : (mWord op q t z).extractLsb' 21 4 = q := by
  rw [extractLsb'_mWord]
  iterate 2 rw [BitVec.extractLsb'_append_eq_of_le (by decide)]
  rw [BitVec.extractLsb'_append_eq_right]
@[simp] theorem mWord_target : (mWord op q t z).extractLsb' 19 2 = t := by
  rw [extractLsb'_mWord, BitVec.extractLsb'_append_eq_of_le (by decide), BitVec.extractLsb'_append_eq_right]
@[simp] theorem mWord_rest : (mWord op q t z).extractLsb' 0 19 = z := by
  rw [extractLsb'_mWord, BitVec.extractLsb'_append_eq_right]

end Fields

/-- The decoder reads all 25 bits below GXPOSE's opcode as one field; it is the field of target 11 between zeros. -/
theorem mWord_low_eq_grid (q : BitVec 4) (t : BitVec 2) (z : BitVec 19) :
    (mWord 10 q t z).extractLsb' 0 25 = 1572864 ↔ q = 0 ∧ t = 3 ∧ z = 0 := by
  constructor
  · intro low
    have part (i n : Nat) (h : i + n ≤ 25) :
        (mWord 10 q t z).extractLsb' i n = BitVec.extractLsb' (n := 25) i n 1572864 := by
      rw [← low, BitVec.extractLsb'_extractLsb'_of_le h]
    refine ⟨?_, ?_, ?_⟩
    · rw [← mWord_queues 10 q t z, part 21 4 (by decide)]; decide
    · rw [← mWord_target 10 q t z, part 19 2 (by decide)]; decide
    · rw [← mWord_rest 10 q t z, part 0 19 (by decide)]; decide
  · rintro ⟨rfl, rfl, rfl⟩
    decide

/-- R235: qa#, qb# and [18:0] must be zero. -/
theorem decodeSlot_gzero (lit : Option Cell) (q : BitVec 4) (t : BitVec 2) (z : BitVec 19) :
    decodeSlot .m lit (mWord 8 q t z) = if q = 0 ∧ z = 0 then .ok (.gzero t) else .error .reservedField := by
  simp [decodeSlot, decodeM, slotRow]

/-- R237: besides, the target must be 11. -/
theorem decodeSlot_gxpose (lit : Option Cell) (q : BitVec 4) (t : BitVec 2) (z : BitVec 19) :
    decodeSlot .m lit (mWord 10 q t z) = if q = 0 ∧ t = 3 ∧ z = 0 then .ok .gxpose else .error .reservedField := by
  have row : decodeSlot .m lit (mWord 10 q t z) =
      slotRow (decide ((mWord 10 q t z).extractLsb' 0 25 = 1572864)) none false lit .gxpose := by simp [decodeSlot, decodeM]
  rw [row, slotRow]
  simp only [mWord_low_eq_grid, decide_eq_true_eq, Bool.false_and, Bool.false_eq_true, if_false]

/-! ### Rows and cells of the grid -/

@[simp] theorem Row.at_ofFn {f : Fin 64 → Cell} {j : Nat} (h : j < 64) : Row.at (Vector.ofFn f) j = f ⟨j, h⟩ := by
  simp [Row.at, Nat.mod_eq_of_lt h]

theorem Row.at_mapCols (r : Row) (cols : Nat) (f : Nat → Cell → Cell) {j : Nat} (h : j < 64) :
    (r.mapCols cols f).at j = if j < cols then f j (r.at j) else r.at j := Row.at_ofFn h

theorem Grid.cell_eq (g : Grid) (r c : Nat) : g.cell r c = (g.row r).at c := rfl

theorem Grid.row_setRow (g : Grid) {r i : Nat} (hr : r < 64) (hi : i < 64) (v : Row) :
    (g.setRow r v).row i = if i = r then v else g.row i := by
  simp [Grid.row, Grid.setRow, Vector.getElem_set, Nat.mod_eq_of_lt hr, Nat.mod_eq_of_lt hi, eq_comm]

/-- The grid with the rows of a list written in order. -/
def Grid.setRows (g : Grid) (l : List (Nat × Row)) : Grid := l.foldl (fun g p => g.setRow p.1 p.2) g

@[simp] theorem Grid.foldl_setRow (g : Grid) (l : List (Nat × Row)) : l.foldl (fun g p => g.setRow p.1 p.2) g = g.setRows l := rfl
@[simp] theorem Grid.setRows_flags (g : Grid) (l : List (Nat × Row)) : (g.setRows l).flags = g.flags :=
  foldl_keeps Grid.flags (fun g (p : Nat × Row) => g.setRow p.1 p.2) (fun _ _ => rfl) l g
@[simp] theorem Grid.setRows_gens (g : Grid) (l : List (Nat × Row)) : (g.setRows l).gens = g.gens :=
  foldl_keeps Grid.gens (fun g (p : Nat × Row) => g.setRow p.1 p.2) (fun _ _ => rfl) l g

theorem Grid.setRows_cons (g : Grid) (p : Nat × Row) (l : List (Nat × Row)) :
    g.setRows (p :: l) = (g.setRow p.1 p.2).setRows l := rfl

/-- Rows given as a function of their number: each row of the list holds its value, every other row is kept. -/
theorem Grid.row_setRows (v : Nat → Row) {i : Nat} (hi : i < 64) :
    ∀ (rows : List Nat) (g : Grid), (∀ r ∈ rows, r < 64) →
      (g.setRows (rows.map fun r => (r, v r))).row i = if i ∈ rows then v i else g.row i
  | [], _, _ => rfl
  | r :: rows, g, h => by
    obtain ⟨hr, hrows⟩ := List.forall_mem_cons.mp h
    have rest := Grid.row_setRows v hi rows (g.setRow r (v r)) hrows
    rw [List.map_cons, Grid.setRows_cons, rest, g.row_setRow hr hi]
    by_cases hir : i = r
    · subst hir; simp
    · simp [hir]

/-! ### The cells of a target (Table 11.1) -/

theorem mem_mRows (shp : Word) (t : BitVec 2) (r : Nat) :
    r ∈ mRows shp t ↔ (mTarget shp t).1 ≤ r ∧ r < (mTarget shp t).1 + (mTarget shp t).2.1 := by
  have rows : mRows shp t = (List.range (mTarget shp t).2.1).map fun i => (mTarget shp t).1 + i := rfl
  rw [rows, List.mem_map]
  simp only [List.mem_range]
  constructor
  · rintro ⟨i, hi, rfl⟩; omega
  · intro h; exact ⟨r - (mTarget shp t).1, by omega, by omega⟩

/-- The four target codes. -/
theorem target_cases (t : BitVec 2) : t = 0 ∨ t = 1 ∨ t = 2 ∨ t = 3 := by
  revert t; decide

/-- A legal deckle lies in the grid, as the other targets do. -/
theorem lt_of_mem_mRows {s : State} (hd : s.deckleOk) {t : BitVec 2} {r : Nat} (h : r ∈ mRows s.slot.pkt.shp t) : r < 64 := by
  obtain ⟨-, rows, -, -⟩ := hd
  rw [mem_mRows] at h
  obtain rfl | rfl | rfl | rfl := target_cases t <;> simp [mTarget] at h <;> omega

/-- A cell of the grid lies in a target when its row is one of the target's and its column is below the target's count. -/
theorem inTarget_iff (shp : Word) (t : BitVec 2) {r c : Nat} (hr : r < 64) (hc : c < 64) :
    inTarget shp t r c = true ↔ r ∈ mRows shp t ∧ c < (mTarget shp t).2.2 := by
  rw [mem_mRows]
  obtain rfl | rfl | rfl | rfl := target_cases t <;> simp [inTarget, mTarget] <;> omega

/-- The target's rows with the target's columns replaced are the target's cells replaced. -/
theorem Grid.ite_mem_mRows_mapCols (g : Grid) (shp : Word) (t : BitVec 2) (f : Nat → Cell → Cell) {r c : Nat} (hr : r < 64)
    (hc : c < 64) : (if r ∈ mRows shp t then ((g.row r).mapCols (mTarget shp t).2.2 f).at c else g.cell r c) =
      if inTarget shp t r c then f c (g.cell r c) else g.cell r c := by
  have target := inTarget_iff shp t hr hc
  rw [Row.at_mapCols _ _ _ hc, ← Grid.cell_eq]
  by_cases row : r ∈ mRows shp t
  · rw [if_pos row]
    exact ite_congr (propext (target.trans (and_iff_right row)).symm) (fun _ => rfl) fun _ => rfl
  · rw [if_neg row, if_neg fun h => row (target.mp h).1]

/-! ### An M slot that reads no format -/

theorem State.mSlot_access {s : State} (h : s.slot.side = .access) (i : Instr) (perform : GridPkt → Option Cell → Grid → Grid) :
    s.mSlot i (fun _ => none) perform =
      .next (s.modSlot (fun c => { c with pkt := { c.pkt with m := some ⟨i, c.word, c.lit⟩ } })) := by
  rw [State.mSlot, h]

theorem State.mSlot_grid {s : State} (h : s.slot.side = .grid) (i : Instr) (err : Word → Option FmtDetail)
    (perform : GridPkt → Option Cell → Grid → Grid) :
    s.mSlot i err perform = .next (s.modGrid s.cur (fun _ => perform s.slot.pkt s.slot.lit s.me.grid)) := by
  rw [State.mSlot, h]; rfl

/-! ### The write cycle of an M slot that rewrites whole rows (R233) -/

section Dirty
variable (l : List Nat) (g : Grid)

@[simp] theorem Grid.foldl_markDirty_cells : (l.foldl Grid.markDirty g).cells = g.cells :=
  foldl_keeps Grid.cells Grid.markDirty (fun _ _ => rfl) l g
@[simp] theorem Grid.foldl_markDirty_flags : (l.foldl Grid.markDirty g).flags = g.flags :=
  foldl_keeps Grid.flags Grid.markDirty (fun _ _ => rfl) l g
@[simp] theorem Grid.foldl_markDirty_gens : (l.foldl Grid.markDirty g).gens = g.gens :=
  foldl_keeps Grid.gens Grid.markDirty (fun _ _ => rfl) l g

end Dirty

/-- At the write cycle of an M slot's flight that carries rows alone, the rows stand as it carries them and its flags are set. -/
theorem Core.applyFlight_rows (k : Core) {f : Flight} (hw : f.written = false) (hm : f.kind = .m) (hrk : f.rk = none)
    (hvld : f.vld = none) (hregs : f.regs = []) :
    (∀ r, (k.applyFlight f).grid.row r = (k.grid.setRows f.rows).row r) ∧
      (k.applyFlight f).grid.flags = k.grid.flags ||| f.flags ∧ (k.applyFlight f).grid.gens = k.grid.gens := by
  simp [Core.applyFlight, Grid.row, hw, hm, hrk, hvld, hregs]

/-- The flight that an M slot takes when it rewrites rows and raises no flag. -/
def Grid.rowsFlight (g : Grid) (p : GridPkt) (i : Instr) (rows : List (Nat × Row)) : Flight :=
  { fwd := p.fwd, kind := .m, due := g.cyc + (Instr.mTime p.fmt i).2, rows := rows, rk := none, vld := none, regs := [], flags := 0
    histRows := [], histRegs := [], written := false }

theorem Grid.mIssue_inflight (g : Grid) (p : GridPkt) (i : Instr) (rows : List (Nat × Row)) :
    (g.mIssue p i rows none 0).inflight = g.inflight ++ [g.rowsFlight p i rows] := rfl

/-- An M slot whose meaning is to rewrite the rows `ns`, with the values `v` as the grid stands at issue: its issue leaves cells and
generators, and its write cycle writes those rows and leaves every other row, the flags and the generators. -/
theorem exec_rewritesRows {i : Instr} {err : Word → Option FmtDetail} {ns : GridPkt → List Nat} {v : GridPkt → Grid → Nat → Row}
    {s : State} (meaning : exec i s = s.mSlot i err fun p _ g => g.mIssue p i ((ns p).map fun r => (r, v p g r)) none 0)
    (hs : s.slot.side = .grid) (inGrid : ∀ r ∈ ns s.slot.pkt, r < 64) :
    let g := s.me.grid
    let p := s.slot.pkt
    ∃ (h : Grid) (f : Flight), exec i s = .next (s.modGrid s.cur (fun _ => h)) ∧ h.inflight = g.inflight ++ [f] ∧
      h.cells = g.cells ∧ h.gens = g.gens ∧
      let u := (({ s.me with grid := h } : Core).applyFlight f).grid
      u.flags = g.flags ∧ u.gens = g.gens ∧
      ∀ r c, r < 64 → u.cell r c = if r ∈ ns p then (v p g r).at c else g.cell r c := by
  intro g p
  let rows := (ns p).map fun r => (r, v p g r)
  let h := g.mIssue p i rows none 0
  obtain ⟨row, flags, gens⟩ :=
    Core.applyFlight_rows { s.me with grid := h } (f := g.rowsFlight p i rows) rfl rfl rfl rfl rfl
  refine ⟨h, _, meaning.trans (State.mSlot_grid hs ..), g.mIssue_inflight .., rfl, rfl, ?_, gens, fun r c hr => ?_⟩
  · rw [flags]; exact BitVec.or_zero
  · have written : (h.setRows rows).row r = if r ∈ ns p then v p g r else h.row r := Grid.row_setRows _ hr _ h inGrid
    rw [Grid.cell_eq, (row r).trans written]
    split <;> rfl

/-! ### GZERO and GXPOSE -/

theorem exec_gzero (t : BitVec 2) (s : State) :
    exec (.gzero t) s = s.mSlot (.gzero t) (fun _ => none) fun p _ g => g.mIssue p (.gzero t)
      ((mRows p.shp t).map fun r => (r, (g.row r).mapCols (mTarget p.shp t).2.2 fun _ _ => 0)) none 0 := rfl

theorem exec_gxpose (s : State) :
    exec .gxpose s = s.mSlot .gxpose (fun _ => none) fun p _ g => g.mIssue p .gxpose
      ((List.range 64).map fun i => (i, Vector.ofFn fun j => g.cell j.val i)) none 0 := rfl

/-- Settles O26: the rows of the target are rewritten with the target's columns cleared. -/
theorem gzeroZeroesItsTarget : Obligations.GzeroZeroesItsTarget := by
  unfold Obligations.GzeroZeroesItsTarget
  intro t
  refine ⟨fun lit => decodeSlot_gzero lit 0 t 0, fun lit q z hqz => ?_,
    fun s hs => (exec_gzero t s).trans (State.mSlot_access hs ..), fun s hs hd => ?_⟩
  · exact (decodeSlot_gzero lit q t z).trans (if_neg fun h => hqz.elim (· h.1) (· h.2))
  · obtain ⟨h, f, issue, flight, cells, gens, flags', gens', written⟩ :=
      exec_rewritesRows (exec_gzero t s) hs fun _ => lt_of_mem_mRows hd
    refine ⟨h, f, issue, flight, cells, gens, flags', gens', fun r c hr hc hin => ?_, fun r c hr hc hout => ?_⟩
    · rw [written r c hr, Grid.ite_mem_mRows_mapCols _ _ _ _ hr hc, if_pos hin]
    · rw [written r c hr, Grid.ite_mem_mRows_mapCols _ _ _ _ hr hc, hout, if_neg Bool.false_ne_true]

/-- Settles O27: every row is rewritten with the old column of its number. -/
theorem gxposeTransposes : Obligations.GxposeTransposes := by
  unfold Obligations.GxposeTransposes
  refine ⟨fun lit => decodeSlot_gxpose lit 0 3 0, fun lit q t z hqtz => ?_,
    fun s hs => (exec_gxpose s).trans (State.mSlot_access hs ..), fun s hs => ?_⟩
  · exact (decodeSlot_gxpose lit q t z).trans (if_neg fun h => hqtz.elim (· h.1) (·.elim (· h.2.1) (· h.2.2)))
  · obtain ⟨h, f, issue, flight, cells, gens, flags', gens', written⟩ :=
      exec_rewritesRows (exec_gxpose s) hs fun _ => List.mem_range.mp
    refine ⟨h, f, issue, flight, cells, gens, flags', gens', fun i j hi hj => ?_⟩
    rw [written i j hi, if_pos (List.mem_range.mpr hi), Row.at_ofFn hj]

end Sys2Proof.Machine
end

section
/-! Elementwise V slots (R243 to R245) and VSEL (R256): the fields of a V word, the elements and cells of a group, and the rows that a
slot rewrites. -/

namespace Sys2Proof.Machine

/-! ### The V form (R154) -/

/-- A word of the V form: opcode, gd, ga, gb, masked. -/
def vWord (op : BitVec 7) (d a b : BitVec 8) (m : BitVec 1) : Cell := op ++ d ++ a ++ b ++ m

section Fields
variable (op : BitVec 7) (d a b : BitVec 8) (m : BitVec 1)

/-- The word as the fields stand in it, at the sum of their widths. -/
theorem extractLsb'_vWord (i n : Nat) : (vWord op d a b m).extractLsb' i n =
    BitVec.extractLsb' (n := 7 + 8 + 8 + 8 + 1) i n (op ++ d ++ a ++ b ++ m) := rfl

@[simp] theorem vWord_op : (vWord op d a b m).extractLsb' 25 7 = op := by
  rw [extractLsb'_vWord]
  iterate 4 rw [BitVec.extractLsb'_append_eq_of_le (by decide)]
  rw [BitVec.extractLsb'_eq_self]
@[simp] theorem vWord_d : (vWord op d a b m).extractLsb' 17 8 = d := by
  rw [extractLsb'_vWord]
  iterate 3 rw [BitVec.extractLsb'_append_eq_of_le (by decide)]
  rw [BitVec.extractLsb'_append_eq_right]
@[simp] theorem vWord_a : (vWord op d a b m).extractLsb' 9 8 = a := by
  rw [extractLsb'_vWord]
  iterate 2 rw [BitVec.extractLsb'_append_eq_of_le (by decide)]
  rw [BitVec.extractLsb'_append_eq_right]
@[simp] theorem vWord_b : (vWord op d a b m).extractLsb' 1 8 = b := by
  rw [extractLsb'_vWord, BitVec.extractLsb'_append_eq_of_le (by decide), BitVec.extractLsb'_append_eq_right]
@[simp] theorem vWord_masked : (vWord op d a b m).extractLsb' 0 1 = m := by
  rw [extractLsb'_vWord, BitVec.extractLsb'_append_eq_right]

end Fields

/-! ### Elements and cells of a group (Table 12.1) -/

/-- The view of a group is the row, the column or the diagonal view. -/
theorem specView_cases {d : BitVec 8} (hd : isSpecial d = false) : specView d = 0 ∨ specView d = 1 ∨ specView d = 2 := by
  have named : d.extractLsb' 6 2 ≠ 3 := of_decide_eq_false hd
  have range : specView d < 4 := (d.extractLsb' 6 2).isLt
  have notSpecial : specView d ≠ 3 := fun h => named (BitVec.eq_of_toNat_eq h)
  omega

theorem specIdx_lt (d : BitVec 8) : specIdx d < 64 := (d.extractLsb' 0 6).isLt

theorem vecOf_cellOf {d : BitVec 8} (hd : isSpecial d = false) {r l : Nat} (hr : r < 64) (hl : l < 64) :
    vecOf d (cellOf d r l).1 (cellOf d r l).2 = (r, l) := by
  have idx := specIdx_lt d
  obtain h | h | h := specView_cases hd <;> simp only [vecOf, cellOf, h, Prod.mk.injEq] <;> omega

theorem cellOf_vecOf {d : BitVec 8} (hd : isSpecial d = false) {i j : Nat} (hi : i < 64) (hj : j < 64) :
    cellOf d (vecOf d i j).1 (vecOf d i j).2 = (i, j) := by
  have idx := specIdx_lt d
  obtain h | h | h := specView_cases hd <;> simp only [vecOf, cellOf, h, Prod.mk.injEq] <;> omega

theorem cellOf_lt (d : BitVec 8) (r l : Nat) : (cellOf d r l).1 < 64 ∧ (cellOf d r l).2 < 64 := by
  rw [cellOf]
  split <;> exact ⟨Nat.mod_lt _ (by decide), Nat.mod_lt _ (by decide)⟩

theorem mem_lanesOf (d : BitVec 8) (shp : Word) (l : Nat) : l ∈ lanesOf d shp ↔ inLanes d shp l = true := by
  simp only [lanesOf, inLanes, List.mem_map, List.mem_range, decide_eq_true_eq]
  constructor
  · rintro ⟨p, hp, rfl⟩; omega
  · intro h; exact ⟨l - laneLo d shp, by omega, by omega⟩

theorem lt_of_mem_groupRows {d : BitVec 8} {n : Nat} {shp : Word} {i : Nat} (h : i ∈ groupRows d n shp) : i < 64 := by
  rw [groupRows, touchRows] at h
  split at h
  · exact absurd h List.not_mem_nil
  · split at h <;> obtain ⟨x, -, rfl⟩ := List.mem_map.mp h <;> exact Nat.mod_lt _ (by decide)

/-- The row of an element of the group is one of the group's rows. -/
theorem cellOf_mem_groupRows {d : BitVec 8} (hd : isSpecial d = false) {n : Nat} {shp : Word} {r l : Nat} (hr : r < n)
    (hl : inLanes d shp l = true) : (cellOf d r l).1 ∈ groupRows d n shp := by
  have written : ¬ (isSpecial d = true ∨ n = 0) := by simp [hd, Nat.ne_zero_of_lt hr]
  rw [groupRows, touchRows, if_neg written]
  obtain h | h | h := specView_cases hd <;> simp only [cellOf, h]
  · exact List.mem_map_of_mem (List.mem_range.mpr hr)
  · exact List.mem_map_of_mem ((mem_lanesOf ..).mpr hl)
  · exact List.mem_map_of_mem ((mem_lanesOf ..).mpr hl)

/-- Vectors and lanes of a group under a legal deckle are numbers below 64. -/
theorem grpVecs_le {s : State} (hs : s.deckleOk) (d : BitVec 8) : grpVecs d s.slot.pkt.shp ≤ 64 := by
  obtain ⟨-, rows, -, cols⟩ := hs
  rw [grpVecs]; split <;> omega
theorem lt_of_inLanes {s : State} (hs : s.deckleOk) {d : BitVec 8} {l : Nat} (h : inLanes d s.slot.pkt.shp l = true) : l < 64 := by
  obtain ⟨-, rows, -, cols⟩ := hs
  have range := of_decide_eq_true h
  rw [laneLo, laneCnt] at range
  split at range <;> omega

section Selection
variable (g : Grid) {d : BitVec 8} (hd : isSpecial d = false) {n : Nat} {shp : Word} {m : Bool}
include hd

theorem Grid.selGroup_cellOf {r l : Nat} (hr64 : r < 64) (hl64 : l < 64) (hr : r < n) (hl : inLanes d shp l = true)
    (ha : g.active m l = true) : g.selGroup d n shp m (cellOf d r l).1 (cellOf d r l).2 = some (r, l) := by
  rw [Grid.selGroup, vecOf_cellOf hd hr64 hl64]
  exact if_pos ⟨hr, hl, ha⟩

/-- A cell that no active element of the group occupies is not selected. -/
theorem Grid.selGroup_eq_none {i j : Nat} (hi : i < 64) (hj : j < 64)
    (out : ∀ r l, r < n → inLanes d shp l = true → g.active m l = true → cellOf d r l ≠ (i, j)) :
    g.selGroup d n shp m i j = none :=
  if_neg fun ⟨hr, hl, ha⟩ => out _ _ hr hl ha (cellOf_vecOf hd hi hj)

end Selection

/-! ### The rows that a V slot rewrites -/

/-- A fold whose steps append one entry to the list that they carry. -/
theorem foldl_fst_append {α β γ : Type} {step : List β × γ → α → List β × γ} {entry : α → β}
    (h : ∀ acc x, (step acc x).1 = acc.1 ++ [entry x]) (l : List α) (acc : List β × γ) :
    (l.foldl step acc).1 = acc.1 ++ l.map entry := by
  induction l generalizing acc with
  | nil => exact (List.append_nil _).symm
  | cons x l ih => rw [List.foldl_cons, ih, h, List.append_assoc, List.map_cons, List.singleton_append]

section Rebuild
variable (g : Grid) (sel : Nat → Nat → Option (Nat × Nat)) (f : Nat → Nat → Nat → Nat → Cell → Cell × Flags)

/-- A cell as `Grid.rebuild` computes it, with the flags that it raises. -/
def Grid.rebuilt (i j : Nat) : Cell × Flags :=
  match sel i j with
  | some (r, l) => f r l i j (g.cell i j)
  | none => (g.cell i j, 0)

variable {sel} in
theorem Grid.rebuilt_of_some {i j r l : Nat} (h : sel i j = some (r, l)) : g.rebuilt sel f i j = f r l i j (g.cell i j) := by
  rw [Grid.rebuilt, h]

variable {sel} in
theorem Grid.rebuilt_of_none {i j : Nat} (h : sel i j = none) : g.rebuilt sel f i j = (g.cell i j, 0) := by
  rw [Grid.rebuilt, h]

/-- The rows of a rebuild stand in the order of the list, each a function of its number. -/
theorem Grid.rebuild_fst (rows : List Nat) :
    (g.rebuild rows sel f).1 = rows.map fun i => (i, Vector.ofFn fun j => (g.rebuilt sel f i j.val).1) := by
  refine (foldl_fst_append (fun acc i => ?_) rows ([], 0)).trans (List.nil_append _)
  show acc.1 ++ [(i, (Vector.ofFn fun j => g.rebuilt sel f i j.val).map Prod.fst)] = _
  rw [Vector.map_ofFn]; rfl

/-- The grid with the rebuilt rows in place: a cell of a rebuilt row is the rebuilt cell, every other cell is kept. -/
theorem Grid.cell_setRows_rebuild {rows : List Nat} (inGrid : ∀ r ∈ rows, r < 64) {i j : Nat} (hi : i < 64) (hj : j < 64) :
    (g.setRows (g.rebuild rows sel f).1).cell i j = if i ∈ rows then (g.rebuilt sel f i j).1 else g.cell i j := by
  rw [Grid.rebuild_fst, Grid.cell_eq, Grid.row_setRows _ hi _ _ inGrid]
  split
  · exact Row.at_ofFn hj
  · rfl

end Rebuild

/-! ### An elementwise V slot that does not round -/

theorem State.vSlot_access {s : State} (h : s.slot.side = .access) (i : Instr) (perform : GridPkt → Option Cell → Grid → VOut) :
    s.vSlot i anyField noFormat perform =
      .next (s.modSlot (fun c => { c with pkt := { c.pkt with v := c.pkt.v ++ [⟨i, c.word, c.lit⟩] } })) := by
  rw [State.vSlot, h]; rfl

theorem State.vSlot_grid {s : State} (h : s.slot.side = .grid) (i : Instr) (fieldOk : Word → Bool) (err : Word → Option FmtDetail)
    (perform : GridPkt → Option Cell → Grid → VOut) :
    s.vSlot i fieldOk err perform =
      .next (s.modGrid s.cur fun g => g.vIssue s.slot.pkt i (perform s.slot.pkt s.slot.lit s.me.grid)) := by
  rw [State.vSlot, h]; rfl

section Map
variable (g : Grid) (p : GridPkt) {d : BitVec 8} (m : Bool) (f : Nat → Nat → Nat → Cell → Cell × Flags)

theorem Grid.cellsOf_vMap : (g.vMap p d m false f).cellsOf g = g.setRows
    (g.rebuild (groupRows d (grpVecs d p.shp) p.shp) (g.selGroup d (grpVecs d p.shp) p.shp m) fun r l _ _ => f 0 r l).1 := rfl

theorem Grid.cell_vMap {i j : Nat} (hi : i < 64) (hj : j < 64) : ((g.vMap p d m false f).cellsOf g).cell i j =
    if i ∈ groupRows d (grpVecs d p.shp) p.shp
      then (g.rebuilt (g.selGroup d (grpVecs d p.shp) p.shp m) (fun r l _ _ => f 0 r l) i j).1 else g.cell i j := by
  rw [Grid.cellsOf_vMap, g.cell_setRows_rebuild _ _ (fun _ => lt_of_mem_groupRows) hi hj]

variable (hd : isSpecial d = false)
include hd

/-- An active element of the group takes the operation's value. -/
theorem Grid.cell_vMap_active {r l : Nat} (hr64 : r < 64) (hl64 : l < 64) (hr : r < grpVecs d p.shp)
    (hl : inLanes d p.shp l = true) (ha : g.active m l = true) :
    ((g.vMap p d m false f).cellsOf g).cell (cellOf d r l).1 (cellOf d r l).2 =
      (f 0 r l (g.cell (cellOf d r l).1 (cellOf d r l).2)).1 := by
  obtain ⟨hi, hj⟩ := cellOf_lt d r l
  rw [g.cell_vMap p m f hi hj, if_pos (cellOf_mem_groupRows hd hr hl),
    g.rebuilt_of_some _ (g.selGroup_cellOf hd hr64 hl64 hr hl ha)]

/-- A cell that no active element of the group occupies keeps its value. -/
theorem Grid.cell_vMap_keeps {i j : Nat} (hi : i < 64) (hj : j < 64)
    (out : ∀ r l, r < grpVecs d p.shp → inLanes d p.shp l = true → g.active m l = true → cellOf d r l ≠ (i, j)) :
    ((g.vMap p d m false f).cellsOf g).cell i j = g.cell i j := by
  rw [g.cell_vMap p m f hi hj, g.rebuilt_of_none _ (g.selGroup_eq_none hd hi hj out)]
  exact ite_self _

end Map

/-- A V slot whose meaning is the map of its group by an operation without a draw is elementwise. -/
theorem elementwise_of_vMap {i : Instr} {fieldOk : Word → Bool} {err : Word → Option FmtDetail} {d : BitVec 8} {m : Bool}
    {op : GridPkt → Option Cell → Grid → Nat → Nat → Nat → Cell → Cell × Flags} {f : State → Nat → Nat → Nat → Cell → Cell}
    (meaning : ∀ s, exec i s = s.vSlot i fieldOk err fun p l g => g.vMap p d m false (op p l g))
    (value : ∀ s r l old, (op s.slot.pkt s.slot.lit s.me.grid 0 r l old).1 = f s 0 r l old) : Elementwise i d m false f := by
  intro s hs hdeckle hd g p
  refine ⟨g.vMap p d m false (op p s.slot.lit g), (meaning s).trans (State.vSlot_grid hs ..), rfl, rfl,
    fun r l hr hl ha => ?_, fun a b ha hb out => g.cell_vMap_keeps p m _ hd ha hb out⟩
  have r64 : r < 64 := Nat.lt_of_lt_of_le hr (grpVecs_le hdeckle d)
  have l64 : l < 64 := lt_of_inLanes hdeckle hl
  exact (g.cell_vMap_active p m _ hd r64 l64 hr hl ha).trans (value ..)

/-! ### VSEL -/

/-- R256: masked must be 0. -/
theorem decodeSlot_vsel (lit : Option Cell) {d a b : BitVec 8} (hd : dstSpec d = true) (ha : srcSpec a = true) (hb : srcSpec b = true)
    (hda : sameView d a = true) (hdb : sameView d b = true) (m : BitVec 1) :
    decodeSlot .v lit (vWord 0x28 d a b m) = if m = 0 then .ok (.vsel d a b) else .error .reservedField := by
  simp [decodeSlot, decodeV, slotRow, hd, ha, hb, hda, hdb]

theorem exec_vsel (d a b : BitVec 8) (s : State) :
    exec (.vsel d a b) s = s.vSlot (.vsel d a b) anyField noFormat fun p l g => g.vMap p d false false fun _ r j _ =>
      (if (g.rk 0).getLsbD j then g.src l a r j else g.src l b r j, 0) := rfl

/-- Settles O31: VSEL maps its group by the choice that k0 makes in each lane. -/
theorem vselPicksByK0 : Obligations.VselPicksByK0 := by
  unfold Obligations.VselPicksByK0
  intro d a b hd ha hb hda hdb
  have decodes := fun lit => decodeSlot_vsel lit hd ha hb hda hdb
  exact ⟨fun lit => ⟨decodes lit 0, decodes lit 1⟩,
    fun s hs => (exec_vsel d a b s).trans (State.vSlot_access hs ..),
    elementwise_of_vMap (exec_vsel d a b) fun _ _ _ _ => rfl⟩

end Sys2Proof.Machine
end
